-- ==== Sys2Proof/Word.lean ====
section
/-! DEFINITION. The names by which the items of the junction are numbered (spec/00, Table I-3) and the plainest arithmetic on them. -/

namespace Sys2Proof

/-- One character of the serial line or one byte of a frame (R174, R175). -/
abbrev Byte := BitVec 8

/-- A signal group; index `g` stands for G(g+1) (Table I-3). -/
abbrev Group := Fin 16

/-- A load channel and its load relay; index `c` stands for C(c+1) and LR(c+1) (Table I-3). -/
abbrev Chan := Fin 48

/-- A cable core; index `k` stands for K(k+1) (Table I-3). -/
abbrev CoreId := Fin 64

/-- A detector; index `d` stands for D(d+1) (Table I-3). -/
abbrev Det := Fin 32

/-- A set of the signal groups G1 to G16. -/
abbrev GroupSet := Vector Bool 16

/-- A set of the stage numbers 1 to 16; index `i` stands for stage i+1. -/
abbrev StageSet := Vector Bool 16

/-- A set of weekdays; index `i` stands for weekday i+1 (1 is Monday, Table I-2). -/
abbrev DaySet := Vector Bool 7

/-- Replace one entry of a table by a function of its old value. -/
def upd {α : Type} {n : Nat} (v : Vector α n) (i : Fin n) (f : α → α) : Vector α n :=
  v.set i (f v[i])

/-- The entries of a table, each changed by a function of its own index. -/
def mapIx {α β : Type} {n : Nat} (v : Vector α n) (f : Fin n → α → β) : Vector β n :=
  Vector.ofFn fun i => f i v[i]

/-- A number written 1 to n by the host, as an index; none where it lies outside that range. -/
def index? (n x : Nat) : Option (Fin n) :=
  if h : 1 ≤ x ∧ x ≤ n then some ⟨x - 1, by omega⟩ else none

/-- Replacement by the nearer end of a range (spec/00, Notation). -/
def clamp (lo hi x : Nat) : Nat := max lo (min hi x)

/-- Whether a number lies in a range, both ends included. -/
def within (lo hi x : Nat) : Bool := decide (lo ≤ x) && decide (x ≤ hi)

/-- Tenths of a second as milliseconds (R1). -/
def tenths (x : Nat) : Nat := 100 * x

/-- Minutes as milliseconds. -/
def minutes (x : Nat) : Nat := 60000 * x

/-- Hours as milliseconds. -/
def hours (x : Nat) : Nat := 3600000 * x

/-- The channel of a group: colour 0 is its red, 1 its amber, 2 its green (Table I-3). -/
def chanOf (g : Group) (colour : Fin 3) : Chan := ⟨3 * g.val + colour.val, by omega⟩

/-- The group of a channel. -/
def groupOf (c : Chan) : Group := ⟨c.val / 3, by omega⟩

/-- The colour of a channel: 0 red, 1 amber, 2 green. -/
def colourOf (c : Chan) : Fin 3 := ⟨c.val % 3, by omega⟩

@[simp] theorem groupOf_chanOf (g : Group) (k : Fin 3) : groupOf (chanOf g k) = g := by
  ext; simp only [groupOf, chanOf]; omega

@[simp] theorem colourOf_chanOf (g : Group) (k : Fin 3) : colourOf (chanOf g k) = k := by
  ext; simp only [colourOf, chanOf]; omega

@[simp] theorem upd_same {α : Type} {n : Nat} (v : Vector α n) (i : Fin n) (f : α → α) :
    (upd v i f)[i] = f v[i] := by simp [upd]

theorem upd_other {α : Type} {n : Nat} (v : Vector α n) (i j : Fin n) (f : α → α) (h : i ≠ j) :
    (upd v i f)[j] = v[j] := by
  have : i.val ≠ j.val := fun e => h (Fin.ext e)
  simp [upd, this]

@[simp] theorem mapIx_get {α β : Type} {n : Nat} (v : Vector α n) (f : Fin n → α → β) (i : Fin n) :
    (mapIx v f)[i] = f i v[i] := by simp [mapIx]

end Sys2Proof
end

