-- ==== Sys2Proof/Syntax.lean ====
section
/-! DEFINITION. The commands of the controller, one constructor for each row of spec/opcode_table.json, with their operands. A value of a request that the host may write outside the named ones (a type, a mode, a kind) is an Option whose none stands for none of the named values. -/

namespace Sys2Proof

/-- Types of a signal group (Table 1-1). -/
inductive GroupType where
  | vehicle | pedestrian | arrow | unused
  deriving DecidableEq, Repr

/-- Lamp types of a channel (Table 7-1). -/
inductive LampType where
  | incandescent | led
  deriving DecidableEq, Repr

/-- A dark leak threshold: a value in mA, or TYPE_DEFAULT (R116). -/
inductive LeakThreshold where
  | milliamps (x : Nat) | typeDefault
  deriving DecidableEq, Repr

/-- The two supply relays (Table I-3). -/
inductive Supply where
  | smc | ftr
  deriving DecidableEq, Repr

/-- Responses, from least to greatest (R161). -/
inductive Response where
  | none | report | holdGroup | junctionFlash | junctionDark
  deriving DecidableEq, Repr

/-- A DARK or FLASH display or style (Table 10-1). -/
inductive Display where
  | dark | flash
  deriving DecidableEq, Repr

/-- Detector kinds (Table 4-1). -/
inductive DetKind where
  | presence | push | disabled
  deriving DecidableEq, Repr

/-- Call modes of a stage record (Table 2-2). -/
inductive CallMode where
  | always | onDemand
  deriving DecidableEq, Repr

/-- Plan kinds (Table 2-3). -/
inductive PlanKind where
  | fixed | actuated
  deriving DecidableEq, Repr

/-- A plan reference: a plan number and an expected tag (Section 2.7). -/
structure PlanRef where
  plan : Nat
  tag  : Nat
  deriving DecidableEq, Repr

/-- The source of a COPY item (R34). -/
inductive CopySource where
  | inUse | pending | empty
  deriving DecidableEq, Repr

/-- The three copies of the plan set, as READ_PLAN names them (R45). -/
inductive PlanCopy where
  | inUse | pending | staging
  deriving DecidableEq, Repr

/-- The item a READ_PLAN names (R45); `other` is an item of no known kind. -/
inductive PlanItem where
  | plan (ref : PlanRef)
  | directory
  | stage (n : Nat)
  | record (position : Nat)
  | other
  deriving DecidableEq, Repr

/-- The action of a time-of-day entry (R68). -/
inductive TodAction where
  | plan (ref : PlanRef)
  | flash
  | base
  deriving DecidableEq, Repr

/-- What a TOD_DELETE removes (R68). -/
inductive TodTarget where
  | all
  | entry (days : DaySet) (hour minute : Nat)
  deriving DecidableEq, Repr

/-- The timing of a plan change (R63). -/
inductive Timing where
  | boundary | prompt
  deriving DecidableEq, Repr

/-- The two copies of the configuration, as a reading names them (R23, R152). -/
inductive ConfigCopy where
  | working | edit
  deriving DecidableEq, Repr

/-- The relay a READ_CHANNEL names (R103, R136). -/
inductive ChannelName where
  | channel (c : Nat)
  | supply (r : Supply)
  deriving DecidableEq, Repr

/-- The parts of READ_STATUS (R178); `other` is a part name that is none of these. -/
inductive StatusPart where
  | mode | sequence | output | measurement | survey | fault | link | store | other
  deriving DecidableEq, Repr

/-- The role of a core as a request carries it (R138); `other` is none of the four roles. -/
inductive RoleField where
  | load (c : Nat) | common | spare | unused | other
  deriving DecidableEq, Repr

/-- The fields of a SET_GROUP (R2); times in tenths of a second. -/
structure GroupFields where
  type       : Option GroupType
  amber      : Nat
  redAmber   : Nat
  lampsRed   : Nat
  lampsAmber : Nat
  lampsGreen : Nat
  rmin       : Nat
  deriving DecidableEq, Repr

/-- The fields of a SET_CHANNEL that names a channel (R87, R117). -/
structure ChannelFields where
  lamp         : Option LampType
  nominal      : Nat
  operateLimit : Nat
  releaseLimit : Nat
  deriving DecidableEq, Repr

/-- The six junction settings of a SET_RESPONSE that names JUNCTION (R165); times in tenths. -/
structure JunctionFields where
  standbyDisplay : Option Display
  failsafeStyle  : Option Display
  autoStart      : Option Bool
  startFlash     : Nat
  startRed       : Nat
  endRed         : Nat
  deriving DecidableEq, Repr

/-- The six settings of a SET_DETECTOR (R74): ms, minutes and hours. -/
structure DetectorFields where
  kind     : Option DetKind
  demands  : List Nat
  extend   : Option Nat
  debounce : Nat
  stuckOn  : Nat
  quiet    : Nat
  deriving DecidableEq, Repr

/-- The channel a leak threshold is written to: one, or ALL (R118). -/
inductive ChannelSel where
  | all | one (c : Nat)
  deriving DecidableEq, Repr

/-- The lamp part (R118), the survey part (R139) and the fault part (R157) of a SET_THRESHOLDS; a value not carried is none. -/
structure ThresholdFields where
  leak    : Option (ChannelSel × LeakThreshold)
  warn    : Option Nat
  low     : Option Nat
  hours   : Option Nat
  lampK   : Option Nat
  cableK  : Option Nat
  holdMin : Option Nat
  deriving DecidableEq, Repr

/-- The five fields of a RECORD item (R32); times in tenths of a second. -/
structure RecordFields where
  stage : Nat
  mode  : Option CallMode
  min   : Nat
  max   : Nat
  gap   : Nat
  deriving DecidableEq, Repr

/-- The six fields of a present ENTRY item (R33). -/
structure EntryFields where
  valid : Bool
  kind  : Option PlanKind
  tag   : Nat
  first : Nat
  count : Nat
  start : Nat
  deriving DecidableEq, Repr

/-- The three line rates the straps select (R175). -/
inductive LineRate where
  | baud9600 | baud19200 | baud38400
  deriving DecidableEq, Repr

/-- The two kinds whose suspicions carry a hold timer (R158, Table 9-1). -/
inductive HeldKind where
  | lampOut | lampPartial
  deriving DecidableEq, Repr

/-- The commands, in the order of spec/opcode_table.json. -/
inductive Instr where
  /-- POWER_ON (R172), with the rate straps. -/
  | powerOn (rate : LineRate)
  /-- POWER_LOSS (R185). -/
  | powerLoss
  /-- REFERENCE_CONVERSION_END (R105, R172): the count, and the accepted proofs that are read (true is closed). -/
  | referenceConversionEnd (count : BitVec 16) (loads : Vector Bool 48) (smc ftr line : Bool)
  /-- START_EVENT (R173): whether the store answers the read, and the raw inputs of the first scan. -/
  | startEvent (storeAnswers : Bool) (raw : Vector Bool 32)
  /-- BYTE_RECEIVED (R175), with the framing-error mark. -/
  | byteReceived (b : Byte) (framingError : Bool)
  /-- INTER_BYTE_TIMEOUT (R175). -/
  | interByteTimeout
  /-- REQUEST_TAKEN (R176). -/
  | requestTaken
  /-- FRAME_TRANSMITTED (R182). -/
  | frameTransmitted
  /-- IDENTIFY (R178). -/
  | identify (tag : Byte)
  /-- SET_GROUP (R2). -/
  | setGroup (tag : Byte) (g : Nat) (f : GroupFields)
  /-- SET_INTERGREEN (R10): from group i to group j; none is NONE, a time is in tenths. -/
  | setIntergreen (tag : Byte) (i j : Nat) (value : Option Nat)
  /-- SET_CHANNEL naming a channel (R87, R117). -/
  | setChannel (tag : Byte) (c : Nat) (f : ChannelFields)
  /-- SET_CHANNEL naming SMC or FTR (R87). -/
  | setChannelSupply (tag : Byte) (r : Supply) (operateLimit releaseLimit : Nat)
  /-- SET_CORE (R138). -/
  | setCore (tag : Byte) (k cable number : Nat) (role : RoleField)
  /-- SET_RESPONSE naming a pattern (R161). -/
  | setResponse (tag : Byte) (pattern : Nat) (r : Option Response) (immediate : Bool)
  /-- SET_RESPONSE naming JUNCTION (R165). -/
  | setResponseJunction (tag : Byte) (f : JunctionFields)
  /-- COMMIT_CONFIG (R179). -/
  | commitConfig (tag : Byte)
  /-- SET_DETECTOR (R74). -/
  | setDetector (tag : Byte) (d : Nat) (f : DetectorFields)
  /-- SET_THRESHOLDS (R118, R139, R157). -/
  | setThresholds (tag : Byte) (f : ThresholdFields)
  /-- PLAN_WRITE of a STAGE item (R31). -/
  | planWriteStage (tag : Byte) (st : Nat) (groups : GroupSet)
  /-- PLAN_WRITE of a RECORD item (R32). -/
  | planWriteRecord (tag : Byte) (position : Nat) (f : RecordFields)
  /-- PLAN_WRITE of a POOL_LENGTH item (R32). -/
  | planWritePoolLength (tag : Byte) (length : Nat)
  /-- PLAN_WRITE of an ENTRY item (R33); none is ABSENT. -/
  | planWriteEntry (tag : Byte) (p : Nat) (f : Option EntryFields)
  /-- PLAN_WRITE of a COPY item (R34). -/
  | planWriteCopy (tag : Byte) (source : Option CopySource)
  /-- COMMIT_PLANS (R39). -/
  | commitPlans (tag : Byte)
  /-- READ_PLAN (R45). -/
  | readPlan (tag : Byte) (copy : Option PlanCopy) (item : PlanItem)
  /-- TOD_WRITE (R68); no day mask and no action stand for ones outside their range. -/
  | todWrite (tag : Byte) (days : Option DaySet) (hour minute : Nat) (action : Option TodAction)
  /-- TOD_DELETE (R68). -/
  | todDelete (tag : Byte) (target : TodTarget)
  /-- SET_CLOCK (R71). -/
  | setClock (tag : Byte) (weekday hour minute second : Nat)
  /-- START (R167). -/
  | start (tag : Byte)
  /-- STOP (R167). -/
  | stop (tag : Byte)
  /-- RESUME (R171). -/
  | resume (tag : Byte)
  /-- SELECT_PLAN (R63). -/
  | selectPlan (tag : Byte) (ref : PlanRef) (timing : Option Timing)
  /-- CLEAR_OVERRIDE (R67). -/
  | clearOverride (tag : Byte)
  /-- DEMAND (R85). -/
  | demand (tag : Byte) (stages : List Nat)
  /-- LEARN (R132). -/
  | learn (tag : Byte)
  /-- SURVEY_NOW (R150). -/
  | surveyNow (tag : Byte)
  /-- CANCEL_JOB (R180). -/
  | cancelJob (tag : Byte) (number : Nat)
  /-- READ_GROUP (R23). -/
  | readGroup (tag : Byte) (g : Nat) (copy : Option ConfigCopy)
  /-- READ_CHANNEL (R103, R136). -/
  | readChannel (tag : Byte) (name : ChannelName)
  /-- READ_CORE (R152). The request may leave the copy unnamed (outer none); inner none is neither of the two. -/
  | readCore (tag : Byte) (k : Nat) (copy : Option (Option ConfigCopy))
  /-- READ_DETECTOR (R86). -/
  | readDetector (tag : Byte) (d : Nat) (clearCount : Bool)
  /-- READ_ALARMS (R164). -/
  | readAlarms (tag : Byte) (page : Nat)
  /-- READ_STATUS (R178). -/
  | readStatus (tag : Byte) (part : StatusPart) (page : Nat)
  /-- ACK_ALARMS (R164). -/
  | ackAlarms (tag : Byte)
  /-- RESTART (R185). -/
  | restart (tag : Byte)
  /-- CLOCK_MINUTE_CHANGE (R69). -/
  | clockMinuteChange
  /-- AMBER_TIMER_EXPIRY (R7). -/
  | amberTimerExpiry (g : Group)
  /-- RED_AMBER_START_REACHED (R22). -/
  | redAmberStartReached (g : Group)
  /-- RED_AMBER_TIMER_EXPIRY (R8). -/
  | redAmberTimerExpiry (g : Group)
  /-- GREEN_RELEASE_TIME_REACHED (R21). -/
  | greenReleaseTimeReached (g : Group)
  /-- GREEN_TIMER_EXPIRY (R48, R51). -/
  | greenTimerExpiry
  /-- MAXIMUM_TIMER_EXPIRY (R51). -/
  | maximumTimerExpiry
  /-- GAP_TIMER_EXPIRY (R50). -/
  | gapTimerExpiry
  /-- DETECTOR_RAW_CHANGE (R76): the level a scan finds (true is active). -/
  | detectorRawChange (d : Det) (active : Bool)
  /-- DEBOUNCE_TIMER_EXPIRY (R76). -/
  | debounceTimerExpiry (d : Det)
  /-- STUCK_ON_TIMER_EXPIRY (R81). -/
  | stuckOnTimerExpiry (d : Det)
  /-- QUIET_TIMER_EXPIRY (R82). -/
  | quietTimerExpiry (d : Det)
  /-- LOAD_PROOF_CLOSED (R90 to R92). -/
  | loadProofClosed (c : Chan)
  /-- LOAD_PROOF_OPENED (R91). -/
  | loadProofOpened (c : Chan)
  /-- OPERATE_TIMER_EXPIRY (R90). -/
  | operateTimerExpiry (c : Chan)
  /-- RELEASE_TIMER_EXPIRY (R91). -/
  | releaseTimerExpiry (c : Chan)
  /-- CROSSPOINT_WAIT_TIMER_EXPIRY (R89). -/
  | crosspointWaitTimerExpiry (c : Chan)
  /-- SMC_PROOF_CLOSED (R96). -/
  | smcProofClosed
  /-- SMC_PROOF_OPENED (R96). -/
  | smcProofOpened
  /-- SMC_OPERATE_TIMER_EXPIRY (R96). -/
  | smcOperateTimerExpiry
  /-- SMC_RELEASE_TIMER_EXPIRY (R96). -/
  | smcReleaseTimerExpiry
  /-- FTR_PROOF_CLOSED (R97). -/
  | ftrProofClosed
  /-- FTR_PROOF_OPENED (R97). -/
  | ftrProofOpened
  /-- FTR_OPERATE_TIMER_EXPIRY (R97). -/
  | ftrOperateTimerExpiry
  /-- FTR_RELEASE_TIMER_EXPIRY (R97). -/
  | ftrReleaseTimerExpiry
  /-- MAINS_ZERO_CROSSING (R109): the level of the half cycle in percent of nominal, and the converter's count where a conversion completes. -/
  | mainsZeroCrossing (level : Nat) (count : BitVec 16)
  /-- BOUNDARY_TIMEOUT (R109), with the converter's count where a conversion completes. -/
  | boundaryTimeout (count : BitVec 16)
  /-- MAINS_LOSS_TIMER_EXPIRY (R110). -/
  | mainsLossTimerExpiry
  /-- MAINS_RETURN_TIMER_EXPIRY (R110). -/
  | mainsReturnTimerExpiry
  /-- CONVERTER_GRANT (R108). -/
  | converterGrant
  /-- SETTLE_TIMER_EXPIRY (R121). -/
  | settleTimerExpiry (c : Chan)
  /-- REPEAT_TIMER_EXPIRY (R121, R123). -/
  | repeatTimerExpiry (c : Chan)
  /-- DARK_TIMER_EXPIRY (R128). -/
  | darkTimerExpiry (c : Chan)
  /-- LEARN_TIME_LIMIT_EXPIRY (R134). -/
  | learnTimeLimitExpiry
  /-- INTERVAL_TIMER_EXPIRY (R149). -/
  | intervalTimerExpiry
  /-- WINDOW_TIMER_EXPIRY (R149). -/
  | windowTimerExpiry
  /-- ELIGIBILITY_TIMER_EXPIRY (R142). -/
  | eligibilityTimerExpiry
  /-- CHARGE_TIMER_EXPIRY (R143). -/
  | chargeTimerExpiry
  /-- SURVEYOR_RELEASE_TIMER_EXPIRY (R146). -/
  | surveyorReleaseTimerExpiry
  /-- CROSSPOINT_LINE_OPENED (R89, R146). -/
  | crosspointLineOpened
  /-- CROSSPOINT_LINE_CLOSED (R140). -/
  | crosspointLineClosed
  /-- HOLD_TIMER_EXPIRY (R158), for the suspicion of a kind on a channel. -/
  | holdTimerExpiry (c : Chan) (kind : HeldKind)
  /-- START_FLASH_EXPIRY (R167). -/
  | startFlashExpiry
  /-- START_RED_EXPIRY (R167). -/
  | startRedExpiry
  /-- END_RED_EXPIRY (R168). -/
  | endRedExpiry
  /-- STORE_WRITE_BEGIN (R184). -/
  | storeWriteBegin
  /-- STORE_WRITE_COMPLETE (R185): whether the comparison matches. -/
  | storeWriteComplete (verified : Bool)
  deriving DecidableEq, Repr

end Sys2Proof
end

