-- ==== Sys2Proof/Config.lean ====
section
/-! DEFINITION. What the spec leaves open: free values, constants without a body, so that nothing can be proved about which value they take. -/

namespace Sys2Proof

/-- Steps of a store write (R184): the image's blocks are erased, programmed, read back and compared. -/
inductive WriteStep where
  | erase | program | readBack | compare
  deriving DecidableEq, Repr, Inhabited

/-- The step at which a store write stands when it is read the n-th time (R178, STORE part). FREE VALUE (log 8): the spec gives the order of the steps and no event between them. -/
opaque Config.writeStep (n : Nat) : WriteStep

/-- The converter's count at a boundary that the model makes by itself when no crossing comes (R109). FREE VALUE (log 8): the reading is the cabinet's. -/
opaque Config.converterCount (n : Nat) : BitVec 16

end Sys2Proof
end

