-- ==== Sys2Proof/Machine/State.lean ====
section
/-! DEFINITION. The state of the controller as plain data: every item the spec gives a block (spec/00 Table I-1), the queue of waiting commands, and State.reset. A timer is held as the millisecond at which it runs out, none while it is stopped; an elapsed-time timer as the millisecond at which it was started. -/

namespace Sys2Proof.Machine

/-- A timer: stopped, or the millisecond count at which it runs out (R1). -/
abbrev Timer := Option Nat

/-! ### Configuration (R4) -/

/-- Configuration part of a group record (Table 1-1); times in tenths of a second. -/
structure GroupCfg where
  type       : GroupType
  amber      : Nat
  redAmber   : Nat
  lampsRed   : Nat
  lampsAmber : Nat
  lampsGreen : Nat
  rmin       : Nat
  deriving DecidableEq, Repr

/-- Operate and release limits of a relay, in ms (Table 5-1). -/
structure Limits where
  operate : Nat
  release : Nat
  deriving DecidableEq, Repr

/-- Configuration part of a channel: proving record (Table 7-1) and relay limits (Table 5-1). -/
structure ChannelCfg where
  lamp    : LampType
  nominal : Nat
  iref    : Nat
  learned : Bool
  leak    : LeakThreshold
  limits  : Limits
  deriving DecidableEq, Repr

/-- Role of a core (Table 8-1). -/
inductive Role where
  | load (c : Chan) | common | spare | unused
  deriving DecidableEq, Repr

/-- Configuration part of a core record (Table 8-1). -/
structure CoreCfg where
  cable  : Nat
  number : Nat
  role   : Role
  deriving DecidableEq, Repr

/-- Settings part of a detector record (Table 4-1). -/
structure DetCfg where
  kind     : DetKind
  demands  : StageSet
  extend   : Option (Fin 16)
  debounce : Nat
  stuckOn  : Nat
  quiet    : Nat
  deriving DecidableEq, Repr

/-- Survey thresholds and interval (R139), confirmation counts and hold time (R157). -/
structure Thresholds where
  warn    : Nat
  low     : Nat
  hours   : Nat
  lampK   : Nat
  cableK  : Nat
  holdMin : Nat
  deriving DecidableEq, Repr

/-- One entry of the response table (R161). -/
structure RespEntry where
  response  : Response
  immediate : Bool
  deriving DecidableEq, Repr

/-- The junction settings (Table 10-1); times in tenths of a second. -/
structure JunctionCfg where
  standbyDisplay : Display
  failsafeStyle  : Display
  autoStart      : Bool
  startFlash     : Nat
  startRed       : Nat
  endRed         : Nat
  deriving DecidableEq, Repr

/-- One copy of the configuration (R4, R183). -/
structure Settings where
  groups   : Vector GroupCfg 16
  ig       : Vector (Vector (Option Nat) 16) 16
  channels : Vector ChannelCfg 48
  smc      : Limits
  ftr      : Limits
  cores    : Vector CoreCfg 64
  dets     : Vector DetCfg 32
  thr      : Thresholds
  resp     : Vector RespEntry 32
  junction : JunctionCfg
  deriving DecidableEq, Repr

/-! ### Plan set (Chapter 2) -/

/-- A stage definition (R24, R25). -/
structure StageDef where
  groups : GroupSet
  void   : Bool
  deriving DecidableEq, Repr

/-- A stage record (Table 2-2); a blank record names no stage. Times in tenths of a second. -/
structure StageRecord where
  stage : Option (Fin 16)
  mode  : CallMode
  min   : Nat
  max   : Nat
  gap   : Nat
  deriving DecidableEq, Repr

/-- A present entry of the plan directory (Table 2-3). -/
structure PlanEntry where
  valid : Bool
  kind  : PlanKind
  tag   : Nat
  first : Nat
  count : Nat
  start : Nat
  deriving DecidableEq, Repr

/-- One copy of the plan set (Table 2-1); the pool length is the length of `pool`, and position p is its entry p - 1. -/
structure PlanSet where
  stages : Vector StageDef 16
  pool   : List StageRecord
  dir    : Vector (Option PlanEntry) 16
  deriving DecidableEq, Repr

/-- The pending copy with the generation of the PLANS image that holds it (R29, R44 step 5). -/
structure PendingSet where
  set        : PlanSet
  generation : Nat
  deriving DecidableEq, Repr

/-- A record of a resolved plan: its five fields and the group set of its stage (R36). -/
structure ResolvedRecord where
  stage  : Fin 16
  mode   : CallMode
  min    : Nat
  max    : Nat
  gap    : Nat
  groups : GroupSet
  deriving DecidableEq, Repr

/-- A resolved plan and the reference from which it was resolved (R36). -/
structure ResolvedPlan where
  ref     : PlanRef
  number  : Nat
  tag     : Nat
  kind    : PlanKind
  start   : Nat
  records : List ResolvedRecord
  deriving DecidableEq, Repr

/-! ### Groups and the sequence engine (Chapters 1 and 3) -/

/-- Aspects of a group (Table 1-3). -/
inductive Aspect where
  | red | redAmber | green | amber | dark | flashAmber
  deriving DecidableEq, Repr

/-- Running part of a group record (Table 1-1), with the red-amber start stored at a decision (R22, R56). -/
structure GroupRun where
  aspect           : Aspect
  conflictRedOut   : Bool
  hold             : Bool
  greenUnavailable : Bool
  pendingGreen     : Bool
  amberTimer       : Timer
  redAmberTimer    : Timer
  greenRelease     : Option Nat
  redAmberStart    : Option Nat
  lastGreenOff     : Option Nat
  greenMark        : Bool
  deriving DecidableEq, Repr

/-- Engine states (R46). -/
inductive EngineState where
  | off | changing | green | resting | allRed
  deriving DecidableEq, Repr

/-- Plan sources (Table 3-1). -/
inductive PlanSource where
  | timeTable | linkOverride
  deriving DecidableEq, Repr

/-- An entry of the time-of-day table (R68). -/
structure TodEntry where
  days   : DaySet
  hour   : Nat
  minute : Nat
  action : TodAction
  deriving DecidableEq, Repr

/-- Origins of a pending plan change (Table 3-1). -/
inductive ChangeOrigin where
  | timeTable | link
  deriving DecidableEq, Repr

/-- A pending plan change (Table 3-1). -/
structure PendingChange where
  ref    : PlanRef
  timing : Timing
  origin : ChangeOrigin
  deriving DecidableEq, Repr

/-- The sequence engine (Table 3-1). Stage 0 is the all-red stage; a record is counted from 1. `gaining` holds the groups sorted as gaining at the decision of the change under way (R56); `tableResult` none is BASE with no entry; while `barred` no decision is taken (R61 step 3). -/
structure Engine where
  state       : EngineState
  plan        : Option ResolvedPlan
  record      : Option Nat
  stage       : Option Nat
  prevStage   : Option Nat
  gaining     : GroupSet
  greenTimer  : Timer
  maxTimer    : Timer
  gapTimer    : Timer
  gapped      : Bool
  demands     : StageSet
  source      : PlanSource
  override    : Option PlanRef
  tableResult : Option TodEntry
  change      : Option PendingChange
  barred      : Bool
  deriving DecidableEq, Repr

/-- The calendar clock (R71), with the part of a second gone by. -/
structure Clock where
  weekday : Nat
  hour    : Nat
  minute  : Nat
  second  : Nat
  milli   : Nat
  valid   : Bool
  deriving DecidableEq, Repr

/-! ### Detectors (Chapter 4) -/

/-- Detector states (R74). -/
inductive DetState where
  | clear | active | stuck | quiet
  deriving DecidableEq, Repr

/-- Running part of a detector record (Table 4-1), with its raw input (R73). The stuck-on and quiet timers are held by their start times. -/
structure DetRun where
  raw        : Bool
  accepted   : Bool
  state      : DetState
  debounce   : Timer
  stuckStart : Option Nat
  quietStart : Option Nat
  count      : Nat
  deriving DecidableEq, Repr

/-! ### Switching and supervision (Chapter 5) -/

/-- Load relay states (Table 5-1). -/
inductive RelayState where
  | released | operating | operated | releasing | failedOpen | failedClosed
  deriving DecidableEq, Repr

/-- Failure origins (Table 5-1). -/
inductive FailureOrigin where
  | none | noOperate | crosspoint | dropped | welded
  deriving DecidableEq, Repr

/-- Load relay record (Table 5-1); `waitCore` is the core of the crosspoint release request (R88, R89). -/
structure Relay where
  state     : RelayState
  coil      : Bool
  proof     : Bool
  held      : Bool
  waitCore  : Option CoreId
  waitTimer : Timer
  opTimer   : Timer
  relTimer  : Timer
  gen       : BitVec 16
  darkSince : Option Nat
  origin    : FailureOrigin
  deriving DecidableEq, Repr

/-- States of a supply relay: OPEN, CLOSING, CLOSED, OPENING, FAILED of the SMC (R96) and FLASH, TO_NORMAL, NORMAL, TO_FLASH, FAILED of the FTR (R97), in this order. -/
inductive SupplyState where
  | rest | operating | operated | releasing | failed
  deriving DecidableEq, Repr

/-- The SMC or FTR machine (R96, R97). -/
structure SupplyRelay where
  state    : SupplyState
  coil     : Bool
  proof    : Bool
  held     : Bool
  opTimer  : Timer
  relTimer : Timer
  deriving DecidableEq, Repr

/-- Output monitor state of a group (Table 5-3). -/
structure MonGroup where
  contact     : Bool
  darkCurrent : Bool
  proven      : Bool
  lastEnd     : Option Nat
  deriving DecidableEq, Repr

/-! ### Measurement and mains (Chapter 6) -/

/-- Converter ranges (Table 6-1). -/
inductive ConvRange where
  | lampHigh | lampLow | leakX16 | leakX1
  deriving DecidableEq, Repr

/-- Converter states (R104). -/
inductive ConvState where
  | idle | armed | firstHalf | secondHalf | reference
  deriving DecidableEq, Repr

/-- Kind and subject of a measurement request (Table 6-2); LIT and DARK come from the lamp prover, LEAK from the surveyor. -/
inductive Subject where
  | lit (c : Chan) | dark (c : Chan) | leak (k : CoreId)
  deriving DecidableEq, Repr

/-- The blocks that place measurement requests (Table 6-2). -/
inductive Requester where
  | lampProver | surveyor
  deriving DecidableEq, Repr

/-- The requester of a measurement request, which its kind tells (R106, Table 6-2). -/
def Subject.requester : Subject → Requester
  | .lit _ | .dark _ => .lampProver
  | .leak _ => .surveyor

/-- A measurement request (Table 6-2). -/
structure MeasReq where
  subject : Subject
  range   : ConvRange
  stamp   : Option (BitVec 16)
  queued  : Nat
  deriving DecidableEq, Repr

/-- The measurement scheduler and converter (R104 to R113). -/
structure Meas where
  queue    : List MeasReq
  conv     : ConvState
  range    : Option ConvRange
  current  : Option MeasReq
  dip      : Bool
  refCount : BitVec 16
  refEnd   : Timer
  deriving DecidableEq, Repr

/-- Mains states (R110). -/
inductive MainsState where
  | normal | dip | loss
  deriving DecidableEq, Repr

/-- The mains monitor (R109 to R111); `timeout` is when a boundary is made without a crossing. -/
structure Mains where
  state       : MainsState
  lossTimer   : Timer
  returnTimer : Timer
  timeout     : Timer
  dips        : Nat
  losses      : Nat
  level       : Nat
  deriving DecidableEq, Repr

/-! ### Lamp proving (Chapter 7) -/

/-- Kinds of a lamp reading (Table 7-1). -/
inductive ReadingKind where
  | lit | dark
  deriving DecidableEq, Repr

/-- The last reading of a channel (Table 7-1). -/
structure Reading where
  kind    : ReadingKind
  current : Nat
  overrange : Bool
  time    : Nat
  deriving DecidableEq, Repr

/-- Lit periods (Table 7-1). -/
inductive LitPeriod where
  | none | lit | failed
  deriving DecidableEq, Repr

/-- Running part of a channel proving record (Table 7-1). `addedInPeriod` (R133), `litReached` (R127) and `darkReached` (R129) are the model's own marks. -/
structure LampRun where
  learning      : Bool
  lampsLit      : Nat
  last          : Option Reading
  lit           : LitPeriod
  settle        : Timer
  repeatTimer   : Timer
  dark          : Timer
  flashDiscard  : Bool
  litCount      : Nat
  litReached    : Bool
  darkCount     : Nat
  darkReached   : Bool
  learnSet      : List Nat
  learnPeriods  : Nat
  addedInPeriod : Bool
  deriving DecidableEq, Repr

/-! ### Cable survey (Chapter 8) -/

/-- Insulation levels (Table 8-1). -/
inductive Level where
  | ok | warn | low | earthFault
  deriving DecidableEq, Repr

/-- Pass marks (Table 8-1). -/
inductive PassMark where
  | none | due | deferred | tested
  deriving DecidableEq, Repr

/-- Test states (Table 8-1). -/
inductive TestState where
  | idle | waitEligible | charging | measureX16 | measureX1 | releasing
  deriving DecidableEq, Repr

/-- Survey part of a core record (Table 8-1); the smoothed value none is NOT_SURVEYED. -/
structure CoreSurvey where
  smoothed : Option Nat
  worst    : Option Nat
  recent   : List (Nat × Nat)
  level    : Level
  untested : Nat
  deriving DecidableEq, Repr

/-- Survey part and running part of a core record (Table 8-1). -/
structure CoreRun where
  hist     : CoreSurvey
  mark     : PassMark
  abandons : Nat
  test     : TestState
  deriving DecidableEq, Repr

/-- Survey pass state (Table 8-3), with the timers of one test and the test matrix (R140, R143, R146): `connected` is the crosspoint commanded connected, by row and column, and none while all are commanded open. -/
structure Survey where
  active      : Bool
  full        : Bool
  passNo      : Nat
  window      : Timer
  interval    : Timer
  startHeld   : Bool
  eligibility : Timer
  halted      : Bool
  underTest   : Option CoreId
  charge      : Timer
  release     : Timer
  connected   : Option (Fin 8 × Fin 8)
  lineClosed  : Bool
  deriving DecidableEq, Repr

/-! ### Fault confirmation (Chapter 9) -/

/-- The three stored images (R183). -/
inductive ImageKind where
  | config | plans | survey
  deriving DecidableEq, Repr

/-- Sources of a fault (Section 9.1). -/
inductive Source where
  | group (g : Group) | channel (c : Chan) | core (k : CoreId) | detector (d : Det)
  | plan (n : Nat) | supply (r : Supply) | image (i : ImageKind) | junction
  deriving DecidableEq, Repr

/-- Fault kinds (Table 9-1), with those the mode controller enters (R170, Table 10-4). -/
inductive Kind where
  | redOut | lampOut | lampPartial | overcurrent | darkCurrent
  | insulationWarn | insulationLow | earthFault | matrixFault
  | relayNoOperate | relayWelded | detectorStuck | detectorQuiet
  | conflict | uncommandedGreen | intergreenShort | supplyCutFailed | coreUntestable
  | planAbsent | planInvalid | planTagMismatch | stageTranslation | planSetUnusable
  | clockInvalid | storeWriteFailed
  | failsafe | converterFault | relayProofFault | crosspointProofFault | storeFault
  deriving DecidableEq, Repr

/-- A condition: a source and a kind (R154). -/
structure Cond where
  source : Source
  kind   : Kind
  deriving DecidableEq, Repr

/-- A suspicion record (R155). -/
structure Suspicion where
  key    : Cond
  cls    : Nat
  level  : Nat
  count  : Nat
  start  : Nat
  hold   : Timer
  deriving DecidableEq, Repr

/-- Severities (Table 9-1). -/
inductive Severity where
  | warn | alarm | critical
  deriving DecidableEq, Repr

/-- Confirmation tags (R163). -/
inductive ConfTag where
  | normal | late | early
  deriving DecidableEq, Repr

/-- A calendar weekday and time of day (R163). -/
structure CalTime where
  weekday : Nat
  hour    : Nat
  minute  : Nat
  second  : Nat
  deriving DecidableEq, Repr

/-- An alarm record (R163); the times are none while the clock is invalid. -/
structure Alarm where
  key      : Cond
  severity : Severity
  tag      : ConfTag
  first    : Option CalTime
  last     : Option CalTime
  count    : Nat
  active   : Bool
  deriving DecidableEq, Repr

/-- The fault confirmation unit (R154, R155, R160, R162, R163). -/
structure Faults where
  confirmed  : List Cond
  suspicions : List Suspicion
  patterns   : Vector Nat 16
  responses  : Vector Response 16
  alarms     : List Alarm
  listFull   : Bool
  deriving DecidableEq, Repr

/-! ### Junction modes (Chapter 10) -/

/-- Junction modes (Table 10-2). -/
inductive Mode where
  | unconfigured | standby | startFlash | startRed | running | shutdown | partFlash | mainsOut | failsafe
  deriving DecidableEq, Repr

/-- Failsafe causes (R166). -/
inductive Cause where
  | none | outputMonitor | faultResponse | supplyCutFailed | supplyNotReady | bringUp
  deriving DecidableEq, Repr

/-- Shutdown targets (R168). -/
inductive Target where
  | partFlash | standby | failsafe
  deriving DecidableEq, Repr

/-- Mains-out return modes (R166). -/
inductive ReturnMode where
  | startFlash | standby
  deriving DecidableEq, Repr

/-- Bring-up codes (Table 10-4). -/
inductive BringUp where
  | ok | converterFault | relayProofFault | crosspointProofFault | storeFault
  deriving DecidableEq, Repr

/-- The mode controller (R166). -/
structure ModeCtl where
  mode           : Mode
  cause          : Cause
  style          : Display
  target         : Option Target
  darkMark       : Bool
  returnMode     : ReturnMode
  timer          : Timer
  bringUp        : BringUp
  responseActive : Bool
  deriving DecidableEq, Repr

/-! ### Jobs, notices and replies (Chapter 11) -/

/-- Job kinds (R180). -/
inductive JobKind where
  | learn | surveyNow | commitPlans | commitConfig
  deriving DecidableEq, Repr

/-- A job in the job table (R180); `limit` is the time limit of a LEARN job (R132), `unlearned` its channels marked UNLEARNED (R133). -/
structure Job where
  number    : Nat
  kind      : JobKind
  limit     : Timer
  unlearned : List Chan
  deriving DecidableEq, Repr

/-- Results of a job (Tables 1-6 and 2-5, R41, R134, R138, R150, R179). Groups, plans, cores and channels are given by index, positions from 1. -/
inductive JobResult where
  | ok | storeFailed | timeLimit | cancelled | abandoned | halted
  | noGroups | igSelf (i : Group) | igAsymmetric (i j : Group) | igUnusedGroup (i j : Group) | igBelowAmber (i j : Group)
  | coreDuplicate (k l : CoreId) | coreChannelUnused (k : CoreId) (c : Chan)
  | stageUnusedGroup (st : Fin 16) (g : Group) | stageConflict (st : Fin 16) (i j : Group)
  | baseAbsent | baseInvalid | entryBounds (p : Fin 16) | fixedGreenShort (p : Fin 16) (position : Nat) | stageUndefined (p : Fin 16) (position : Nat)
  deriving DecidableEq, Repr

/-- The items of a JOB_DONE notice beside number, kind and result (R134, R150). -/
inductive JobItems where
  | none
  | unlearned (l : List Chan)
  | tally (tested abandoned untested : Nat)
  deriving DecidableEq, Repr

/-- Causes of a PLAN_CHANGED notice (R66). -/
inductive PlanCause where
  | entry | timeTable | link | setAdopted | baseFallback
  deriving DecidableEq, Repr

/-- The plan a PLAN_CHANGED notice names: number, tag, kind (R66). -/
structure PlanName where
  number : Nat
  tag    : Nat
  kind   : PlanKind
  deriving DecidableEq, Repr

/-- Notices (R181). -/
inductive Notice where
  | started (code : BringUp) (mode : Mode) (config plans survey : Bool) (restart clockValid : Bool)
  | modeChanged (old new : Mode) (target : Option Target) (cause : Cause) (style : Option Display)
  | planChanged (plan : Option PlanName) (source : PlanSource) (cause : PlanCause) (generation : Option Nat)
  | alarmRaised (key : Cond) (severity : Severity) (tag : ConfTag) (time : Option CalTime) (count : Option Nat) (held : Bool)
  | alarmCleared (key : Cond) (time : Option CalTime)
  | jobDone (number : Nat) (kind : JobKind) (result : JobResult) (items : JobItems)
  deriving DecidableEq, Repr

/-- Reply statuses, in the order of their codes (R174). -/
inductive Status where
  | ok | inProgress | refusedMode | refusedValue | refusedBusy | unknownRequest | linkBusy
  deriving DecidableEq, Repr

/-- The four reasons of a refused TOD_WRITE (R68). -/
inductive TodReason where
  | fieldRange | emptyMask | tableFull | overlap
  deriving DecidableEq, Repr

/-- What READ_STATUS shows of a running or stopped timer: its remaining time. -/
abbrev Remaining := Option Nat

/-- A suspicion as READ_STATUS shows it (R164). -/
structure SuspicionView where
  key   : Cond
  level : Nat
  count : Nat
  start : Nat
  hold  : Remaining
  deriving DecidableEq, Repr

/-- The running part of a group as READ_GROUP shows it (R23). -/
structure GroupView where
  aspect           : Aspect
  conflictRedOut   : Bool
  hold             : Bool
  greenUnavailable : Bool
  pendingGreen     : Bool
  amber            : Remaining
  redAmber         : Remaining
  greenRelease     : Option Nat
  lastGreenOff     : Option Nat
  greenMark        : Bool
  deriving DecidableEq, Repr

/-- The relay part of a READ_CHANNEL (R103). -/
structure RelayView where
  state     : RelayState
  origin    : FailureOrigin
  coil      : Bool
  proof     : Bool
  held      : Bool
  wait      : Remaining
  operate   : Remaining
  release   : Remaining
  gen       : BitVec 16
  darkSince : Option Nat
  limits    : Limits
  deriving DecidableEq, Repr

/-- What a READ_CHANNEL naming SMC or FTR shows (R103). -/
structure SupplyView where
  state   : SupplyState
  coil    : Bool
  proof   : Bool
  held    : Bool
  operate : Remaining
  release : Remaining
  limits  : Limits
  deriving DecidableEq, Repr

/-- Learn states (R116). -/
inductive LearnState where
  | nominal | learning | learned
  deriving DecidableEq, Repr

/-- The lamp part of a READ_CHANNEL (R136); Rmin is shown for a red channel, the learning items while LEARNING. -/
structure LampView where
  used        : Bool
  lamps       : Nat
  rmin        : Option Nat
  lamp        : LampType
  nominal     : Nat
  iref        : Nat
  learned     : Bool
  learnState  : LearnState
  leak        : Nat
  typeDefault : Bool
  lampsLit    : Nat
  last        : Option Reading
  lit         : LitPeriod
  settle      : Remaining
  repeatTimer : Remaining
  dark        : Remaining
  discard     : Bool
  litCount    : Nat
  darkCount   : Nat
  learning    : Option (List Nat × Nat)
  deriving DecidableEq, Repr

/-- The WORKING reply of a READ_CORE (R152); the test items are shown for the core under test. -/
structure CoreView where
  cfg      : CoreCfg
  hist     : CoreSurvey
  mark     : PassMark
  abandons : Nat
  test     : TestState
  charge   : Remaining
  release  : Remaining
  range    : Option ConvRange
  deriving DecidableEq, Repr

/-- The reply of a READ_DETECTOR (R86). -/
structure DetView where
  cfg      : DetCfg
  raw      : Bool
  accepted : Bool
  state    : DetState
  debounce : Remaining
  stuckFor : Option Nat
  quietFor : Option Nat
  count    : Nat
  occupied : Option Bool
  deriving DecidableEq, Repr

/-- The MODE part of READ_STATUS (R178). -/
structure ModeView where
  mode           : Mode
  cause          : Cause
  style          : Display
  target         : Option Target
  returnMode     : ReturnMode
  timer          : Remaining
  bringUp        : BringUp
  responseActive : Bool
  deriving DecidableEq, Repr

/-- The SEQUENCE part of READ_STATUS (R72). -/
structure SequenceView where
  state       : EngineState
  plan        : Option PlanName
  record      : Option Nat
  stage       : Option Nat
  prevStage   : Option Nat
  gaining     : GroupSet
  green       : Remaining
  maximum     : Remaining
  gap         : Remaining
  gapped      : Bool
  demands     : StageSet
  source      : PlanSource
  override    : Option PlanRef
  tableResult : Option TodEntry
  change      : Option PendingChange
  clock       : CalTime
  clockValid  : Bool
  deriving DecidableEq, Repr

/-- The OUTPUT part of READ_STATUS (R103). -/
structure OutputView where
  smc      : SupplyState
  smcProof : Bool
  ftr      : SupplyState
  ftrProof : Bool
  flashBus : Bool
  groups   : Vector (Bool × Option Nat) 16
  lockouts : Nat
  deriving DecidableEq, Repr

/-- The MEASUREMENT part of READ_STATUS (R115). -/
structure MeasView where
  conv        : ConvState
  range       : Option ConvRange
  requester   : Option Requester
  current     : Option Subject
  dip         : Bool
  lampQueued  : Nat
  leakQueued  : Option (CoreId × ConvRange)
  refCount    : BitVec 16
  mains       : MainsState
  lossTimer   : Remaining
  returnTimer : Remaining
  level       : Nat
  dips        : Nat
  losses      : Nat
  deriving DecidableEq, Repr

/-- The SURVEY part of READ_STATUS (R152). -/
structure SurveyView where
  active      : Bool
  full        : Bool
  passNo      : Nat
  window      : Remaining
  interval    : Remaining
  eligibility : Remaining
  charge      : Remaining
  release     : Remaining
  startHeld   : Bool
  halted      : Bool
  underTest   : Option CoreId
  waiting     : Option CoreId
  warn        : Nat
  low         : Nat
  hours       : Nat
  deriving DecidableEq, Repr

/-- The LINK part of READ_STATUS (R178). -/
structure LinkView where
  queued  : Nat
  busy    : Nat
  notices : Nat
  lost    : Bool
  jobs    : List (Nat × JobKind)
  nextJob : Nat
  deriving DecidableEq, Repr

/-- Held generation and validity of an image (R184). -/
structure ImageMark where
  generation : Nat
  valid      : Bool
  deriving DecidableEq, Repr

/-- The STORE part of READ_STATUS (R178). -/
structure StoreView where
  config  : ImageMark
  plans   : ImageMark
  survey  : ImageMark
  queue   : List ImageKind
  writing : Option (ImageKind × WriteStep)
  deriving DecidableEq, Repr

/-- What a READ_PLAN DIRECTORY returns (R45); the last two items are given for IN_USE. -/
structure DirectoryView where
  dir        : Vector (Option PlanEntry) 16
  poolLength : Nat
  usable     : Option Bool
  pending    : Option Bool
  deriving DecidableEq, Repr

/-- The fields of a reply beside its status. -/
inductive ReplyBody where
  | empty
  | jobNumber (n : Nat)
  | identity (device : String) (issue : Nat) (rate : LineRate) (mode : Mode) (config plans survey : ImageMark)
  | group (cfg : GroupCfg)
  | groupCopy (cfg : GroupCfg) (row column : Vector (Option Nat) 16) (run : Option GroupView)
  | channel (cfg : ChannelCfg)
  | supply (l : Limits)
  | core (cfg : CoreCfg)
  | detector (cfg : DetCfg)
  | thresholds (leak : Option LeakThreshold) (thr : Thresholds)
  | stageItem (st : Fin 16) (groups : GroupSet)
  | recordItem (position : Nat) (r : StageRecord)
  | poolLength (n : Nat)
  | entryItem (p : Fin 16) (e : Option PlanEntry)
  | planSet (ps : PlanSet)
  | copyAbsent
  | resolved (p : ResolvedPlan)
  | translationFault (k : Kind)
  | directory (d : DirectoryView)
  | stageView (groups : GroupSet) (void : Option Bool)
  | recordView (r : StageRecord)
  | todRefused (r : TodReason)
  | demandSet (d : StageSet)
  | readChannel (relay : RelayView) (lamp : LampView)
  | readSupply (r : Supply) (v : SupplyView)
  | readCore (v : CoreView)
  | readDetector (v : DetView)
  | alarms (l : List Alarm) (held : Nat) (full : Bool)
  | removed (n : Nat)
  | modeStatus (v : ModeView)
  | sequenceStatus (v : SequenceView)
  | outputStatus (v : OutputView)
  | measStatus (v : MeasView)
  | surveyStatus (v : SurveyView)
  | faultStatus (l : List SuspicionView) (groups : Vector (Nat × Response) 16) (active : Bool)
  | linkStatus (v : LinkView)
  | storeStatus (v : StoreView)
  deriving DecidableEq, Repr

/-- A formed reply (R176). -/
structure Reply where
  tag    : Byte
  status : Status
  body   : ReplyBody
  /-- The reply answers a RESTART; the start begins when it has left (R185). -/
  restarts : Bool
  deriving DecidableEq, Repr

/-- A received request in the input queue (R176): as the CODE and payload of its frame, or, where a request command gave it whole, as that command. -/
inductive Received where
  | frame (tag code : Byte) (payload : List Byte)
  | command (i : Instr)
  deriving DecidableEq, Repr

/-- The frame in transmission (R182). -/
inductive TxFrame where
  | busy (tag : Byte)
  | reply (r : Reply)
  | notice (n : Notice) (lost : Bool)
  deriving DecidableEq, Repr

/-- The link controller (R175, R176, R181, R182). `rx` holds the bytes of the frame being collected after its SYNC, none while hunting; `restarting` stands from the taking of a RESTART request. -/
structure Link where
  rx         : Option (List Byte)
  rxTimer    : Timer
  queue      : List Received
  busy       : List Byte
  slot       : Option Reply
  tx         : Option TxFrame
  notices    : List Notice
  lost       : Bool
  restarting : Bool
  jobs       : List Job
  nextJob    : Nat
  deriving DecidableEq, Repr

/-! ### The store (R183 to R185) -/

/-- Content of the CONFIG image (R183). -/
structure ConfigImage where
  settings : Settings
  tod      : List TodEntry
  deriving DecidableEq, Repr

/-- Content of the SURVEY image (R183). -/
structure SurveyImage where
  cores  : Vector CoreSurvey 64
  passNo : Nat
  deriving DecidableEq, Repr

/-- Content of an image (R183). -/
inductive ImageContent where
  | config (x : ConfigImage) | plans (x : PlanSet) | survey (x : SurveyImage)
  deriving DecidableEq, Repr

/-- What stands in the blocks of an image (R183): the three fields of its header, its content and the CRC-32 behind it. -/
structure Stored where
  kind       : Nat
  generation : Nat
  length     : Nat
  content    : ImageContent
  crc        : BitVec 32
  deriving DecidableEq, Repr

/-- A write in progress (R184); `forCommit` is set where a COMMIT_CONFIG or COMMIT_PLANS job stood in the job table when the write began. -/
structure Write where
  image      : ImageKind
  generation : Nat
  content    : ImageContent
  forCommit  : Bool
  deriving DecidableEq, Repr

/-- The store controller (R184) and the blocks of the non-volatile store (R183); a block content of none is blank or cut. -/
structure Store where
  nvConfig : Option Stored
  nvPlans  : Option Stored
  nvSurvey : Option Stored
  config   : ImageMark
  plans    : ImageMark
  survey   : ImageMark
  queue    : List ImageKind
  writing  : Option Write
  deriving DecidableEq, Repr

/-! ### Power, and what the blocks pass one another inside an event -/

/-- Phases of a start (R172, R173). -/
inductive Phase where
  | off | reference | reading | running
  deriving DecidableEq, Repr

/-- What a start followed (R173). -/
inductive StartCause where
  | powerOn | restart
  deriving DecidableEq, Repr

/-- Power, start and rate straps (R172, R175). -/
structure Power where
  phase      : Phase
  cause      : StartCause
  strap      : LineRate
  rate       : LineRate
  proofFault : Bool
  lineFault  : Bool
  deriving DecidableEq, Repr

/-- A request that reaches the mode controller from another block (R70, R102, R162, R96). -/
inductive ModeReq where
  | trip
  | junction (dark immediate : Bool)
  | supplyCut
  | flash
  | planRequest
  deriving DecidableEq, Repr

/-- What the blocks pass one another inside one event (the model's own; cleared at the end of every event). `occasion` is an occasion for a decision (R55), `freed` the groups that have lost their last inhibit reason (R18), `maxOut` a max-out (R51), `select` an occasion for a selection (R142), `boundary` a half-cycle boundary (R112), `leftForce` the stages that left force (R80), `modeReqs` requests to the mode controller, `dirty` that a block has work left. -/
structure Ev where
  dirty     : Bool
  occasion  : Bool
  freed     : List Group
  maxOut    : Bool
  select    : Bool
  boundary  : Bool
  leftForce : List Nat
  modeReqs  : List ModeReq
  deriving DecidableEq, Repr

/-- The state of the controller. -/
structure State where
  power      : Power
  now        : Nat
  clock      : Clock
  edit       : Settings
  work       : Settings
  tod        : List TodEntry
  inUse      : PlanSet
  pendingSet : Option PendingSet
  staging    : PlanSet
  groups     : Vector GroupRun 16
  engine     : Engine
  dets       : Vector DetRun 32
  occupied   : StageSet
  relays     : Vector Relay 48
  handed     : Vector Aspect 16
  smc        : SupplyRelay
  ftr        : SupplyRelay
  flashBus   : Bool
  monitor    : Vector MonGroup 16
  lockouts   : Nat
  meas       : Meas
  mains      : Mains
  lamps      : Vector LampRun 48
  cores      : Vector CoreRun 64
  survey     : Survey
  faults     : Faults
  mode       : ModeCtl
  link       : Link
  store      : Store
  freeUses   : Nat
  ev         : Ev
  pending    : List Instr
  deriving DecidableEq, Repr

/-- Faults of the model: none. No event of the controller stops it; what the spec calls a fault is an entry of its own state. -/
inductive Fault where
  deriving DecidableEq, Repr

/-- Refusals of the model. -/
inductive Refusal where
  /-- A command without a meaning; raised by an arm of exec only. Safe: the model stops. No arm raises it. -/
  | notModelled (mnemonic : String)
  deriving DecidableEq, Repr

/-! ### Values at start -/

/-- Table 1-1, default column. -/
def GroupCfg.default : GroupCfg := ⟨.unused, 30, 20, 0, 0, 0, 1⟩

/-- Table 7-1 and Table 5-1, default columns. -/
def ChannelCfg.default : ChannelCfg := ⟨.incandescent, 100, 100, false, .typeDefault, ⟨40, 60⟩⟩

/-- Table 8-1, default column, for core K(k+1). -/
def CoreCfg.default (k : CoreId) : CoreCfg := ⟨k.val / 8 + 1, k.val % 8 + 1, .unused⟩

/-- Table 4-1, default column. -/
def DetCfg.default : DetCfg := ⟨.disabled, .replicate 16 false, none, 60, 0, 0⟩

/-- Table 9-2, the default response to a pattern number. -/
def RespEntry.default (p : Fin 32) : RespEntry :=
  if p.val ∈ [1, 2, 3, 16, 18] then ⟨.report, false⟩
  else if p.val ∈ [4, 5, 6, 7, 20, 22] then ⟨.holdGroup, false⟩
  else if p.val ∈ [17, 19, 21, 23] then ⟨.junctionFlash, false⟩
  else if p.val = 0 then ⟨.none, false⟩
  else ⟨.junctionFlash, true⟩

/-- Table 10-1, default column. -/
def JunctionCfg.default : JunctionCfg := ⟨.dark, .flash, true, 100, 50, 30⟩

/-- The configuration when no valid CONFIG image has been read (R4). -/
def Settings.default : Settings where
  groups := .replicate 16 .default
  ig := .replicate 16 (.replicate 16 none)
  channels := .replicate 48 .default
  smc := ⟨40, 60⟩
  ftr := ⟨40, 60⟩
  cores := Vector.ofFn CoreCfg.default
  dets := .replicate 32 .default
  thr := ⟨2000, 500, 24, 3, 3, 15⟩
  resp := Vector.ofFn RespEntry.default
  junction := .default

/-- An empty plan set (R28, R34). -/
def PlanSet.empty : PlanSet := ⟨.replicate 16 ⟨.replicate 16 false, false⟩, [], .replicate 16 none⟩

/-- Table 1-1, default column of the running part; the aspect is that of UNCONFIGURED (Table 1-5). -/
def GroupRun.default : GroupRun := ⟨.dark, false, false, false, false, none, none, none, none, none, false⟩

/-- Table 3-1, at start. -/
def Engine.default : Engine :=
  ⟨.off, none, none, none, none, .replicate 16 false, none, none, none, false, .replicate 16 false, .timeTable, none, none, none,
    false⟩

/-- Table 4-1, running part at start; the raw input is not yet scanned. -/
def DetRun.default : DetRun := ⟨false, false, .clear, none, none, none, 0⟩

/-- Table 5-1, at start; the start stands at count 0 until the start event. -/
def Relay.default : Relay := ⟨.released, false, false, false, none, none, none, none, 0, some 0, .none⟩

/-- A supply relay at start: OPEN or FLASH, de-energized (R96, R97). -/
def SupplyRelay.default : SupplyRelay := ⟨.rest, false, false, false, none, none⟩

/-- Table 5-3, at start. -/
def MonGroup.default : MonGroup := ⟨false, false, false, none⟩

/-- The scheduler at start (R104, R114); the reference count is 0 before its first conversion (log 64). -/
def Meas.default : Meas := ⟨[], .idle, none, none, false, 0, none⟩

/-- The mains monitor at start (R110, R111); the level is 0 before the first half cycle has ended (log 64). -/
def Mains.default : Mains := ⟨.normal, none, none, none, 0, 0, 0⟩

/-- Table 7-1, default column of the running part; the dark timer is started in the start event (R119). -/
def LampRun.default : LampRun :=
  ⟨false, 0, none, .none, none, none, none, false, 0, false, 0, false, [], 0, false⟩

/-- Table 8-1, default column: the survey part after a history clear (R137, R147, log 52). -/
def CoreSurvey.cleared : CoreSurvey := ⟨none, none, [], .ok, 0⟩

/-- Table 8-1, at start with no valid SURVEY image (R151). -/
def CoreRun.default : CoreRun := ⟨.cleared, .none, 0, .idle⟩

/-- Table 8-3, before the first pass. -/
def Survey.default : Survey := ⟨false, false, 0, none, none, false, none, false, none, none, none, none, false⟩

/-- The fault confirmation unit at start (R154). -/
def Faults.default : Faults := ⟨[], [], .replicate 16 0, .replicate 16 .none, [], false⟩

/-- The mode controller as a start begins (R172, R173); the bring-up code stands at OK until the start event sets it (log 75). -/
def ModeCtl.default : ModeCtl := ⟨.unconfigured, .none, .flash, none, false, .startFlash, none, .ok, false⟩

/-- The link controller at start (R180, R181, R185). -/
def Link.default : Link := ⟨none, none, [], [], none, none, [], false, false, [], 1⟩

/-- A blank store, not yet read (R184). -/
def Store.blank : Store := ⟨none, none, none, ⟨0, false⟩, ⟨0, false⟩, ⟨0, false⟩, [], none⟩

/-- The calendar clock after power-on (R71). -/
def Clock.default : Clock := ⟨1, 0, 0, 0, 0, false⟩

/-- Nothing passed between blocks. -/
def Ev.none : Ev := ⟨false, false, [], false, false, false, [], []⟩

/-- A controller without power: every item at its start value, the store blank. -/
def State.unpowered : State where
  power := ⟨.off, .powerOn, .baud9600, .baud9600, false, false⟩
  now := 0
  clock := .default
  edit := .default
  work := .default
  tod := []
  inUse := .empty
  pendingSet := none
  staging := .empty
  groups := .replicate 16 .default
  engine := .default
  dets := .replicate 32 .default
  occupied := .replicate 16 false
  relays := .replicate 48 .default
  handed := .replicate 16 .dark
  smc := .default
  ftr := .default
  flashBus := false
  monitor := .replicate 16 .default
  lockouts := 0
  meas := .default
  mains := .default
  lamps := .replicate 48 .default
  cores := .replicate 64 .default
  survey := .default
  faults := .default
  mode := .default
  link := .default
  store := .blank
  freeUses := 0
  ev := .none
  pending := []

/-- The machine right after reset: power has just arrived, the mode is UNCONFIGURED, every coil is de-energized and the reference conversion runs for its 20 ms (R105, R172). -/
def State.reset : State :=
  { State.unpowered with
    power := ⟨.reference, .powerOn, .baud9600, .baud9600, false, false⟩
    meas := { Meas.default with conv := .reference, refEnd := some 20 } }

end Sys2Proof.Machine
end

