-- ==== Sys2Proof/Machine/Ops.lean ====
section
/-! DEFINITION. Named operations on the state: time, the tables of the blocks, what blocks pass one another inside an event, the notice queue, the job table, the transmitter's choice and the store request queue. -/

namespace Sys2Proof.Machine

/-! ### Time -/

/-- The calendar reading as a second of the week, counted from weekday 1, 00:00:00. -/
def Clock.secondOfWeek (c : Clock) : Nat :=
  (c.weekday - 1) * 86400 + c.hour * 3600 + c.minute * 60 + c.second

/-- The calendar clock some milliseconds later; it passes from 23:59:59 of weekday 7 to 00:00:00 of weekday 1 (R71). -/
def Clock.advance (c : Clock) (ms : Nat) : Clock :=
  let t := c.milli + ms
  let sow := (c.secondOfWeek + t / 1000) % 604800
  ⟨sow / 86400 + 1, sow % 86400 / 3600, sow % 3600 / 60, sow % 60, t % 1000, c.valid⟩

/-- The milliseconds until the calendar clock next passes a minute. -/
def Clock.toMinute (c : Clock) : Nat := 60000 - (c.second * 1000 + c.milli) % 60000

/-- Time passes until the millisecond count stands at t; nothing where it stands there or beyond (log 2). -/
def State.elapseTo (s : State) (t : Nat) : State :=
  if t ≤ s.now then s else { s with now := t, clock := s.clock.advance (t - s.now) }

/-- The remaining time of a timer. -/
def State.remaining (s : State) (t : Timer) : Remaining := t.map (· - s.now)

/-- The event's calendar time, none while the clock is invalid (R163). -/
def State.calTime (s : State) : Option CalTime :=
  if s.clock.valid then some ⟨s.clock.weekday, s.clock.hour, s.clock.minute, s.clock.second⟩ else none

/-! ### Tables -/

/-- Change one group's running part. -/
def State.updGroup (s : State) (g : Group) (f : GroupRun → GroupRun) : State :=
  { s with groups := upd s.groups g f }

/-- Change one load relay's record. -/
def State.updRelay (s : State) (c : Chan) (f : Relay → Relay) : State :=
  { s with relays := upd s.relays c f }

/-- Change one channel's proving record. -/
def State.updLamp (s : State) (c : Chan) (f : LampRun → LampRun) : State :=
  { s with lamps := upd s.lamps c f }

/-- Change one core's record. -/
def State.updCore (s : State) (k : CoreId) (f : CoreRun → CoreRun) : State :=
  { s with cores := upd s.cores k f }

/-- Change one detector's running part. -/
def State.updDet (s : State) (d : Det) (f : DetRun → DetRun) : State :=
  { s with dets := upd s.dets d f }

/-- Do something for every member of a list, in order. -/
def State.each {α : Type} (s : State) (l : List α) (f : α → State → State) : State :=
  l.foldl (fun t a => f a t) s

/-- G1 to G16, in ascending order. -/
def allGroups : List Group := List.finRange 16

/-- C1 to C48, in ascending order. -/
def allChans : List Chan := List.finRange 48

/-- K1 to K64, in ascending order. -/
def allCores : List CoreId := List.finRange 64

/-- D1 to D32, in ascending order. -/
def allDets : List Det := List.finRange 32

/-- The stage numbers, by index, in ascending order. -/
def allStages : List (Fin 16) := List.finRange 16

/-! ### What blocks pass one another inside an event -/

/-- A block has work left in this event. -/
def State.mark (s : State) : State := { s with ev := { s.ev with dirty := true } }

/-- An occasion for a decision (R55): it counts where the engine is in RESTING or ALL_RED as it arises. -/
def State.occasion (s : State) : State :=
  { s with ev := { s.ev with
    dirty := true
    occasion := s.ev.occasion || decide (s.engine.state = .resting) || decide (s.engine.state = .allRed) } }

/-- A group has lost its last inhibit reason: it is kept from green in this event (R18), and an occasion for a decision arises (R55). -/
def State.free (s : State) (g : Group) : State := State.occasion { s with ev := { s.ev with freed := g :: s.ev.freed } }

/-- An occasion for a selection (R142). -/
def State.wantSelection (s : State) : State := { s with ev := { s.ev with select := true } }

/-- A request to the mode controller. -/
def State.ask (s : State) (r : ModeReq) : State :=
  { s with ev := { s.ev with dirty := true, modeReqs := s.ev.modeReqs ++ [r] } }

/-! ### Notices, jobs and the transmitter (R180 to R182) -/

/-- Queue a notice; where the queue holds 16, discard it and set the lost flag (R181). -/
def State.notify (s : State) (n : Notice) : State :=
  if s.link.notices.length < 16 then { s with link := { s.link with notices := s.link.notices ++ [n] } }
  else { s with link := { s.link with lost := true } }

/-- The job of a kind in the job table. -/
def State.job? (s : State) (k : JobKind) : Option Job := s.link.jobs.find? (·.kind = k)

/-- Whether the job table holds a job of a kind. -/
def State.hasJob (s : State) (k : JobKind) : Bool := (s.job? k).isSome

/-- The number after n, from 255 to 1, going on while it belongs to one of the jobs (R180). -/
def nextNumber (jobs : List Job) : Nat → Nat → Nat
  | 0, n => n
  | fuel + 1, n =>
    let m := if n = 255 then 1 else n + 1
    if jobs.any (·.number = m) then nextNumber jobs fuel m else m

/-- Enter a job in the job table with the next job number (R180); at most four jobs stand in the table, so five tries find a free number. -/
def State.addJob (s : State) (k : JobKind) (limit : Timer) : State :=
  let j : Job := ⟨s.link.nextJob, k, limit, []⟩
  let jobs := s.link.jobs ++ [j]
  { s with link := { s.link with jobs := jobs, nextJob := nextNumber jobs 5 s.link.nextJob } }

/-- A job ends: it leaves the table and its JOB_DONE notice is queued (R180). -/
def State.endJob (s : State) (k : JobKind) (r : JobResult) (items : JobItems) : State :=
  match s.job? k with
  | none => s
  | some j =>
    State.notify { s with link := { s.link with jobs := s.link.jobs.filter (·.kind ≠ k) } }
      (.jobDone j.number k r items)

/-- The free transmitter chooses the next frame (R182); a notice takes the lost flag with it (R181). -/
def State.transmit (s : State) : State :=
  match s.link.tx with
  | some _ => s
  | none =>
    match s.link.busy with
    | t :: ts => { s with link := { s.link with tx := some (.busy t), busy := ts } }
    | [] =>
      match s.link.slot with
      | some r => { s with link := { s.link with tx := some (.reply r) } }
      | none =>
        match s.link.notices with
        | n :: ns =>
          { s with link := { s.link with tx := some (.notice n s.link.lost), notices := ns, lost := false } }
        | [] => s

/-! ### The store (R184) -/

/-- Held generation and validity of an image. -/
def Store.image (st : Store) : ImageKind → ImageMark
  | .config => st.config
  | .plans => st.plans
  | .survey => st.survey

/-- Set the held generation and validity of an image. -/
def Store.setImage (st : Store) (k : ImageKind) (m : ImageMark) : Store :=
  match k with
  | .config => { st with config := m }
  | .plans => { st with plans := m }
  | .survey => { st with survey := m }

/-- What stands in the blocks of an image. -/
def Store.blocks (st : Store) : ImageKind → Option Stored
  | .config => st.nvConfig
  | .plans => st.nvPlans
  | .survey => st.nvSurvey

/-- Set what stands in the blocks of an image. -/
def Store.setBlocks (st : Store) (k : ImageKind) (x : Option Stored) : Store :=
  match k with
  | .config => { st with nvConfig := x }
  | .plans => { st with nvPlans := x }
  | .survey => { st with nvSurvey := x }

/-- The generation after g: from 65535 to 1, and from 0 to 1 (R184). -/
def nextGeneration (g : Nat) : Nat := if g = 65535 then 1 else g + 1

/-- Place a store request; it merges with an entry for the same image (R184). -/
def State.placeStore (s : State) (k : ImageKind) : State :=
  if k ∈ s.store.queue then s else { s with store := { s.store with queue := s.store.queue ++ [k] } }

/-- The content of an image, formed as its write begins (R184). -/
def State.imageContent (s : State) : ImageKind → ImageContent
  | .config => .config ⟨if s.hasJob .commitConfig then s.edit else s.work, s.tod⟩
  | .plans => .plans s.staging
  | .survey => .survey ⟨mapIx s.cores fun _ r => r.hist, s.survey.passNo⟩

/-- The idle store takes the oldest entry and begins its write: the image is invalid, and so holds generation 0, from the moment its first block is erased (R184). -/
def State.beginWrite (s : State) : State :=
  match s.store.writing, s.store.queue with
  | none, k :: ks =>
    let w : Write :=
      { image := k, generation := nextGeneration (s.store.image k).generation, content := s.imageContent k
        forCommit := (k = .config && s.hasJob .commitConfig) || (k = .plans && s.hasJob .commitPlans) }
    let st := (s.store.setBlocks k none).setImage k ⟨0, false⟩
    { s with store := { st with queue := ks, writing := some w } }
  | _, _ => s

/-- The end of every event: the idle store takes its oldest entry, and the free transmitter chooses its next frame (R182, R184). -/
def State.finish (s : State) : State := s.beginWrite.transmit

end Sys2Proof.Machine
end

