-- ==== Sys2Proof/Machine/Flags.lean ====
section
/-! DEFINITION. The flags and judgements the rules compute from the state: used channels, conflicts, relay patterns of aspects, green eligibility, the flash bus, the lamp arithmetic and its bands, the resistance arithmetic, group fault patterns and occupancy. -/

namespace Sys2Proof.Machine

/-! ### Groups and channels (Chapter 1) -/

/-- Whether a group type uses the channel of a colour (Table 1-2). -/
def typeUses : GroupType → Fin 3 → Bool
  | .vehicle, _ => true
  | .pedestrian, k => k.val != 1
  | .arrow, k => k.val != 0
  | .unused, _ => false

/-- Whether a channel is a used channel under a copy of the configuration (R3). -/
def Settings.used (cfg : Settings) (c : Chan) : Bool := typeUses cfg.groups[groupOf c].type (colourOf c)

/-- The lamp count n of a channel (R3, R116). -/
def Settings.lampCount (cfg : Settings) (c : Chan) : Nat :=
  let g := cfg.groups[groupOf c]
  match colourOf c with
  | 0 => g.lampsRed
  | 1 => g.lampsAmber
  | 2 => g.lampsGreen

/-- Whether groups i and j conflict (R11). -/
def Settings.conflict (cfg : Settings) (i j : Group) : Bool := cfg.ig[i][j].isSome

/-- Whether an aspect has the relay of a colour operated (Table 1-3). -/
def Aspect.operates : Aspect → Fin 3 → Bool
  | .red, k => k.val == 0
  | .redAmber, k => k.val == 0 || k.val == 1
  | .green, k => k.val == 2
  | .amber, k => k.val == 1
  | .dark, _ => false
  | .flashAmber, _ => false

/-- Whether the aspect state of a channel's group commands its relay operated (Table 1-3). -/
def State.commanded (s : State) (c : Chan) : Bool := (s.groups[groupOf c]).aspect.operates (colourOf c)

/-- Whether a group carries an inhibit reason (R17). -/
def GroupRun.inhibited (r : GroupRun) : Bool := r.conflictRedOut || r.hold || r.greenUnavailable

/-- Green eligibility (R17). -/
def State.eligible (s : State) (g : Group) : Bool :=
  s.work.groups[g].type != .unused && !(s.groups[g]).inhibited

/-- The aspect of a group set by the junction mode (Table 1-5); none in RUNNING and SHUTDOWN. -/
def modeAspect (m : Mode) (standby style : Display) (t : GroupType) : Option Aspect :=
  let flashing : Aspect := if t = .vehicle then .flashAmber else .dark
  match m with
  | .unconfigured | .mainsOut => some .dark
  | .standby => some (if standby = .flash then flashing else .dark)
  | .startFlash | .partFlash => some flashing
  | .startRed => some (if t = .vehicle ∨ t = .pedestrian then .red else .dark)
  | .failsafe => some (if style = .flash then flashing else .dark)
  | .running | .shutdown => none

/-- The flash bus is live while the FTR's proof is open and the SMC's proof is closed (R98). -/
def State.busLive (s : State) : Bool := !s.ftr.proof && s.smc.proof

/-! ### Lamp arithmetic (R116, R124 to R126, R133) -/

/-- Full scale of a lamp range, in mA (Table 6-1). -/
def lampFullScale : LampType → Nat
  | .incandescent => 8000
  | .led => 2000

/-- Converter range of a lamp type (R116). -/
def lampRange : LampType → ConvRange
  | .incandescent => .lampHigh
  | .led => .lampLow

/-- Settle time of a lamp type, in ms (Table 7-1). -/
def lampSettle : LampType → Nat
  | .incandescent => 200
  | .led => 100

/-- A leak threshold as applied to a channel, in mA (R116). -/
def ChannelCfg.leakApplied (c : ChannelCfg) : Nat :=
  match c.leak with
  | .milliamps x => x
  | .typeDefault => if c.lamp = .incandescent then 30 else 10

/-- Full scale of a converter range: mA on the lamp ranges, nA on the leakage ranges (Table 6-1). -/
def ConvRange.fullScale : ConvRange → Nat
  | .lampHigh => 8000
  | .lampLow => 2000
  | .leakX16 => 62500
  | .leakX1 => 1000000

/-- The channel current formed from a count on a range of full scale fs, with the OVERRANGE mark (R124). -/
def lampCurrent (count fs : Nat) : Nat × Bool :=
  if count = 65535 then (fs - 1, true) else (count * fs / 65536, false)

/-- The lamps-lit estimate: I / Iref rounded half up, clamped to 0 to n (R125). -/
def lampsLit (i iref n : Nat) : Nat := min n ((2 * i + iref) / (2 * iref))

/-- The overcurrent limit (R125). -/
def overcurrentLimit (n iref : Nat) : Nat := 3 * n * iref / 2

/-- The bands of Table 7-2. -/
inductive Band where
  | overcurrent | redOut | partly | out | inBand
  deriving DecidableEq, Repr

/-- The band of a lit judgement: the first of Table 7-2 that applies (R126). -/
def bandOf (red oc : Bool) (l n rmin : Nat) : Band :=
  if oc then .overcurrent
  else if red && decide (l < rmin) then .redOut
  else if red && decide (l < n) then .partly
  else if !red && decide (l = 0) then .out
  else if !red && decide (l < n) then .partly
  else .inBand

/-- The spread test of a learning set: ten times the difference of its largest and smallest is at most its largest (R133). -/
def spreadOk (l : List Nat) : Bool :=
  let hi := l.foldl max 0
  let lo := l.foldl min hi
  decide (10 * (hi - lo) ≤ hi)

/-- The candidate reference of a learning set of four (R133). -/
def learnCandidate (l : List Nat) (n : Nat) : Nat := l.sum / (4 * n)

/-! ### Resistance arithmetic (R144, R147) -/

/-- The resistance of a leakage current, in kilohms: floor(50,000,000 / I), at most 9,999,999; a current of 0 gives 9,999,999 (R144). -/
def resistance (nA : Nat) : Nat := if nA = 0 then 9999999 else min 9999999 (50000000 / nA)

/-- The smoothed value after a reading: the step rule, else an eighth of the difference, truncated toward zero (R147). -/
def smooth (old reading : Nat) : Nat :=
  if reading < old / 4 then reading
  else ((old : Int) + ((reading : Int) - old).tdiv 8).toNat

/-! ### Fault kinds (Table 9-1) -/

/-- The confirmation class of a condition; 0 is a direct entry (R153). -/
def Cond.cls (k : Cond) : Nat :=
  match k.kind with
  | .redOut | .overcurrent | .insulationWarn | .insulationLow => 2
  | .lampOut | .lampPartial => 3
  | .darkCurrent =>
    match k.source with
    | .channel c => if (colourOf c).val = 2 then 1 else 2
    | _ => 2
  | .earthFault | .matrixFault | .relayNoOperate | .relayWelded | .detectorStuck | .detectorQuiet => 1
  | _ => 0

/-- Severities (Table 9-1, R170, Table 10-4). -/
def Kind.severity : Kind → Severity
  | .redOut | .lampOut | .insulationLow | .earthFault | .matrixFault | .relayNoOperate | .relayWelded
  | .stageTranslation | .storeWriteFailed => .alarm
  | .darkCurrent | .conflict | .uncommandedGreen | .intergreenShort | .supplyCutFailed | .planSetUnusable
  | .failsafe | .converterFault | .relayProofFault | .crosspointProofFault | .storeFault => .critical
  | .lampPartial | .overcurrent | .insulationWarn | .detectorStuck | .detectorQuiet | .coreUntestable
  | .planAbsent | .planInvalid | .planTagMismatch | .clockInvalid => .warn

/-- Whether a condition stands in the confirmed set (R154). -/
def State.isConfirmed (s : State) (k : Cond) : Bool := decide (k ∈ s.faults.confirmed)

/-- Whether a core serves a group under a copy of the configuration (R148, R160). -/
def Settings.serves (cfg : Settings) (k : CoreId) (g : Group) : Bool :=
  match cfg.cores[k].role with
  | .load c => groupOf c == g
  | .common => allCores.any fun l =>
      match cfg.cores[l].role with
      | .load c => groupOf c == g && cfg.cores[l].cable == cfg.cores[k].cable
      | _ => false
  | _ => false

/-- The CABLE flag of a group: INSULATION_LOW or EARTH_FAULT confirmed on a core that serves it (R160). -/
def State.cableFlag (s : State) (g : Group) : Bool :=
  s.faults.confirmed.any fun k =>
    match k.source with
    | .core c => (k.kind == .insulationLow || k.kind == .earthFault) && s.work.serves c g
    | _ => false

/-- The pattern number of a group, formed from the confirmed set (R160). -/
def State.patternOf (s : State) (g : Group) : Nat :=
  (if s.isConfirmed ⟨.group g, .redOut⟩ then 1 else 0)
    + (if s.isConfirmed ⟨.channel (chanOf g 1), .lampOut⟩ then 2 else 0)
    + (if s.isConfirmed ⟨.channel (chanOf g 2), .lampOut⟩ then 4 else 0)
    + (if s.isConfirmed ⟨.channel (chanOf g 0), .darkCurrent⟩ || s.isConfirmed ⟨.channel (chanOf g 1), .darkCurrent⟩
          || s.isConfirmed ⟨.channel (chanOf g 2), .darkCurrent⟩ then 8 else 0)
    + (if s.cableFlag g then 16 else 0)

/-- The order of the responses, from least to greatest (R161). -/
def responseRank : Response → Nat
  | .none => 0
  | .report => 1
  | .holdGroup => 2
  | .junctionFlash => 3
  | .junctionDark => 4

/-- Whether a response is junction-level (R162). -/
def junctionLevel (r : Response) : Bool := decide (3 ≤ responseRank r)

/-! ### Detectors (Chapter 4) -/

/-- Whether a stage is occupied: a PRESENCE detector extending it is ACTIVE (R79). -/
def State.judgeOccupied (s : State) (st : Fin 16) : Bool :=
  allDets.any fun d =>
    s.work.dets[d].kind == .presence && s.work.dets[d].extend == some st && (s.dets[d]).state == .active

/-! ### The stage in force (R46) -/

/-- The number of the stage in force, 0 where none is. -/
def Engine.inForce (e : Engine) : Nat :=
  if e.state = .green ∨ e.state = .resting then e.stage.getD 0 else 0

/-- The groups of a stage number under the copy in use; stage 0 holds none. -/
def State.stageGroups (s : State) (st : Nat) : GroupSet :=
  match index? 16 st with
  | some i => s.inUse.stages[i].groups
  | none => .replicate 16 false

/-- Whether some group of a stage is GREEN. -/
def State.someGreen (s : State) (st : Nat) : Bool :=
  allGroups.any fun g => (s.stageGroups st)[g] && (s.groups[g]).aspect == .green

end Sys2Proof.Machine
end

