-- ==== Sys2Proof/Machine/FaultUnit.lean ====
section
/-! DEFINITION. The fault confirmation unit (spec/09): observations, passes, ends, periods and direct entries; the alarm list; group fault patterns and their responses. -/

namespace Sys2Proof.Machine

/-! ### Inhibit reasons (R14 to R18) -/

/-- Change a group's inhibit reasons: where the first reason arrives the engine has work (R17), where the last leaves an occasion for a decision arises, and the group is kept from green in this event (R18). -/
def State.inhibit (s : State) (g : Group) (f : GroupRun → GroupRun) : State :=
  let t := s.updGroup g f
  if (s.groups[g]).inhibited = (t.groups[g]).inhibited then t
  else if (t.groups[g]).inhibited then t.mark
  else t.free g

/-- Set or remove HOLD (R15). -/
def State.setHold (s : State) (g : Group) (b : Bool) : State := s.inhibit g fun r => { r with hold := b }

/-- Set or remove GREEN_UNAVAILABLE (R16). -/
def State.setGreenUnavailable (s : State) (g : Group) (b : Bool) : State :=
  s.inhibit g fun r => { r with greenUnavailable := b }

/-- Whether RED_OUT is confirmed on a group that conflicts with g (R14). -/
def State.conflictRedOut (s : State) (g : Group) : Bool :=
  allGroups.any fun i => s.work.conflict i g && s.isConfirmed ⟨.group i, .redOut⟩

/-- CONFLICT_RED_OUT stands on exactly the groups that conflict with a group whose RED_OUT is confirmed (R14). -/
def State.judgeConflictRedOut (s : State) : State :=
  s.each allGroups fun g t => t.inhibit g fun r => { r with conflictRedOut := t.conflictRedOut g }

/-! ### Group fault patterns and responses (R160, R162) -/

/-- The entry of the response table for a pattern number. -/
def Settings.respOf (cfg : Settings) (p : Nat) : RespEntry :=
  if h : p < 32 then cfg.resp[p] else ⟨.none, false⟩

/-- Re-form the fault pattern of a group; where its number changes, evaluate the response of the new pattern (R162). -/
def State.reform (s : State) (g : Group) : State :=
  let p := s.patternOf g
  if p = s.faults.patterns[g] then s
  else
    let e := s.work.respOf p
    let old := s.faults.responses[g]
    let t := { s with faults := { s.faults with
      patterns := s.faults.patterns.set g p, responses := s.faults.responses.set g e.response } }
    let t := t.setHold g (e.response = .holdGroup)
    if junctionLevel e.response && decide (responseRank old < responseRank e.response) then
      t.ask (.junction (e.response = .junctionDark) e.immediate)
    else t

/-- Report to the mode controller whether some group's current response is junction-level (R162). -/
def State.judgeResponseActive (s : State) : State :=
  { s with mode := { s.mode with responseActive := s.faults.responses.toList.any junctionLevel } }

/-- Re-form the patterns of all groups, from G1 to G16, which is also the order of their junction requests (log 79). -/
def State.reformAll (s : State) : State :=
  (s.each allGroups fun g t => t.reform g).judgeResponseActive

/-- Whether a kind can carry a pattern flag (Table 9-1). -/
def Kind.flagged (k : Kind) : Bool :=
  match k with
  | .redOut | .lampOut | .darkCurrent | .insulationLow | .earthFault => true
  | _ => false

/-- The level of a core: the most severe of the three kinds confirmed on it (R148). -/
def State.levelOf (s : State) (k : CoreId) : Level :=
  if s.isConfirmed ⟨.core k, .earthFault⟩ then .earthFault
  else if s.isConfirmed ⟨.core k, .insulationLow⟩ then .low
  else if s.isConfirmed ⟨.core k, .insulationWarn⟩ then .warn
  else .ok

/-- Whether a kind is one of the three insulation kinds. -/
def Kind.insulation (k : Kind) : Bool :=
  match k with
  | .insulationWarn | .insulationLow | .earthFault => true
  | _ => false

/-- What follows from a condition's entering or leaving the confirmed set: the core's level (R148), the patterns of the groups concerned (R160) and CONFLICT_RED_OUT (R14). The patterns are re-formed after each report, not on the net change of an event (log 74). -/
def State.concerned (s : State) (k : Cond) : State :=
  let s := match k.source with
    | .core c =>
      if k.kind.insulation then
        let l := s.levelOf c
        s.updCore c fun r => { r with hist := { r.hist with level := l } }
      else s
    | _ => s
  let s := if k.kind.flagged then s.reformAll else s
  if k.kind = .redOut then s.judgeConflictRedOut else s

/-! ### The alarm list (R163, R164) -/

/-- Enter a confirmation in the alarm list (R163). -/
def State.enterAlarm (s : State) (k : Cond) (tag : ConfTag) : State :=
  let t := s.calTime
  let sev := k.kind.severity
  let fresh : Alarm := ⟨k, sev, tag, t, t, 1, true⟩
  let raised (n : Option Nat) : Notice := .alarmRaised k sev tag t n n.isSome
  match s.faults.alarms.find? (·.key = k) with
  | some a =>
    let b : Alarm := { a with tag := tag, last := t, count := min 255 (a.count + 1), active := true }
    let s' := { s with faults := { s.faults with
      alarms := s.faults.alarms.map fun x => if x.key = k then b else x } }
    if a.active then s' else s'.notify (raised (some b.count))
  | none =>
    if s.faults.alarms.length < 64 then
      State.notify { s with faults := { s.faults with alarms := s.faults.alarms ++ [fresh] } } (raised (some 1))
    else
      match s.faults.alarms.find? (!·.active) with
      | some old =>
        State.notify { s with faults := { s.faults with alarms := s.faults.alarms.erase old ++ [fresh] } }
          (raised (some 1))
      | none => State.notify { s with faults := { s.faults with listFull := true } } (raised none)

/-- Set the record of an ended condition to CLEARED and queue ALARM_CLEARED (R164). -/
def State.clearAlarm (s : State) (k : Cond) : State :=
  let t := s.calTime
  State.notify { s with faults := { s.faults with
      alarms := s.faults.alarms.map fun x => if x.key = k then { x with last := t, active := false } else x } }
    (.alarmCleared k t)

/-! ### The five forms of report (Section 9.1) -/

/-- Remove a key's suspicion, and its hold timer with it. -/
def State.dropSuspicion (s : State) (k : Cond) : State :=
  { s with faults := { s.faults with suspicions := s.faults.suspicions.filter (·.key ≠ k) } }

/-- Replace a key's suspicion record. -/
def State.setSuspicion (s : State) (r : Suspicion) : State :=
  { s with faults := { s.faults with
    suspicions := s.faults.suspicions.map fun x => if x.key = r.key then r else x } }

/-- A confirmation (R160): a condition already confirmed leaves the set unchanged and is entered in the alarm list (R154). -/
def State.confirm (s : State) (k : Cond) (tag : ConfTag) : State :=
  let s := s.dropSuspicion k
  if s.isConfirmed k then s.enterAlarm k tag
  else
    State.concerned
      (State.enterAlarm { s with faults := { s.faults with confirmed := s.faults.confirmed ++ [k] } } k tag) k

/-- A condition that has ended leaves the confirmed set, its suspicion is removed and its alarm record cleared (R159, R164). -/
def State.dropCond (s : State) (k : Cond) : State :=
  let s := s.dropSuspicion k
  if s.isConfirmed k then
    State.clearAlarm { s with faults := { s.faults with confirmed := s.faults.confirmed.filter (· ≠ k) } } k
  else s

/-- A report that a condition has ended (R159), with what follows where it was confirmed. -/
def State.endCond (s : State) (k : Cond) : State :=
  if s.isConfirmed k then (s.dropCond k).concerned k else s.dropCond k

/-- A pass of a kind on a source (R159). -/
def State.pass (s : State) (k : Cond) : State := s.dropSuspicion k

/-- The confirmation count k of a kind, as the working copy holds it (R157). -/
def State.confirmCount (s : State) (k : Kind) : Nat :=
  if k.insulation then s.work.thr.cableK else s.work.thr.lampK

/-- An out-of-band observation, or a direct entry (R155 to R158). A DARK_CURRENT observation that comes after its dark period has ended counts as the first of a later period: it returns a class 2 record from level 2 to level 1 with count 1 (log 82). -/
def State.observe (s : State) (k : Cond) : State :=
  let n := s.confirmCount k.kind
  if k.cls ≤ 1 then s.confirm k .normal
  else if s.isConfirmed k then s
  else
    match s.faults.suspicions.find? (·.key = k) with
    | none =>
      if s.faults.suspicions.length < 32 then
        { s with faults := { s.faults with
          suspicions := s.faults.suspicions ++ [⟨k, k.cls, 1, 1, s.now, none⟩] } }
      else s.confirm k .early
    | some r =>
      if k.cls = 2 then
        let c := if r.level = 1 then min 8 (r.count + 1) else 1
        if n ≤ c then s.confirm k .normal
        else s.setSuspicion { r with level := 1, count := c }
      else if r.level = 3 then
        if r.hold.isSome then s else s.confirm k .normal
      else
        let c := min 8 (r.count + 1)
        if n ≤ c then
          s.setSuspicion { r with level := 3, count := c, hold := some (s.now + minutes s.work.thr.holdMin) }
        else s.setSuspicion { r with level := 1, count := c }

/-- Change the records of the lamp kinds that count within the lit periods of a channel (R157, R158). -/
def State.litRecords (s : State) (c : Chan) (f : Suspicion → Suspicion) : State :=
  { s with faults := { s.faults with
    suspicions := s.faults.suspicions.map fun r =>
      if (r.key.source = .channel c ∧ r.key.kind ∈ [.lampOut, .lampPartial, .overcurrent])
          ∨ ((colourOf c).val = 0 ∧ r.key = ⟨.group (groupOf c), .redOut⟩) then f r else r } }

/-- The start of a lit period of a channel: a class 3 record at level 2 counts on, one at level 3 stops its hold timer (R158). -/
def State.litStart (s : State) (c : Chan) : State :=
  s.litRecords c fun r =>
    if r.cls ≠ 3 then r
    else if r.level = 2 then { r with level := 1 }
    else if r.level = 3 then { r with hold := none }
    else r

/-- The end of a lit period of a channel (R157, R158). -/
def State.litEnd (s : State) (c : Chan) : State :=
  s.litRecords c fun r =>
    if r.level = 1 then { r with level := 2 }
    else if r.level = 3 ∧ r.hold = none then { r with hold := some (s.now + minutes s.work.thr.holdMin) }
    else r

/-- The end of a dark period of a channel (R157). -/
def State.darkEnd (s : State) (c : Chan) : State :=
  { s with faults := { s.faults with
    suspicions := s.faults.suspicions.map fun r =>
      if r.key = ⟨.channel c, .darkCurrent⟩ ∧ r.level = 1 then { r with level := 2 } else r } }

/-- The hold timer of the suspicion of a kind on a channel. -/
def State.holdTimer (s : State) (k : Cond) : Timer :=
  (s.faults.suspicions.find? (·.key = k)).bind (·.hold)

end Sys2Proof.Machine
end

