-- ==== Sys2Proof/Machine/Monitor.lean ====
section
/-! DEFINITION. The output monitor (spec/05, Section 5.4): evidence, proven greens, the three trip conditions and the trip. -/

namespace Sys2Proof.Machine

/-- Contact evidence of a group from its green relay (Table 5-3). -/
def Relay.contact (r : Relay) : Bool :=
  decide (r.state = .operated) || decide (r.state = .failedClosed) || (decide (r.state = .releasing) && r.proof)

/-- The green relay of a group. -/
def State.greenRelay (s : State) (g : Group) : Relay := s.relays[chanOf g 2]

/-- The monitor's items of a group, judged from its evidence; a group of type UNUSED has none (R99). -/
def State.judgeProven (s : State) (g : Group) : MonGroup :=
  let m := s.monitor[g]
  if s.work.groups[g].type = .unused then
    { m with contact := false, darkCurrent := false, proven := false
             lastEnd := if m.proven then some s.now else m.lastEnd }
  else
    let c := (s.greenRelay g).contact
    let p := c || m.darkCurrent
    { m with contact := c, proven := p, lastEnd := if m.proven && !p then some s.now else m.lastEnd }

/-- Whether a conflicting group is proven-green (R100). -/
def State.conflictProven (s : State) (j : Group) : Bool :=
  allGroups.any fun i => s.work.conflict i j && (s.monitor[i]).proven

/-- Whether the green relay of a group that is not GREEN is in RELEASING, or is put there by the release command still to come in this event: the aspect last handed over is GREEN, the commands of the net change are given at the end of the event (R5), and one of release puts a relay in OPERATED or OPERATING into RELEASING (R90, R91; log 9). -/
def State.greenReleasing (s : State) (j : Group) : Bool :=
  let x := (s.greenRelay j).state
  decide (x = .releasing)
    || (decide (s.handed[j] = .green) && (decide (x = .operated) || decide (x = .operating)))

/-- The UNCOMMANDED_GREEN condition (R100). -/
def State.uncommandedGreen (s : State) (j : Group) : Bool :=
  (s.monitor[j]).proven && decide ((s.groups[j]).aspect ≠ .green) && !s.greenReleasing j

/-- Whether a group that becomes proven-green now is too early after a conflicting one (R101): t - e < IG(i→j) - the release limit of i's green relay. -/
def State.intergreenShort (s : State) (j : Group) : Bool :=
  allGroups.any fun i =>
    match s.work.ig[i][j], (s.monitor[i]).lastEnd with
    | some ig, some e => decide (s.now + s.work.channels[chanOf i 2].limits.release < e + tenths ig)
    | _, _ => false

/-- The conditions that hold on a group and are judged in this event; `fresh` says that it became proven-green in it (R100, R101). Several of one group are reported in this order, CONFLICT, UNCOMMANDED_GREEN, INTERGREEN_SHORT, which is the model's choice (log 96). -/
def State.tripsOf (s : State) (j : Group) (fresh : Bool) : List Cond :=
  (if fresh && s.conflictProven j then [⟨.group j, .conflict⟩] else [])
    ++ (if s.uncommandedGreen j then [⟨.group j, .uncommandedGreen⟩] else [])
    ++ (if fresh && s.intergreenShort j then [⟨.group j, .intergreenShort⟩] else [])

/-- The conditions of a group that have ended (R102); CONFLICT also where a commit has removed the conflict itself (log 87). Several of one group end in this order (log 96). -/
def State.tripEnds (s : State) (j : Group) : List Cond :=
  let p := (s.monitor[j]).proven
  (if !p || !s.conflictProven j then [⟨.group j, .conflict⟩] else [])
    ++ (if !p || decide ((s.groups[j]).aspect = .green) then [⟨.group j, .uncommandedGreen⟩] else [])
    ++ (if !p then [⟨.group j, .intergreenShort⟩] else [])

/-- Report one trip to the mode controller and count it, except in UNCONFIGURED and FAILSAFE (R102). -/
def State.trip (s : State) : State :=
  if s.mode.mode = .unconfigured ∨ s.mode.mode = .failsafe then s
  else State.ask { s with lockouts := min 255 (s.lockouts + 1) } .trip

/-- The output monitor's judgement (R99 to R102), made wherever evidence arrives or is lost that a later part of the same event replaces or rests on (the reset of the relays, R94; a dark reading, R129), and once for what remains of an event. The conditions that have ended are reported before those newly found (log 92). -/
def State.judgeMonitor (s : State) : State :=
  let old := s.monitor
  let s := { s with monitor := Vector.ofFn s.judgeProven }
  let s := s.each allGroups fun g t => t.each ((t.tripEnds g).filter t.isConfirmed) fun k u => u.endCond k
  let found := allGroups.flatMap fun g =>
    (s.tripsOf g ((s.monitor[g]).proven && !(old[g]).proven)).filter fun k => !s.isConfirmed k
  if found.isEmpty then s else (s.each found fun k t => t.observe k).trip

end Sys2Proof.Machine
end

