-- ==== Sys2Proof/Machine/Scheduler.lean ====
section
/-! DEFINITION. The measurement scheduler and its converter (spec/06): placing, withdrawing and granting requests, the conversion over half-cycle boundaries, the result. -/

namespace Sys2Proof.Machine

/-- Whether a request is of the lamp class. -/
def Subject.lamp : Subject → Bool
  | .leak _ => false
  | _ => true

/-- Whether two requests contend for one place of the queue: the same channel's lamp requests, or two LEAK requests (R106). -/
def Subject.contends : Subject → Subject → Bool
  | .leak _, .leak _ => true
  | .lit c, .lit d => c == d
  | .lit c, .dark d => c == d
  | .dark c, .lit d => c == d
  | .dark c, .dark d => c == d
  | _, _ => false

/-- The generation stamp of a request: its channel's aspect generation, none for a core whose role is not LOAD (R106). -/
def State.stampOf (s : State) : Subject → Option (BitVec 16)
  | .lit c => some (s.relays[c]).gen
  | .dark c => some (s.relays[c]).gen
  | .leak k =>
    match s.work.cores[k].role with
    | .load c => some (s.relays[c]).gen
    | _ => none

/-- Place a request: it replaces a contending one, keeping its place and queued time, or joins the queue (R106). The grant is made at the end of the event (R108). -/
def State.place (s : State) (x : Subject) (range : ConvRange) : State :=
  let r : MeasReq := ⟨x, range, s.stampOf x, s.now⟩
  let q :=
    if s.meas.queue.any fun o => x.contends o.subject then
      s.meas.queue.map fun o => if x.contends o.subject then { r with queued := o.queued } else o
    else s.meas.queue ++ [r]
  { s with meas := { s.meas with queue := q } }

/-- Withdraw a queued request; nothing where none is queued for the subject (R107). -/
def State.withdraw (s : State) (x : Subject) : State :=
  { s with meas := { s.meas with queue := s.meas.queue.filter (·.subject ≠ x) } }

/-- Withdraw a queued LEAK request, whatever its core. -/
def State.withdrawLeak (s : State) : State :=
  { s with meas := { s.meas with queue := s.meas.queue.filter (·.subject.lamp) } }

/-- The channel number of a lamp request, for the order among equal queued times. -/
def Subject.chanNo : Subject → Nat
  | .lit c => c.val
  | .dark c => c.val
  | .leak _ => 0

/-- Whether lamp request a is granted before lamp request b (R108). -/
def MeasReq.before (a b : MeasReq) : Bool :=
  decide (a.queued < b.queued) || (decide (a.queued = b.queued) && decide (a.subject.chanNo < b.subject.chanNo))

/-- The request the scheduler chooses: the lamp request with the earliest queued time, the lowest channel among equals; otherwise the LEAK request (R108). -/
def chooseReq (q : List MeasReq) : Option MeasReq :=
  match q.filter (·.subject.lamp) with
  | r :: rs => some (rs.foldl (fun a b => if b.before a then b else a) r)
  | [] => q.head?

/-- The grant of R108, made where the converter is IDLE and the queue is not empty. In a boundary event the integration begins at that boundary (R112). -/
def State.grant (s : State) : State :=
  if s.meas.conv = .idle then
    match chooseReq s.meas.queue with
    | none => s
    | some r =>
      let m := { s.meas with
        queue := s.meas.queue.erase r, range := some r.range, current := some r }
      if s.ev.boundary then
        { s with meas := { m with conv := .firstHalf, dip := decide (s.mains.state = .dip) } }
      else { s with meas := { m with conv := .armed } }
  else s

/-- A result handed to its requester (R113). -/
structure Result where
  subject : Subject
  range   : ConvRange
  count   : BitVec 16
  stale   : Bool
  dipped  : Bool
  deriving DecidableEq, Repr

/-- Whether a count is saturated (R104). -/
def Result.saturated (r : Result) : Bool := decide (r.count.toNat = 65535)

/-- The result of a request completed with a count (R113). A stamped LEAK result is compared with the generation of the channel its core has at completion; where the core is no longer LOAD there is none, and it is STALE (log 57). -/
def State.resultOf (s : State) (r : MeasReq) (count : BitVec 16) (dip : Bool) : Result :=
  { subject := r.subject, range := r.range, count := count
    stale := match r.stamp, r.subject with
      | some g, .lit c => decide (g ≠ (s.relays[c]).gen)
      | some g, .dark c => decide (g ≠ (s.relays[c]).gen)
      | some g, .leak k =>
        match s.work.cores[k].role with
        | .load c => decide (g ≠ (s.relays[c]).gen)
        | _ => true
      | none, _ => false
    dipped := dip }

/-- The converter at a half-cycle boundary (R112), and the result where the conversion completes. The mains monitor has acted on the boundary before. -/
def State.convBoundary (s : State) (count : BitVec 16) : State × Option Result :=
  let dip := decide (s.mains.state = .dip)
  match s.meas.conv with
  | .armed => ({ s with meas := { s.meas with conv := .firstHalf, dip := dip } }, none)
  | .firstHalf => ({ s with meas := { s.meas with conv := .secondHalf, dip := s.meas.dip || dip } }, none)
  | .secondHalf =>
    let d := s.meas.dip || dip
    let t := { s with meas := { s.meas with conv := .idle, current := none, dip := d } }
    (t, s.meas.current.map fun r => s.resultOf r count d)
  | .idle => (s, none)
  | .reference => (s, none)

/-- The end of every event: the grant of R108, what the blocks passed one another is cleared, and the store and the transmitter choose their next work. -/
def State.close (s : State) : State := State.finish { s.grant with ev := .none }

end Sys2Proof.Machine
end

