-- ==== Sys2Proof/Machine/LampProver.lean ====
section
/-! DEFINITION. The lamp prover (spec/07): lit and failed lit periods, the judgement of readings, dark proving, and learning. -/

namespace Sys2Proof.Machine

/-! ### Learning (R132 to R135) -/

/-- Whether some channel is LEARNING. -/
def State.anyLearning (s : State) : Bool := s.lamps.toList.any (·.learning)

/-- A channel leaves LEARNING and becomes NOMINAL (R134). -/
def LampRun.stopLearning (r : LampRun) : LampRun :=
  { r with learning := false, learnSet := [], learnPeriods := 0, addedInPeriod := false }

/-- List a channel as UNLEARNED in the LEARN job (R133); the list is in the order of the marking (log 94). -/
def State.markUnlearned (s : State) (c : Chan) : State :=
  { s with link := { s.link with jobs := s.link.jobs.map fun j =>
      if j.kind = .learn then { j with unlearned := j.unlearned ++ [c] } else j } }

/-- The channels the LEARN job lists as UNLEARNED. -/
def State.unlearned (s : State) : List Chan := ((s.job? .learn).map (·.unlearned)).getD []

/-- The LEARN job ends OK where no channel is LEARNING (R134). -/
def State.learnCheck (s : State) : State :=
  if s.anyLearning then s else s.endJob .learn .ok (.unlearned s.unlearned)

/-- The LEARN job ends before its last channel: each channel still LEARNING becomes NOMINAL, and is listed where the time limit ends the job (R134), in ascending channel number after those listed before (log 94). -/
def State.learnEnd (s : State) (r : JobResult) : State :=
  if s.hasJob .learn then
    let s := if r = .timeLimit then
        s.each (allChans.filter fun c => (s.lamps[c]).learning) fun c t => t.markUnlearned c
      else s
    let s := { s with lamps := s.lamps.map fun (l : LampRun) => if l.learning then l.stopLearning else l }
    s.endJob .learn r (.unlearned s.unlearned)
  else s

/-- The end of a lit period of a channel still LEARNING to which a reading was added: the period is counted, and the eighth marks the channel UNLEARNED (R133). -/
def State.learnPeriodEnd (s : State) (c : Chan) : State :=
  let l := s.lamps[c]
  if l.learning && l.addedInPeriod then
    if 8 ≤ l.learnPeriods + 1 then ((s.updLamp c LampRun.stopLearning).markUnlearned c).learnCheck
    else s.updLamp c fun l => { l with learnPeriods := l.learnPeriods + 1, addedInPeriod := false }
  else s.updLamp c fun l => { l with addedInPeriod := false }

/-- Write a learned reference into one copy of the configuration (R133). -/
def Settings.learn (cfg : Settings) (c : Chan) (iref : Nat) : Settings :=
  { cfg with channels := upd cfg.channels c fun x => { x with iref := iref, learned := true } }

/-- A valid LIT reading of a channel in LEARNING joins its learning set; the fourth is tested (R133). -/
def State.learnReading (s : State) (c : Chan) (i : Nat) (overrange : Bool) : State :=
  let l := s.lamps[c]
  if l.learning && !overrange then
    let set := l.learnSet ++ [i]
    if set.length < 4 then s.updLamp c fun l => { l with learnSet := set, addedInPeriod := true }
    else
      let ref := learnCandidate set (s.work.lampCount c)
      if spreadOk set && within 20 3000 ref then
        let t := s.updLamp c fun l => { l with learnSet := [], learning := false, addedInPeriod := true }
        State.learnCheck { t with work := t.work.learn c ref, edit := t.edit.learn c ref }
      else s.updLamp c fun l => { l with learnSet := [], addedInPeriod := true }
  else s

/-! ### Judgement (R125 to R127) -/

/-- The lit kinds of a channel, as the conditions they are reported on (R126); where several end in one event, they end in this order (logs 81, 93). -/
def litKinds (c : Chan) : List Cond :=
  if (colourOf c).val = 0 then
    [⟨.group (groupOf c), .redOut⟩, ⟨.channel c, .lampPartial⟩, ⟨.channel c, .overcurrent⟩]
  else [⟨.channel c, .lampOut⟩, ⟨.channel c, .lampPartial⟩, ⟨.channel c, .overcurrent⟩]

/-- The condition a band is an observation of (Table 7-2). -/
def bandKind (c : Chan) : Band → Option Cond
  | .overcurrent => some ⟨.channel c, .overcurrent⟩
  | .redOut => some ⟨.group (groupOf c), .redOut⟩
  | .partly => some ⟨.channel c, .lampPartial⟩
  | .out => some ⟨.channel c, .lampOut⟩
  | .inBand => none

/-- What a lit judgement reports to the fault confirmation unit, by its band (R126): the passes of the other lit kinds first, then the observation (log 71). -/
def State.reportBand (s : State) (c : Chan) (b : Band) : State :=
  match bandKind c b with
  | none => s.each (litKinds c) fun k t => t.pass k
  | some k =>
    if b = .overcurrent then s.observe k
    else (s.each ((litKinds c).filter (· ≠ k)) fun x t => t.pass x).observe k

/-- The lit clearing count after a judgement (R127): in the event in which it reaches k, the lit kinds of the channel are reported ended, in the order of `litKinds`, which is the model's choice (log 93). -/
def State.litClearing (s : State) (c : Chan) (b : Band) : State :=
  if b = .inBand then
    let l := s.lamps[c]
    let n := min 8 (l.litCount + 1)
    let k := s.work.thr.lampK
    if k ≤ n then
      let t := s.updLamp c fun l => { l with litCount := n, litReached := true }
      if l.litCount < k || !l.litReached then t.each (litKinds c) fun x t => t.endCond x else t
    else s.updLamp c fun l => { l with litCount := n, litReached := false }
  else s.updLamp c fun l => { l with litCount := 0, litReached := false }

/-- A lit judgement with a lamps-lit estimate (R126, R127). -/
def State.litJudge (s : State) (c : Chan) (l : Nat) (oc : Bool) : State :=
  let b := bandOf (decide ((colourOf c).val = 0)) oc l (s.work.lampCount c) s.work.groups[groupOf c].rmin
  (s.reportBand c b).litClearing c b

/-! ### Periods (R120 to R123, R128) -/

/-- Dark proving ends for a channel: timer stopped, queued DARK request withdrawn, discard mark cleared, the end of the dark period reported (R120, R128, R129). -/
def State.endDark (s : State) (c : Chan) : State :=
  ((s.withdraw (.dark c)).updLamp c fun l => { l with dark := none, flashDiscard := false }).darkEnd c

/-- A LIT lit period ends (R122). -/
def State.endLit (s : State) (c : Chan) : State :=
  if (s.lamps[c]).lit = .lit then
    (((s.withdraw (.lit c)).updLamp c fun l =>
      { l with settle := none, repeatTimer := none, lit := .none }).litEnd c).learnPeriodEnd c
  else s

/-- A failed lit period ends (R123). -/
def State.endFailed (s : State) (c : Chan) : State :=
  if (s.lamps[c]).lit = .failed then
    (s.updLamp c fun l => { l with repeatTimer := none, lit := .none }).litEnd c
  else s

/-- The judgement of a failed lit period: L = 0 and no reading (R123); a further judgement, at an expiry of the repeat timer, sets the last reading to none again (log 78). -/
def State.failedJudge (s : State) (c : Chan) : State :=
  (s.updLamp c fun l => { l with lampsLit := 0, last := none }).litJudge c 0 false

/-- Steps 2 to 4 of R123: a failed lit period begins and is judged; it lasts while the group's aspect commands the relay operated. -/
def State.beginFailed (s : State) (c : Chan) : State :=
  let s := ((s.updLamp c fun l => { l with lit := .failed, addedInPeriod := false }).litStart c).failedJudge c
  if s.commanded c then s.updLamp c fun l => { l with repeatTimer := some (s.now + 1000) }
  else s.endFailed c

/-- A proven-on event (R120). -/
def State.lampProvenOn (s : State) (c : Chan) : State :=
  if s.work.used c then
    let t := s.now + lampSettle s.work.channels[c].lamp
    ((s.endDark c).updLamp c fun l =>
      { l with lit := .lit, settle := some t, addedInPeriod := false }).litStart c
  else s

/-- A proven-off event: the dark timer starts with 0.5 s (R128). A timer still running from before is started afresh, and its dark period is not ended first (R129, log 72). -/
def State.lampProvenOff (s : State) (c : Chan) : State :=
  if s.work.used c then s.updLamp c fun l => { l with dark := some (s.now + 500) } else s

/-- A failed-open report (R123). -/
def State.lampFailedOpen (s : State) (c : Chan) : State :=
  if s.work.used c then ((s.endDark c).endLit c).beginFailed c else s

/-- The channel has left RELEASED by an uncommanded closure (R120, R123). -/
def State.lampLeftReleased (s : State) (c : Chan) : State :=
  if s.work.used c then (s.endDark c).endFailed c else s

/-- The failed lit periods follow the aspects: one ends where its relay is no longer commanded or has left FAILED_OPEN, one begins where a relay in FAILED_OPEN is commanded again (R123); several of one event in ascending channel number (log 89). -/
def State.judgeFailed (s : State) : State :=
  s.each allChans fun c t =>
    if (t.relays[c]).state = .failedOpen then
      if (t.lamps[c]).lit = .failed then (if t.commanded c then t else t.endFailed c)
      else if t.work.used c && t.commanded c then t.beginFailed c
      else t
    else t.endFailed c

/-! ### Readings (R124, R125, R129) -/

/-- Full scale of a lamp range as the prover applies it (R124). -/
def Result.current (r : Result) : Nat × Bool := lampCurrent r.count.toNat r.range.fullScale

/-- A valid LIT reading (R124 to R127, R133). -/
def State.litReading (s : State) (c : Chan) (i : Nat) (overrange : Bool) : State :=
  let n := s.work.lampCount c
  let iref := s.work.channels[c].iref
  let l := lampsLit i iref n
  let s := s.updLamp c fun x => { x with lampsLit := l, last := some ⟨.lit, i, overrange, s.now⟩ }
  (s.litJudge c l (overrange || decide (overcurrentLimit n iref < i))).learnReading c i overrange

/-- The dark clearing count after a supplied reading within the threshold (R129 step 4). -/
def State.darkClearing (s : State) (c : Chan) : State :=
  let l := s.lamps[c]
  let n := min 8 (l.darkCount + 1)
  let k := s.work.thr.lampK
  let s := s.pass ⟨.channel c, .darkCurrent⟩
  if k ≤ n then
    let t := s.updLamp c fun l => { l with darkCount := n, darkReached := true }
    if l.darkCount < k || !l.darkReached then t.endCond ⟨.channel c, .darkCurrent⟩ else t
  else s.updLamp c fun l => { l with darkCount := n, darkReached := false }

/-- The output monitor is passed a dark reading of a green channel, whatever the state of its relay (R99, R129 step 1; log 70). -/
def State.darkEvidence (s : State) (c : Chan) (leak : Bool) : State :=
  if (colourOf c).val = 2 then
    State.judgeMonitor { s with monitor := upd s.monitor (groupOf c) fun m => { m with darkCurrent := leak } }
  else s

/-- A valid DARK reading (R124, R129); one that completes after its dark period has ended is observed all the same (log 82). -/
def State.darkReading (s : State) (c : Chan) (i : Nat) (overrange : Bool) : State :=
  let leak := overrange || decide (s.work.channels[c].leakApplied < i)
  let s := s.updLamp c fun x => { x with last := some ⟨.dark, i, overrange, s.now⟩ }
  let s := s.darkEvidence c leak
  if leak then
    (s.updLamp c fun l => { l with darkCount := 0, darkReached := false }).observe ⟨.channel c, .darkCurrent⟩
  else if s.smc.proof && s.ftr.proof then s.darkClearing c
  else s

/-- A LIT or DARK result is returned to the lamp prover (R113, R124, R130). -/
def State.lampResult (s : State) (r : Result) : State :=
  let discard := r.stale || r.dipped
  let (i, ovr) := r.current
  match r.subject with
  | .lit c => if discard || !s.work.used c then s else s.litReading c i ovr
  | .dark c =>
    let marked := (s.lamps[c]).flashDiscard
    let s := s.updLamp c fun l => { l with flashDiscard := false }
    if discard || marked || !s.work.used c then s else s.darkReading c i ovr
  | .leak _ => s

/-! ### Timers and the flash bus (R121, R123, R128, R130) -/

/-- Whether a channel is the amber of a VEHICLE group. -/
def State.vehicleAmber (s : State) (c : Chan) : Bool :=
  decide ((colourOf c).val = 1) && decide (s.work.groups[groupOf c].type = .vehicle)

/-- The settle timer's expiry (R121). -/
def State.settleExpiry (s : State) (c : Chan) : State :=
  (s.updLamp c fun l => { l with settle := none, repeatTimer := some (s.now + 1000) }).place (.lit c)
    (lampRange s.work.channels[c].lamp)

/-- The repeat timer's expiry (R121, R123). -/
def State.repeatExpiry (s : State) (c : Chan) : State :=
  if (s.lamps[c]).lit = .failed then
    (s.failedJudge c).updLamp c fun l => { l with repeatTimer := some (s.now + 1000) }
  else if (s.relays[c]).state = .operated then
    (s.updLamp c fun l => { l with repeatTimer := some (s.now + 1000) }).place (.lit c)
      (lampRange s.work.channels[c].lamp)
  else s.updLamp c fun l => { l with repeatTimer := none }

/-- The dark timer's expiry (R128, R130). -/
def State.darkExpiry (s : State) (c : Chan) : State :=
  if (s.relays[c]).state = .released then
    let t := s.updLamp c fun l => { l with dark := some (s.now + 5000) }
    if s.vehicleAmber c && s.flashBus then t else t.place (.dark c) (lampRange s.work.channels[c].lamp)
  else s.updLamp c fun l => { l with dark := none }

/-- The flash bus becomes live (R130). A granted DARK request that is still ARMED counts as a conversion in progress (log 59). -/
def State.lampFlashLive (s : State) : State :=
  s.each (allChans.filter s.vehicleAmber) fun c t =>
    let t := t.withdraw (.dark c)
    if t.meas.current.any fun r => r.subject = .dark c then
      t.updLamp c fun l => { l with flashDiscard := true }
    else t

end Sys2Proof.Machine
end

