-- ==== Sys2Proof/Machine/Plans.lean ====
section
/-! DEFINITION. The plan set (spec/02): fitness and void marks, the translation of a plan reference, usability, the commit validation and adoption. -/

namespace Sys2Proof.Machine

/-! ### Stage definitions (R24, R25) -/

/-- Whether a stage definition is written. -/
def StageDef.written (d : StageDef) : Bool := d.groups.toList.any id

/-- Whether a stage definition is defined: written and not void (R24). -/
def StageDef.defined (d : StageDef) : Bool := d.written && !d.void

/-- The members of a set of groups, in ascending order. -/
def members (gs : GroupSet) : List Group := allGroups.filter fun g => gs[g]

/-- Whether a set of groups is fit to be shown under a copy of the configuration (R25). -/
def Settings.fit (cfg : Settings) (gs : GroupSet) : Bool :=
  (members gs).all fun i =>
    cfg.groups[i].type != .unused && (members gs).all fun j => !(decide (i ≠ j) && cfg.conflict i j)

/-- Set the void mark of every written definition of a copy to match its fitness (R25). -/
def PlanSet.setVoids (ps : PlanSet) (cfg : Settings) : PlanSet :=
  { ps with stages := ps.stages.map fun (d : StageDef) =>
      if d.written then { d with void := !cfg.fit d.groups } else d }

/-- A copy without void marks, as the staging copy holds it (R34). -/
def PlanSet.dropVoids (ps : PlanSet) : PlanSet :=
  { ps with stages := ps.stages.map fun (d : StageDef) => { d with void := false } }

/-! ### Translation (R35, R36) -/

/-- The base reference (P1, 0). -/
def baseRef : PlanRef := ⟨1, 0⟩

/-- One record of a plan through its stage definition (step 5 of R35). -/
def PlanSet.resolveRecord (ps : PlanSet) (position : Nat) : Option ResolvedRecord :=
  match ps.pool[position - 1]? with
  | none => none
  | some r =>
    match r.stage with
    | none => none
    | some st =>
      if ps.stages[st].defined then some ⟨st, r.mode, r.min, r.max, r.gap, ps.stages[st].groups⟩ else none

/-- The translation of a plan reference against a copy of the plan set (R35, R36). -/
def PlanSet.translate (ps : PlanSet) (ref : PlanRef) : Except Kind ResolvedPlan :=
  match index? 16 ref.plan with
  | none => .error .planAbsent
  | some p =>
    match ps.dir[p] with
    | none => .error .planAbsent
    | some e =>
      if !e.valid then .error .planInvalid
      else if ref.tag ≠ 0 ∧ ref.tag ≠ e.tag then .error .planTagMismatch
      else if ps.pool.length < e.first + e.count - 1 ∨ e.count < e.start then .error .stageTranslation
      else
        match (List.range e.count).mapM fun i => ps.resolveRecord (e.first + i) with
        | none => .error .stageTranslation
        | some l => .ok ⟨ref, p.val + 1, e.tag, e.kind, e.start, l⟩

/-- Whether a plan set is usable: the base reference translates (R38). -/
def PlanSet.usable (ps : PlanSet) : Bool :=
  match ps.translate baseRef with
  | .ok _ => true
  | .error _ => false

/-- The four translation fault kinds (Table 2-4). -/
def translationKinds : List Kind := [.planAbsent, .planInvalid, .planTagMismatch, .stageTranslation]

/-- The name a PLAN_CHANGED notice gives a plan (R66). -/
def ResolvedPlan.name (p : ResolvedPlan) : PlanName := ⟨p.number, p.tag, p.kind⟩

/-- A translation by the sequence engine against the copy in use: on success the plan becomes current with no record and the conditions of its number end, in the order of Table 2-4 (log 67); on failure the fault is reported (R37). -/
def State.translateFor (s : State) (ref : PlanRef) : State × Bool :=
  match s.inUse.translate ref with
  | .error k => (s.observe ⟨.plan ref.plan, k⟩, false)
  | .ok p =>
    let s := s.each translationKinds fun k t => t.endCond ⟨.plan p.number, k⟩
    ({ s with engine := { s.engine with plan := some p, record := none } }, true)

/-- Queue a PLAN_CHANGED notice for the plan then current (R66). -/
def State.planChanged (s : State) (cause : PlanCause) (generation : Option Nat) : State :=
  s.notify (.planChanged (s.engine.plan.map ResolvedPlan.name) s.engine.source cause generation)

/-! ### Usability and adoption (R38, R43, R44) -/

/-- Whether an alarm record of a condition is ACTIVE. -/
def State.alarmActive (s : State) (k : Cond) : Bool := s.faults.alarms.any fun a => a.key = k && a.active

/-- Judge the usability of the set in use (R38). -/
def State.judgeUsable (s : State) : State :=
  let k : Cond := ⟨.junction, .planSetUnusable⟩
  if s.inUse.usable then s.endCond k
  else if s.alarmActive k then s
  else s.observe k

/-- Set the void marks of the set in use and judge its usability (R25, R38). -/
def State.judgeVoids (s : State) : State :=
  State.judgeUsable { s with inUse := s.inUse.setVoids s.work }

/-- Whether a condition is a translation fault. -/
def Cond.translation (k : Cond) : Bool := decide (k.kind ∈ translationKinds)

/-- Steps 1 to 3 of adoption (R44): the pending set comes into use, the translation faults end, in the order in which they were confirmed (log 67), its usability is judged. -/
def State.adoptSet (s : State) (p : PendingSet) : State :=
  let s := { s with inUse := p.set.setVoids s.work, pendingSet := none }
  (s.each (s.faults.confirmed.filter Cond.translation) fun k t => t.endCond k).judgeUsable

/-- Adoption outside RUNNING, or at entry to RUNNING before the first translation: the notice names no plan (R43, R44, R66). -/
def State.adoptPending (s : State) : State :=
  match s.pendingSet with
  | none => s
  | some p => (s.adoptSet p).notify (.planChanged none s.engine.source .setAdopted (some p.generation))

/-! ### The commit validation (R40) -/

/-- Checks 1 and 2 of Table 2-5, in their order: check 1 on every written stage, then check 2. -/
def PlanSet.checkStages (ps : PlanSet) (cfg : Settings) : Option JobResult :=
  let unused : Option JobResult := allStages.findSome? fun st =>
    (members ps.stages[st].groups).findSome? fun g =>
      if cfg.groups[g].type = .unused then some (JobResult.stageUnusedGroup st g) else none
  let conflict : Option JobResult := allStages.findSome? fun st =>
    let l := members ps.stages[st].groups
    l.findSome? fun i => l.findSome? fun j =>
      if i < j ∧ cfg.conflict i j then some (JobResult.stageConflict st i j) else none
  unused.or conflict

/-- Checks 3 and 4 of Table 2-5. -/
def PlanSet.checkBase (ps : PlanSet) : Option JobResult :=
  match ps.dir[(0 : Fin 16)] with
  | none => some .baseAbsent
  | some e => if e.valid then none else some .baseInvalid

/-- Checks 6 and 7 of Table 2-5 on one record of a plan. -/
def PlanSet.checkRecord (ps : PlanSet) (p : Fin 16) (e : PlanEntry) (position : Nat) : Option JobResult :=
  match ps.pool[position - 1]? with
  | none => some (.stageUndefined p position)
  | some r =>
    if e.kind = .fixed ∧ r.min < 50 then some (.fixedGreenShort p position)
    else
      match r.stage with
      | none => some (.stageUndefined p position)
      | some st => if ps.stages[st].written then none else some (.stageUndefined p position)

/-- Checks 5 to 7 of Table 2-5 on one plan. -/
def PlanSet.checkEntry (ps : PlanSet) (p : Fin 16) : Option JobResult :=
  match ps.dir[p] with
  | none => none
  | some e =>
    if !e.valid then none
    else if ps.pool.length < e.first + e.count - 1 ∨ e.count < e.start then some (.entryBounds p)
    else (List.range e.count).findSome? fun i => ps.checkRecord p e (e.first + i)

/-- The commit validation: the first failing item (R40). -/
def PlanSet.validate (ps : PlanSet) (cfg : Settings) : Option JobResult :=
  ((ps.checkStages cfg).or ps.checkBase).or ((List.finRange 16).findSome? ps.checkEntry)

end Sys2Proof.Machine
end

