-- ==== Sys2Proof/Machine/Detectors.lean ====
section
/-! DEFINITION. Demands (R60) and the detector scanner (spec/04): debounce, accepted changes, occupancy, detector faults and changes of settings. -/

namespace Sys2Proof.Machine

/-! ### The matrix (R73) -/

/-- The drive line of a detector: line 1 is 0 (R73). -/
def driveOf (d : Det) : Fin 8 := ⟨d.val / 4, by omega⟩

/-- The sense line of a detector: line 1 is 0 (R73). -/
def senseOf (d : Det) : Fin 4 := ⟨d.val % 4, by omega⟩

/-- The detector at a point of the matrix (R73). -/
def detAt (drive : Fin 8) (sense : Fin 4) : Det := ⟨4 * drive.val + sense.val, by omega⟩

@[simp] theorem detAt_point (d : Det) : detAt (driveOf d) (senseOf d) = d := by
  ext; simp only [detAt, driveOf, senseOf]; omega

/-! ### Demands and occupancy (R50, R60, R79) -/

/-- A demand for a stage: entered unless the stage is in force in GREEN or RESTING (R60); a stage added is an occasion for a decision (R55). -/
def State.enterDemand (s : State) (st : Fin 16) : State :=
  if s.engine.inForce = st.val + 1 ∨ s.engine.demands[st] = true then s
  else State.occasion { s with engine := { s.engine with demands := s.engine.demands.set st true } }

/-- The members of a set of stages, in ascending order. -/
def stageMembers (d : StageSet) : List (Fin 16) := allStages.filter fun st => d[st]

/-- A demand for each stage of a detector's demand set (R77 step 4). -/
def State.enterDemands (s : State) (d : StageSet) : State :=
  s.each (stageMembers d) fun st t => t.enterDemand st

/-- The record of the current plan that governs the green. -/
def Engine.currentRecord (e : Engine) : Option ResolvedRecord :=
  match e.plan, e.record with
  | some p, some r => p.records[r - 1]?
  | _, _ => none

/-- Start the gap timer with the record's gap; a gap of 0.0 s expires in the event in which it is started (R50). -/
def State.startGap (s : State) (gap : Nat) : State :=
  if gap = 0 then { s with engine := { s.engine with gapTimer := none, gapped := true } }
  else { s with engine := { s.engine with gapTimer := some (s.now + tenths gap), gapped := false } }

/-- Stop the gap timer and clear the gapped mark (R50). -/
def State.stopGap (s : State) : State := { s with engine := { s.engine with gapTimer := none, gapped := false } }

/-- Whether the engine is in a green period of an ACTUATED plan. -/
def Engine.actuatedGreen (e : Engine) : Bool :=
  decide (e.state = .green) && (match e.plan with
    | some p => decide (p.kind = .actuated)
    | none => false)

/-- Re-judge the occupancy of a stage and report a change to the engine's gap timer (R79, R50). -/
def State.judgeStage (s : State) (st : Fin 16) : State :=
  let b := s.judgeOccupied st
  if b = s.occupied[st] then s
  else
    let s := { s with occupied := s.occupied.set st b }
    if s.engine.actuatedGreen && decide (s.engine.inForce = st.val + 1) then
      if b then s.stopGap.mark
      else
        match s.engine.currentRecord with
        | some r => (s.startGap r.gap).mark
        | none => s
    else s

/-- Re-judge the occupancy of a detector's extend stage, where it has one. -/
def State.judgeExtend (s : State) (e : Option (Fin 16)) : State :=
  match e with
  | some st => s.judgeStage st
  | none => s

/-- A stage has left force: a demand for it where a detector calls it still (R80). -/
def State.leftForce (s : State) (st : Nat) : State :=
  match index? 16 st with
  | none => s
  | some i =>
    let called := allDets.any fun d =>
      s.work.dets[d].demands[i] &&
        (decide ((s.dets[d]).state = .stuck) || decide ((s.dets[d]).state = .quiet)
          || (decide ((s.dets[d]).state = .active) && decide (s.work.dets[d].kind = .presence)))
    if called then s.enterDemand i else s

/-! ### Debounce and accepted changes (R76 to R78) -/

/-- One scan's comparison of the raw with the accepted input (R76). -/
def State.scan (s : State) (d : Det) : State :=
  if s.work.dets[d].kind = .disabled then s
  else
    let r := s.dets[d]
    let t := match r.debounce with
      | none => if r.raw = r.accepted then none else some (s.now + s.work.dets[d].debounce)
      | some e => if r.raw = r.accepted then none else some e
    s.updDet d fun r => { r with debounce := t }

/-- A timer counted from its start: started from zero where its limit is not 0. -/
def State.fromZero (s : State) (limit : Nat) : Option Nat := if limit = 0 then none else some s.now

/-- An accepted activation (R77): the demands first, then the occupancy of the extend stage; the engine judges gap-out (R51) when both have acted, so that the demand does not gap out the green which the same activation extends (log 95). -/
def State.activation (s : State) (d : Det) : State :=
  let cfg := s.work.dets[d]
  let quiet := decide ((s.dets[d]).state = .quiet)
  let start := s.fromZero cfg.stuckOn
  let s := s.updDet d fun r =>
    { r with accepted := true, state := .active, count := min 65535 (r.count + 1), quietStart := none, stuckStart := start }
  let s := if quiet then s.endCond ⟨.detector d, .detectorQuiet⟩ else s
  (s.enterDemands cfg.demands).judgeExtend cfg.extend

/-- An accepted deactivation (R78). -/
def State.deactivation (s : State) (d : Det) : State :=
  let cfg := s.work.dets[d]
  let stuck := decide ((s.dets[d]).state = .stuck)
  let start := s.fromZero cfg.quiet
  let s := s.updDet d fun r =>
    { r with accepted := false, state := .clear, stuckStart := none, quietStart := start }
  let s := if stuck then s.endCond ⟨.detector d, .detectorStuck⟩ else s
  s.judgeExtend cfg.extend

/-- The debounce timer's expiry (R76). -/
def State.debounceExpiry (s : State) (d : Det) : State :=
  let r := s.dets[d]
  let s := s.updDet d fun r => { r with debounce := none }
  if r.raw = r.accepted then s else if r.raw then s.activation d else s.deactivation d

/-! ### Detector faults (R81 to R83) -/

/-- Entry to STUCK (R81). -/
def State.enterStuck (s : State) (d : Det) : State :=
  let cfg := s.work.dets[d]
  let s := (s.updDet d fun r => { r with state := .stuck, stuckStart := none }).observe ⟨.detector d, .detectorStuck⟩
  (s.enterDemands cfg.demands).judgeExtend cfg.extend

/-- Entry to QUIET (R82). -/
def State.enterQuiet (s : State) (d : Det) : State :=
  let s := (s.updDet d fun r => { r with state := .quiet, quietStart := none }).observe ⟨.detector d, .detectorQuiet⟩
  s.enterDemands s.work.dets[d].demands

/-- When the stuck-on timer of a detector reaches its limit (R81). -/
def State.stuckDue (s : State) (d : Det) : Timer :=
  if s.work.dets[d].stuckOn = 0 then none else (s.dets[d]).stuckStart.map (· + minutes s.work.dets[d].stuckOn)

/-- When the quiet timer of a detector reaches its limit (R82). -/
def State.quietDue (s : State) (d : Det) : Timer :=
  if s.work.dets[d].quiet = 0 then none else (s.dets[d]).quietStart.map (· + hours s.work.dets[d].quiet)

/-! ### Changes of settings (R84) -/

/-- The start of a limit timer after a change of its limit: kept where it runs, stopped by a limit of 0, started where none was and the state has it run (R84). -/
def State.changeLimit (s : State) (start : Option Nat) (old new : Nat) (running : Bool) : Option Nat :=
  if new = 0 then none
  else if old = 0 ∧ running = true then some s.now
  else start

/-- What a SET_DETECTOR does to the running part of a detector, its new settings standing in both copies (R84). Of several changes in one request the extend stages are re-judged first, then the demands, then an entry to STUCK or QUIET (log 69). -/
def State.applyDetector (s : State) (d : Det) (old : DetCfg) : State :=
  let new := s.work.dets[d]
  if new.kind = .disabled then
    let st := (s.dets[d]).state
    let s := s.updDet d fun r =>
      { r with accepted := false, state := .clear, debounce := none, stuckStart := none, quietStart := none }
    let s := if st = .stuck then s.endCond ⟨.detector d, .detectorStuck⟩ else s
    let s := if st = .quiet then s.endCond ⟨.detector d, .detectorQuiet⟩ else s
    s.judgeExtend old.extend
  else if old.kind = .disabled then
    let q := s.fromZero new.quiet
    (s.updDet d fun r => { r with accepted := false, state := .clear, quietStart := q }).scan d
  else
    let r := s.dets[d]
    let stuck := s.changeLimit r.stuckStart old.stuckOn new.stuckOn (r.state = .active)
    let quiet := s.changeLimit r.quietStart old.quiet new.quiet (r.state = .clear)
    let s := s.updDet d fun r => { r with stuckStart := stuck, quietStart := quiet }
    let s := (s.judgeExtend old.extend).judgeExtend new.extend
    let s := if old.demands ≠ new.demands ∧ (r.state = .stuck ∨ r.state = .quiet) then
        s.enterDemands new.demands else s
    let s := if r.state = .active && (s.stuckDue d).any (· ≤ s.now) then s.enterStuck d else s
    if r.state = .clear && (s.quietDue d).any (· ≤ s.now) then s.enterQuiet d else s

end Sys2Proof.Machine
end

