-- ==== Sys2Proof/Machine/Surveyor.lean ====
section
/-! DEFINITION. The cable surveyor and its test matrix (spec/08): eligibility, selection, one test, the recording of a reading, passes and the halt. -/

namespace Sys2Proof.Machine

/-! ### Eligibility (R141) -/

/-- Whether a core is eligible for a test that starts at a time (Table 8-2). -/
def State.coreEligible (s : State) (k : CoreId) (t : Nat) : Bool :=
  match s.work.cores[k].role with
  | .unused => false
  | .spare => true
  | .common => !s.smc.proof
  | .load c =>
    let r := s.relays[c]
    let g := groupOf c
    let dark := decide (r.state = .released) && (match r.darkSince with
      | some d => decide (d + 1000 ≤ t)
      | none => false)
    let rest := match colourOf c with
      | 0 => decide ((s.groups[g]).aspect = .green) && decide (s.engine.state = .green)
          && (s.stageGroups s.engine.inForce)[g]
          && (match s.engine.greenTimer with
            | some e => decide (t + 2500 ≤ e)
            | none => false)
      | 1 => !(s.groups[g]).pendingGreen && !(decide (s.work.groups[g].type = .vehicle) && s.flashBus)
      | 2 => !(s.groups[g]).pendingGreen
    dark && rest

/-- The time at which a LOAD core in RELEASED has been dark for 1.0 s, where it would then be eligible (R142). -/
def State.eligibleLater (s : State) (k : CoreId) : Option Nat :=
  match s.work.cores[k].role with
  | .load c =>
    match (s.relays[c]).darkSince with
    | some d => if s.now < d + 1000 && s.coreEligible k (d + 1000) then some (d + 1000) else none
    | none => none
  | _ => none

/-- Whether a core is due in the active pass (R142). -/
def PassMark.isDue : PassMark → Bool
  | .due => true
  | .deferred => true
  | _ => false

/-- The due cores: the DUE ones in ascending number, then the DEFERRED ones (R142). -/
def State.dueOrder (s : State) : List CoreId :=
  (allCores.filter fun k => (s.cores[k]).mark = .due) ++ allCores.filter fun k => (s.cores[k]).mark = .deferred

/-- Whether a test is in progress on a core (R88). -/
def TestState.inProgress : TestState → Bool
  | .charging => true
  | .measureX16 => true
  | .measureX1 => true
  | .releasing => true
  | _ => false

/-! ### Passes (R142, R149, R150) -/

/-- The pass number after n: from 65535 to 1 (R142). -/
def nextPass (n : Nat) : Nat := if n = 65535 then 1 else n + 1

/-- A pass begins: its number, its timers and its marks (R142, R149). The selection is made by the caller. -/
def State.beginPass (s : State) (full : Bool) : State :=
  { s with
    cores := mapIx s.cores fun k r =>
      if s.work.cores[k].role = .unused then { r with mark := .none } else { r with mark := .due, abandons := 0 }
    survey := { s.survey with
      active := true, full := full, passNo := nextPass s.survey.passNo
      interval := some (s.now + hours s.work.thr.hours), window := some (s.now + hours 4), startHeld := false } }

/-- The numbers of a SURVEY_NOW job: cores tested, cores with an abandon, cores untested (R150). -/
def State.tally (s : State) : JobItems :=
  let l := s.cores.toList
  .tally (l.countP (·.mark = .tested)) (l.countP fun r => r.mark ≠ .none && r.abandons ≠ 0) (l.countP (·.mark.isDue))

/-- Each core still due adds one to its untested-pass count, and the third reports CORE_UNTESTABLE (R149); several cores of one pass end report from K1 to K64 (log 98). -/
def State.countUntested (s : State) : State :=
  s.each (allCores.filter fun k => (s.cores[k]).mark.isDue) fun k t =>
    let n := (t.cores[k]).hist.untested
    if n < 3 then
      let t := t.updCore k fun r => { r with hist := { r.hist with untested := n + 1 } }
      if n + 1 = 3 then t.observe ⟨.core k, .coreUntestable⟩ else t
    else t

/-- What the end of every pass does (R149), and the end of a SURVEY_NOW job with it (R150). -/
def State.closePass (s : State) (r : JobResult) : State :=
  let t := s.tally
  let s := { s with
    cores := s.cores.map fun (c : CoreRun) =>
      { c with mark := .none, test := if c.test = TestState.releasing then .releasing else .idle }
    survey := { s.survey with active := false, window := none, eligibility := none } }
  (s.placeStore .survey).endJob .surveyNow r t

/-- A pass ends other than by a halt; where a start is held the next begins in the same event, and an occasion for its selection with it (R149). -/
def State.endPass (s : State) : State :=
  let s := s.countUntested.closePass .ok
  if s.survey.startHeld && !s.survey.halted then (s.beginPass false).wantSelection else s

/-- The surveyor is halted (R140, R149, R150). A test in CHARGING loses its charge timer and stands IDLE, its core still the core under test (log 60). -/
def State.haltSurvey (s : State) : State :=
  let s := s.withdrawLeak
  let s := { s with survey := { s.survey with halted := true, connected := none, charge := none } }
  if s.survey.active then s.closePass .halted else s

/-! ### One test (R143 to R146) -/

/-- The crosspoint of a core: its row and its column in the test matrix (R140). -/
def crosspoint (k : CoreId) : Fin 8 × Fin 8 := (⟨k.val / 8, by omega⟩, ⟨k.val % 8, by omega⟩)

/-- A test starts on a core (R143): its crosspoint is commanded connected. -/
def State.testStart (s : State) (k : CoreId) : State :=
  let s := { s with survey := { s.survey with
    eligibility := none, underTest := some k, connected := some (crosspoint k), charge := some (s.now + 2000) } }
  s.updCore k fun r => { r with test := .charging }

/-- Every core marked WAIT_ELIGIBLE returns to IDLE. -/
def State.clearWaits (s : State) : State :=
  { s with cores := s.cores.map fun (r : CoreRun) => if r.test = .waitEligible then { r with test := .idle } else r }

/-- The earliest time among those that exist. -/
def earliest : List Nat → Option Nat
  | [] => none
  | t :: ts => some (ts.foldl min t)

/-- A selection (R142); a crosspoint is connected only while the proof line is accepted open (R140). -/
def State.selection (s : State) : State :=
  if s.survey.active && !s.survey.halted && s.survey.underTest.isNone then
    let order := s.dueOrder
    match order with
    | [] => s.endPass
    | first :: _ =>
      match order.find? fun k => !s.survey.lineClosed && s.coreEligible k s.now with
      | some k => s.clearWaits.testStart k
      | none =>
        let t := s.clearWaits.updCore first fun r => { r with test := .waitEligible }
        match earliest (order.filterMap s.eligibleLater) with
        | some e => { t with survey := { t.survey with eligibility := some e } }
        | none => t
  else s

/-- The surveyor enters RELEASING with the core under test (R146). -/
def State.enterReleasing (s : State) (k : CoreId) : State :=
  let s := { s with survey := { s.survey with
    connected := none, charge := none, release := some (s.now + 20) } }
  s.updCore k fun r => { r with test := .releasing }

/-- A test in CHARGING, MEASURE_X16 or MEASURE_X1 is abandoned; the abandon of a COMMIT_CONFIG is not counted (R145). -/
def State.abandon (s : State) (k : CoreId) (counted : Bool) : State :=
  if s.survey.underTest = some k && (s.cores[k]).test.inProgress && (s.cores[k]).test ≠ .releasing then
    let s := s.withdraw (.leak k)
    let s := if counted then
        let n := min 5 ((s.cores[k]).abandons + 1)
        s.updCore k fun r => { r with abandons := n, mark := if n = 5 && r.mark.isDue then .deferred else r.mark }
      else s
    s.enterReleasing k
  else s

/-- Abandon the test in progress where the configuration of its core meets a condition. -/
def State.abandonIf (s : State) (p : CoreCfg → Bool) : State :=
  match s.survey.underTest with
  | some k => if p s.work.cores[k] then s.abandon k true else s
  | none => s

/-- Whether a core is LOAD for a channel. -/
def CoreCfg.loads (x : CoreCfg) (c : Chan) : Bool := x.role == .load c

/-- The pending-green flag of a group is set (R19, R145). -/
def State.surveyPending (s : State) (g : Group) : State :=
  s.abandonIf fun x => match x.role with
    | .load c => groupOf c == g
    | _ => false

/-- The SMC begins to close, or its proof is accepted closed (R145). -/
def State.surveySupply (s : State) : State := s.abandonIf fun x => x.role == .common

/-- The amber channels of VEHICLE groups may be fed by the flasher (R145). -/
def State.surveyFlash (s : State) : State :=
  s.abandonIf fun x => match x.role with
    | .load c => decide ((colourOf c).val = 1) && decide (s.work.groups[groupOf c].type = .vehicle)
    | _ => false

/-- The test of the core under test ends at the line's opening, or at its release timer with the line already open (R146, log 20). -/
def State.testEnd (s : State) : State :=
  match s.survey.underTest with
  | some k =>
    if (s.cores[k]).test = .releasing then
      let s := { s with survey := { s.survey with release := none, underTest := none } }
      let s := s.updCore k fun r => { r with test := .idle }
      if s.survey.halted then s
      else if s.survey.active && s.survey.window.isNone then s.endPass
      else s.wantSelection
    else s
  | none => s

/-- The charge timer's expiry (R143). -/
def State.chargeExpiry (s : State) : State :=
  let s := { s with survey := { s.survey with charge := none } }
  match s.survey.underTest with
  | some k =>
    if s.survey.lineClosed then (s.updCore k fun r => { r with test := .measureX16 }).place (.leak k) .leakX16
    else
      let s := { s with survey := { s.survey with connected := none, underTest := none } }
      ((s.updCore k fun r => { r with test := .idle }).observe ⟨.core k, .matrixFault⟩).haltSurvey
  | none => s

/-- The surveyor's release timer expires (R146). -/
def State.releaseExpiry (s : State) : State :=
  match s.survey.underTest with
  | some k =>
    if s.survey.lineClosed then
      (State.observe { s with survey := { s.survey with release := none } } ⟨.core k, .matrixFault⟩).haltSurvey
    else s.testEnd
  | none => { s with survey := { s.survey with release := none } }

/-! ### Readings (R144, R147, R148) -/

/-- A survey part after a reading (R147 steps 1 to 3). -/
def CoreSurvey.record (h : CoreSurvey) (reading passNo : Nat) : CoreSurvey :=
  let recent := (if h.recent.length < 8 then h.recent else h.recent.drop (h.recent.length - 7)) ++ [(reading, passNo)]
  match h.smoothed with
  | none => { h with recent := recent, smoothed := some reading, worst := some reading, untested := 0 }
  | some v =>
    { h with recent := recent, smoothed := some (smooth v reading)
             worst := some (min (h.worst.getD reading) reading), untested := 0 }

/-- The insulation judgement of a kind whose limit is a threshold on S (Table 8-4). -/
def State.judgeLevel (s : State) (k : CoreId) (kind : Kind) (v threshold : Nat) : State :=
  let x : Cond := ⟨.core k, kind⟩
  if v < threshold then s.observe x
  else if threshold * 5 / 4 ≤ v then s.endCond x
  else if s.isConfirmed x then s
  else s.pass x

/-- A reading is recorded for a core (R147, R148); `earth` marks a saturated X1 count. -/
def State.record (s : State) (k : CoreId) (reading : Nat) (earth : Bool) : State :=
  let untestable := decide ((s.cores[k]).hist.untested = 3)
  let s := s.updCore k fun r =>
    { r with hist := r.hist.record reading s.survey.passNo, mark := .tested }
  let s := if untestable then s.endCond ⟨.core k, .coreUntestable⟩ else s
  let v := (s.cores[k]).hist.smoothed.getD reading
  let s := if earth then s.observe ⟨.core k, .earthFault⟩
    else if s.work.thr.low ≤ reading then s.endCond ⟨.core k, .earthFault⟩
    else s
  (s.judgeLevel k .insulationLow v s.work.thr.low).judgeLevel k .insulationWarn v s.work.thr.warn

/-- A LEAK result is returned to the surveyor (R144). -/
def State.leakResult (s : State) (r : Result) : State :=
  match r.subject with
  | .leak k =>
    let st := (s.cores[k]).test
    if s.survey.underTest = some k && (st = .measureX16 || st = .measureX1) then
      if r.stale then s.abandon k true
      else if r.dipped then s.place (.leak k) r.range
      else if r.saturated then
        if st = .measureX16 then (s.updCore k fun r => { r with test := .measureX1 }).place (.leak k) .leakX1
        else (s.record k 0 true).enterReleasing k
      else (s.record k (resistance (r.count.toNat * r.range.fullScale / 65536)) false).enterReleasing k
    else s
  | _ => s

end Sys2Proof.Machine
end

