-- ==== Sys2Proof/Machine/Sequence.lean ====
section
/-! DEFINITION. The sequence engine (spec/01, spec/03): aspects and gaining groups, green periods, the decision and the plan boundary, the stage change, entering and leaving RUNNING, and the time-of-day table. -/

namespace Sys2Proof.Machine

/-! ### Aspects of one group (R7, R8, R17, R19, R20) -/

/-- A green ends (R7): AMBER with its timer, or RED; the last green-off time is recorded. -/
def State.endGreen (s : State) (g : Group) : State :=
  let cfg := s.work.groups[g]
  let amber := some (s.now + tenths cfg.amber)
  let t := s.now
  match cfg.type with
  | .vehicle | .arrow => (s.updGroup g fun r =>
      { r with aspect := .amber, amberTimer := amber, lastGreenOff := some t }).mark
  | .pedestrian => (s.updGroup g fun r => { r with aspect := .red, lastGreenOff := some t }).mark
  | .unused => (s.updGroup g fun r => { r with aspect := .dark, lastGreenOff := some t }).mark

/-- A group is given green (R8, R19, R20). -/
def State.giveGreen (s : State) (g : Group) : State :=
  (s.updGroup g fun r =>
    { r with aspect := .green, pendingGreen := false, redAmberTimer := none, greenRelease := none
             redAmberStart := none, greenMark := true }).mark.wantSelection

/-- A gaining group ceases to be gaining; RED_AMBER reverts to RED (R8, R17). -/
def State.dropGaining (s : State) (g : Group) : State :=
  (s.updGroup g fun r =>
    { r with aspect := if r.aspect = .redAmber then .red else r.aspect, pendingGreen := false
             redAmberTimer := none, greenRelease := none, redAmberStart := none }).mark

/-- A gaining group takes the step its times have reached: green at its green-release time, RED_AMBER at its red-amber start; nothing while it is in AMBER (R8, R21, R22). A group that has lost its last inhibit reason in this event is not given green in it: its green-release time is taken up in the event that follows (R18, log 66). -/
def State.advanceGroup (s : State) (g : Group) : State :=
  let r := s.groups[g]
  if !r.pendingGreen || decide (r.aspect = .amber) then s
  else if r.greenRelease.any (· ≤ s.now) then (if g ∈ s.ev.freed then s else s.giveGreen g)
  else if r.aspect = .red && r.redAmberStart.any (· ≤ s.now) then
    (s.updGroup g fun r => { r with aspect := .redAmber, redAmberTimer := r.greenRelease }).mark
  else s

/-- A group becomes gaining with its times stored; a test on its cores is abandoned (R19, R145). -/
def State.setGaining (s : State) (g : Group) (release : Nat) (start : Option Nat) : State :=
  (((s.updGroup g fun r => { r with pendingGreen := true, greenRelease := some release, redAmberStart := start }).surveyPending
    g).wantSelection).advanceGroup g

/-- The amber timer's expiry (R7); a gaining group is taken on in the same event (R21, R22). -/
def State.amberEnd (s : State) (g : Group) : State :=
  let a : Aspect := if s.work.groups[g].type = .arrow then .dark else .red
  ((s.updGroup g fun r => { r with aspect := a, amberTimer := none }).mark).advanceGroup g

/-! ### Times of gaining groups (R21, R22) -/

/-- The green-release time of a group at a decision (R21). -/
def State.releaseTime (s : State) (j : Group) : Nat :=
  let base := allGroups.foldl (fun t i =>
    match s.work.ig[i][j], (s.groups[i]).lastGreenOff with
    | some ig, some off => if (s.groups[i]).greenMark then max t (off + tenths ig) else t
    | _, _ => t) s.now
  if (s.groups[j]).aspect = .amber then max base ((s.groups[j]).amberTimer.getD 0) else base

/-- The red-amber start of a VEHICLE group at a decision (R22). -/
def State.redAmberTime (s : State) (j : Group) (release : Nat) : Option Nat :=
  if s.work.groups[j].type = .vehicle then
    let base := max s.now (release - tenths s.work.groups[j].redAmber)
    some (if (s.groups[j]).aspect = .amber then max base ((s.groups[j]).amberTimer.getD 0) else base)
  else none

/-! ### Green periods and stage changes (R47, R56) -/

/-- The engine's state becomes x; a change of it is an occasion for a selection (R142). -/
def State.engineTo (s : State) (x : EngineState) : State :=
  { s with engine := { s.engine with state := x }, ev := { s.ev with select := s.ev.select || decide (s.engine.state ≠ x) } }

/-- A green period is over, or another begins: the green, maximum and gap timers are stopped (R47), and a max-out of this event is spent with the period it ended (R49, R51). -/
def State.stopTimers (s : State) : State :=
  { s with
    engine := { s.engine with greenTimer := none, maxTimer := none, gapTimer := none, gapped := false }
    ev := { s.ev with maxOut := false } }

/-- No stage change is under way: no previous stage and no gaining group is held (R46, R57). -/
def Engine.changeOver (e : Engine) : Engine := { e with prevStage := none, gaining := .replicate 16 false }

/-- A green period begins for a record of the current plan (R47). The maximum timer starts in the same event where an opposing record exists (R49). -/
def State.beginGreen (s : State) (kind : PlanKind) (index : Nat) (r : ResolvedRecord) : State :=
  let s := s.stopTimers.engineTo .green
  let s := { s with engine := { s.engine.changeOver with
    record := some index, stage := some (r.stage.val + 1)
    greenTimer := some (s.now + tenths r.min), demands := s.engine.demands.set r.stage false } }
  let s := if kind = .fixed then s
    else if s.occupied[r.stage] then s.stopGap
    else s.startGap r.gap
  s.mark

/-- A stage change begins (R56): the groups sorted as gaining are held for as long as it is under way. `entry` marks the entry change of R61, whose vehicle groups show their red-amber in full. -/
def State.beginChange (s : State) (index : Nat) (r : ResolvedRecord) (entry : Bool) : State :=
  let old := s.engine.inForce
  let s := if old = 0 then s else { s with ev := { s.ev with leftForce := s.ev.leftForce ++ [old] } }
  let s := s.stopTimers.engineTo .changing
  let s := { s with engine := { s.engine with
    record := some index, stage := some (r.stage.val + 1), prevStage := some old } }
  let s := s.each (allGroups.filter fun g => (s.groups[g]).aspect == .green && !r.groups[g]) fun g t => t.endGreen g
  let gaining : List Group := allGroups.filter fun g => r.groups[g] && (s.groups[g]).aspect != .green && s.eligible g
  let s := { s with engine := { s.engine with gaining := Vector.ofFn fun g => decide (g ∈ gaining) } }
  let s := s.each gaining fun g t =>
    if entry then
      if t.work.groups[g].type = .vehicle then
        t.setGaining g (t.now + tenths t.work.groups[g].redAmber) (some t.now)
      else t.setGaining g t.now none
    else
      let release := t.releaseTime g
      t.setGaining g release (t.redAmberTime g release)
  s.mark

/-! ### The decision (R49, R52 to R54) -/

/-- Whether a record qualifies (R49). -/
def State.qualifies (s : State) (r : ResolvedRecord) : Bool :=
  (decide (r.mode = .always) || s.engine.demands[r.stage]) &&
    allGroups.any fun g => r.groups[g] && s.eligible g

/-- Whether an opposing record exists (R49). -/
def State.opposing (s : State) : Bool :=
  match s.engine.plan with
  | some p => p.records.any fun r => s.qualifies r && decide (s.engine.stage ≠ some (r.stage.val + 1))
  | none => false

/-- The first qualifying record among record indices of a plan. -/
def State.firstQualifying (s : State) (p : ResolvedPlan) (l : List Nat) : Option (Nat × ResolvedRecord) :=
  l.findSome? fun i =>
    match p.records[i - 1]? with
    | some r => if s.qualifies r then some (i, r) else none
    | none => none

/-- Record indices a to b, in ascending order. -/
def indices (a b : Nat) : List Nat := (List.range (b + 1 - a)).map (a + ·)

/-- The records a scan examines before it passes from the last record to record 1, and those after (R52). -/
def Engine.scanOrder (e : Engine) (p : ResolvedPlan) : List Nat × List Nat :=
  let n := p.records.length
  match e.record with
  | some r => (indices (r + 1) n, indices 1 r)
  | none => (indices p.start n, indices 1 (p.start - 1))

/-- The cause a PLAN_CHANGED notice carries for a change taken (R66). -/
def ChangeOrigin.cause : ChangeOrigin → PlanCause
  | .timeTable => .timeTable
  | .link => .link

/-- A pending change is translated and becomes none (R64, R65); the answer says whether it made a plan current. -/
def State.takeChange (s : State) (c : PendingChange) : State × Bool :=
  let s := { s with engine := { s.engine with change := none } }
  s.translateFor c.ref

/-- Step 4 of R44: a pending change, else the reference of the current plan, else the base reference is translated against the adopted set. Where the base reference fails too no plan is current (log 15). -/
def State.reResolve (s : State) : State :=
  let (s, done) := match s.engine.change with
    | some c => s.takeChange c
    | none => (s, false)
  if done then s
  else
    match s.engine.plan with
    | none => s
    | some p =>
      let (s, done) := s.translateFor p.ref
      if done then s
      else
        let (s, done) := s.translateFor baseRef
        if done then s else { s with engine := { s.engine with plan := none, record := none } }

/-- The decision crosses the plan boundary (R53): the answer says whether a plan was made current. -/
def State.crossBoundary (s : State) : State × Bool :=
  match s.pendingSet with
  | some p =>
    let s := (s.adoptSet p).reResolve
    (s.planChanged .setAdopted (some p.generation), true)
  | none =>
    match s.engine.change with
    | none => (s, false)
    | some c =>
      let (s, done) := s.takeChange c
      if done then (s.planChanged c.origin.cause none, true) else (s, false)

/-- The record a decision takes, after what the plan boundary did (R52, R53). -/
def State.scanPlan (s : State) : State × Option (Nat × ResolvedRecord) :=
  match s.engine.plan with
  | none => (s, none)
  | some p =>
    let (before, after) := s.engine.scanOrder p
    match s.firstQualifying p before with
    | some x => (s, some x)
    | none =>
      if after.isEmpty then (s, none)
      else
        let (s, fresh) := s.crossBoundary
        if fresh then
          match s.engine.plan with
          | none => (s, none)
          | some q =>
            let (b, a) := s.engine.scanOrder q
            (s, s.firstQualifying q (b ++ a))
        else (s, s.firstQualifying p after)

/-- The engine goes to ALL_RED, with the all-red stage in force (R54, R58). -/
def State.toAllRed (s : State) : State :=
  let s := s.engineTo .allRed
  State.mark { s with engine := { s.engine.changeOver with stage := some 0 } }

/-- A decision and its outcome (R54). Whether a group of the current stage is GREEN is judged by the copy then in use, also where this decision has adopted it with the stage defined anew (log 84). No decision is taken without a current plan, nor while the engine is barred from it (R61 step 3). -/
def State.takeDecision (s : State) : State :=
  if s.engine.barred then s
  else
    match s.engine.plan with
    | none => s
    | some _ =>
      let (s, taken) := s.scanPlan
      match taken with
      | some (i, r) =>
        if s.engine.inForce = r.stage.val + 1 then
          s.beginGreen ((s.engine.plan.map (·.kind)).getD .fixed) i r
        else s.beginChange i r false
      | none =>
        let s := s.stopTimers
        if s.someGreen (s.engine.stage.getD 0) then
          let s := s.engineTo .resting
          State.mark { s with engine := s.engine.changeOver }
        else
          let old := s.engine.inForce
          let s := if old = 0 then s else { s with ev := { s.ev with leftForce := s.ev.leftForce ++ [old] } }
          s.toAllRed

/-- A plan that a PROMPT change has made current is entered: the green period in force ends with its timers stopped, the notice is queued, and a decision is taken at once (R64). -/
def State.enterPlan (s : State) (cause : PlanCause) : State :=
  (s.stopTimers.planChanged cause none).takeDecision.mark

/-- A failed translation where no plan is current has the base reference translated instead (R37 effect 1); the answer says whether P1 has become current. -/
def State.fallBack (s : State) : State × Bool :=
  match s.engine.plan with
  | some _ => (s, false)
  | none => s.translateFor baseRef

/-- A pending PROMPT change is taken (R64): on success its plan is entered; on failure the current plan continues, and where none is current P1 is entered if the base reference translates (R37, R66; log 54). -/
def State.takePrompt (s : State) : State × Bool :=
  match s.engine.change with
  | none => (s, false)
  | some c =>
    if c.timing = .prompt then
      let (s, done) := s.takeChange c
      if done then (s.enterPlan c.origin.cause, true)
      else
        let (s, based) := s.fallBack
        if based then (s.enterPlan .baseFallback, true) else (s, false)
    else (s, false)

/-! ### The engine's work in one event (R17, R48 to R51, R55, R57 to R59, R64) -/

/-- Inhibit reasons that have arrived end greens and drop gaining groups (R17). -/
def State.dropInhibited (s : State) : State :=
  s.each allGroups fun g t =>
    let r := t.groups[g]
    if !r.inhibited then t
    else
      let t := if r.aspect = .green then t.endGreen g else t
      if r.pendingGreen then t.dropGaining g else t

/-- Whether a group is a gaining group of the stage change under way: sorted as gaining at its decision, and since then neither dropped nor its green ended. A group that has been given green in the change is gaining still, though its pending-green flag is clear (R19, R56, R57, R58; log 68). -/
def State.isGaining (s : State) (g : Group) : Bool :=
  decide (s.engine.state = .changing) && s.engine.gaining[g]
    && ((s.groups[g]).pendingGreen || decide ((s.groups[g]).aspect = .green))

/-- Whether some gaining group is not yet GREEN. -/
def State.anyGaining (s : State) : Bool := s.groups.toList.any (·.pendingGreen)

/-- The work of CHANGING (R57, R58): completion, or the end of the change in ALL_RED. -/
def State.workChanging (s : State) : State :=
  if s.anyGaining then s
  else if s.someGreen (s.engine.stage.getD 0) then
    match s.engine.plan, s.engine.record, s.engine.currentRecord with
    | some p, some i, some r => s.beginGreen p.kind i r
    | _, _, _ => s
  else
    s.toAllRed.takeDecision

/-- Start the maximum timer in the first event of an ACTUATED green period in which an opposing record exists (R49). -/
def State.startMaximum (s : State) : State :=
  match s.engine.currentRecord with
  | some r =>
    if s.engine.maxTimer.isNone && !s.ev.maxOut && s.opposing then
      { s with engine := { s.engine with maxTimer := some (s.now + tenths r.max) } }
    else s
  | none => s

/-- The work of GREEN (R48, R49, R51, R59, R64). -/
def State.workGreen (s : State) (lastEnded : Bool) : State :=
  if lastEnded then s.stopTimers.takeDecision
  else
    let (s, taken) := if s.engine.greenTimer.isNone then s.takePrompt else (s, false)
    if taken then s
    else
      match s.engine.plan with
      | none => s
      | some p =>
        if p.kind = .fixed then (if s.engine.greenTimer.isNone then s.stopTimers.takeDecision else s)
        else
          let s := s.startMaximum
          if s.engine.greenTimer.isNone && (s.ev.maxOut || (s.engine.gapped && s.opposing)) then
            s.stopTimers.takeDecision
          else s

/-- The work of RESTING and ALL_RED (R55, R59, R64): the decision of an occasion first, then a pending PROMPT change, which is taken without a current plan too (log 54). -/
def State.workIdle (s : State) (lastEnded : Bool) : State :=
  let go := lastEnded || s.ev.occasion
  let s := { s with ev := { s.ev with occasion := false } }
  let s := if go then s.takeDecision else s
  if s.engine.state = .resting ∨ s.engine.state = .allRed then s.takePrompt.1 else s

/-- The engine's work in one round (Table 3-2). -/
def State.engineWork (s : State) : State :=
  if s.engine.state = .off then s
  else
    let stage := s.engine.stage.getD 0
    let was := s.someGreen stage
    let s := s.dropInhibited
    let lastEnded := was && !s.someGreen stage
    match s.engine.state with
    | .off => s
    | .changing => s.workChanging
    | .green => s.workGreen lastEnded
    | .resting | .allRed => s.workIdle lastEnded

/-- The stages that left force are passed to the detector scanner when the engine's own work is done (R80). -/
def State.passLeftForce (s : State) : State :=
  let l := s.ev.leftForce
  State.each { s with ev := { s.ev with leftForce := [] } } l fun st t => t.leftForce st

/-! ### Entering and leaving RUNNING (R61, R62) -/

/-- The engine leaves RUNNING (R62); the aspects are set by the mode entered. -/
def State.leaveRunning (s : State) : State :=
  let old := s.engine.inForce
  let s := if old = 0 then s else { s with ev := { s.ev with leftForce := s.ev.leftForce ++ [old] } }
  let s := s.each (allGroups.filter fun g => (s.groups[g]).pendingGreen) fun g t => t.dropGaining g
  let s := s.stopTimers.engineTo .off
  State.mark { s with engine := { s.engine.changeOver with
    plan := none, record := none, stage := none, change := none, barred := false } }

/-- Every GREEN ends under R7 and RED_AMBER is commanded RED, as SHUTDOWN is entered (R62, R168). -/
def State.endGreens (s : State) : State :=
  s.each allGroups fun g t => if (t.groups[g]).aspect = .green then t.endGreen g else t

/-- The action of the effective time-of-day result; BASE with no entry (R69). -/
def Engine.tableAction (e : Engine) : TodAction :=
  match e.tableResult with
  | some x => x.action
  | none => .base

/-- The reference with which the engine begins (R61 step 2). -/
def State.entryRef (s : State) : PlanRef :=
  match s.engine.source, s.engine.override with
  | .linkOverride, some r => r
  | .linkOverride, none => baseRef
  | .timeTable, _ =>
    match s.clock.valid, s.engine.tableAction with
    | true, .plan r => r
    | _, _ => baseRef

/-- The entry change (R61 step 5), once a plan is current. -/
def State.entryChange (s : State) : State :=
  match s.engine.plan with
  | none => s
  | some p =>
    match p.records[p.start - 1]? with
    | some r =>
      if allGroups.any fun g => r.groups[g] && s.eligible g then s.beginChange p.start r true
      else
        let (s, taken) := s.scanPlan
        match taken with
        | some (i, r) => s.beginChange i r true
        | none => s.mark
    | none => s

/-- The engine is barred from decisions until the mode changes (R61 step 3). -/
def State.bar (s : State) : State := State.mark { s with engine := { s.engine with barred := true } }

/-- Entry to RUNNING (R61). Where the base reference fails too, the engine is barred from decisions until the mode changes (step 3). -/
def State.enterRunning (s : State) : State :=
  let s := s.adoptPending
  let ref := s.entryRef
  let s := s.engineTo .allRed
  let s := { s with engine := { s.engine with stage := some 0, record := none } }
  let (s, done) := s.translateFor ref
  let (s, done, cause) :=
    if done then (s, true, PlanCause.entry)
    else
      let (s, done) := s.translateFor baseRef
      (s, done, PlanCause.baseFallback)
  let s := if done then (s.planChanged cause none).entryChange else s.bar
  match s.engine.source, s.clock.valid, s.engine.tableAction with
  | .timeTable, true, .flash => s.ask .flash
  | _, _, _ => s

/-! ### The time-of-day table (R69, R70) -/

/-- Seconds of a week. -/
def weekSeconds : Nat := 604800

/-- How long ago the most recent occurrence of an entry was, in seconds (R69). -/
def TodEntry.age (e : TodEntry) (now : Nat) : Option Nat :=
  let ages := (List.finRange 7).filterMap fun d =>
    if e.days[d] then
      some ((now + weekSeconds - (d.val * 86400 + e.hour * 3600 + e.minute * 60)) % weekSeconds)
    else none
  earliest ages

/-- The effective entry: the one whose most recent occurrence is the latest; none for an empty table (R69). -/
def effectiveEntry (now : Nat) (l : List TodEntry) : Option TodEntry :=
  (l.foldl (fun best e =>
    match e.age now, best with
    | none, b => b
    | some a, none => some (a, e)
    | some a, some (b, x) => if a < b then some (a, e) else some (b, x)) none).map (·.2)

/-- A time-of-day result is applied (R70). -/
def State.applyResult (s : State) : State :=
  if s.engine.source = .linkOverride then s
  else
    match s.mode.mode, s.engine.tableAction with
    | .running, .flash =>
      let change := s.engine.change.filter fun c => c.origin ≠ .timeTable
      State.ask { s with engine := { s.engine with change := change } } .flash
    | .running, .plan r =>
      State.mark { s with engine := { s.engine with change := some ⟨r, .boundary, .timeTable⟩ } }
    | .running, .base =>
      State.mark { s with engine := { s.engine with change := some ⟨baseRef, .boundary, .timeTable⟩ } }
    | .partFlash, .plan _ => s.ask .planRequest
    | .partFlash, .base => s.ask .planRequest
    | _, _ => s

/-- The time-of-day table is evaluated (R69); `always` is set for CLEAR_OVERRIDE, which applies an unchanged result too. While the clock is invalid nothing is evaluated and nothing applied, for CLEAR_OVERRIDE as for the rest (log 53). -/
def State.evaluateTable (s : State) (always : Bool) : State :=
  if !s.clock.valid then s
  else
    let e := effectiveEntry s.clock.secondOfWeek s.tod
    let changed := decide (e ≠ s.engine.tableResult)
    let s := { s with engine := { s.engine with tableResult := e } }
    if changed || always then s.applyResult else s

end Sys2Proof.Machine
end

