-- ==== Sys2Proof/Machine/Switch.lean ====
section
/-! DEFINITION. The switch controller (spec/05): the load relay machine, the SMC and FTR machines, the flash bus, the resets, and the commands of aspect changes. -/

namespace Sys2Proof.Machine

/-! ### The load relay machine (R88 to R92) -/

/-- Change a load relay's record, with what follows from its change of state: the dark-since time is none outside RELEASED (R93), GREEN_UNAVAILABLE stands on a group while its green relay is in FAILED_OPEN (R16), a green relay that leaves RELEASED clears the dark-current evidence (R99), and an entry to RELEASED is an occasion for a selection (R142). -/
def State.setRelay (s : State) (c : Chan) (f : Relay → Relay) : State :=
  let o := s.relays[c]
  let n0 := f o
  let n := { n0 with darkSince := if n0.state = .released then n0.darkSince else none }
  let t := s.updRelay c fun _ => n
  if o.state = n.state then t
  else
    let t := t.mark
    let t := if n.state = .released then t.wantSelection else t
    if (colourOf c).val = 2 then
      let g := groupOf c
      let t := if o.state = .released then
          { t with monitor := upd t.monitor g fun m => { m with darkCurrent := false } }
        else t
      if (o.state = .failedOpen) ≠ (n.state = .failedOpen) then
        t.setGreenUnavailable g (n.state = .failedOpen)
      else t
    else t

/-- The limits of a load relay, read from the working copy (R87). -/
def State.limits (s : State) (c : Chan) : Limits := s.work.channels[c].limits

/-- A coil is energized and the operate timer started (R88). -/
def State.energize (s : State) (c : Chan) : State :=
  let t := s.now + (s.limits c).operate
  s.setRelay c fun r =>
    { r with state := .operating, coil := true, held := false, waitCore := none, waitTimer := none, opTimer := some t }

/-- The core with a test in progress whose role is LOAD with a channel (R88). -/
def State.testedCore (s : State) (c : Chan) : Option CoreId :=
  s.survey.underTest.filter fun k => (s.cores[k]).test.inProgress && s.work.cores[k].loads c

/-- An operate command reaching a relay in RELEASED (R88): held while a test is in progress on a core of the channel, which the crosspoint release request abandons (R145). -/
def State.operateReleased (s : State) (c : Chan) : State :=
  match s.testedCore c with
  | some k =>
    let t := s.now + 20
    (s.updRelay c fun r => { r with held := true, waitCore := some k, waitTimer := some t }).abandon k true
  | none => s.energize c

/-- An operate command for a load relay (R88); in FAILSAFE and MAINS_OUT none is taken. -/
def State.operate (s : State) (c : Chan) : State :=
  if s.mode.mode = .failsafe ∨ s.mode.mode = .mainsOut then s
  else
    match (s.relays[c]).state with
    | .released => if (s.relays[c]).held then s else (s.operateReleased c).wantSelection
    | .releasing => (s.updRelay c fun r => { r with held := true }).wantSelection
    | .operating | .operated => s.wantSelection
    | .failedOpen | .failedClosed => s

/-- The coil is de-energized, the release timer started and the generation advanced (R90, R91); a LIT lit period ends with the change of generation (R122). -/
def State.startRelease (s : State) (c : Chan) : State :=
  let t := s.now + (s.limits c).release
  (s.setRelay c fun r =>
    { r with state := .releasing, coil := false, opTimer := none, relTimer := some t, gen := r.gen + 1 }).endLit c

/-- A release command for a load relay (R89 to R92). -/
def State.release (s : State) (c : Chan) : State :=
  match (s.relays[c]).state with
  | .released =>
    (s.updRelay c fun r => { r with held := false, waitCore := none, waitTimer := none }).wantSelection
  | .operating | .operated => (s.startRelease c).wantSelection
  | .releasing => (s.updRelay c fun r => { r with held := false }).wantSelection
  | .failedOpen | .failedClosed => s

/-- A relay enters FAILED_OPEN with an origin and a failed-open report is made (R92). -/
def State.failOpen (s : State) (c : Chan) (o : FailureOrigin) : State :=
  (s.setRelay c fun r =>
    { r with state := .failedOpen, coil := false, held := false, waitCore := none, waitTimer := none,
             opTimer := none, relTimer := none, origin := o }).lampFailedOpen c

/-- An uncommanded closure (R92). -/
def State.uncommanded (s : State) (c : Chan) : State :=
  let s := s.setRelay c fun r =>
    { r with state := .failedClosed, held := false, waitCore := none, waitTimer := none, gen := r.gen + 1, origin := .welded }
  ((s.observe ⟨.channel c, .relayWelded⟩).lampLeftReleased c).abandonIf fun x => x.loads c

/-- A relay in RELEASING enters RELEASED; a held operate is taken in the same event (R91). -/
def State.enterReleased (s : State) (c : Chan) : State :=
  let held := (s.relays[c]).held
  let t := (s.setRelay c fun r =>
    { r with state := .released, held := false, relTimer := none, darkSince := some s.now }).lampProvenOff c
  if held then (t.operateReleased c).wantSelection else t

/-- A load relay's proof is accepted closed (R89 to R92). -/
def State.relayClosed (s : State) (c : Chan) : State :=
  let s := s.updRelay c fun r => { r with proof := true }
  match (s.relays[c]).state with
  | .operating =>
    (s.setRelay c fun r => { r with state := .operated, opTimer := none, gen := r.gen + 1 }).lampProvenOn c
  | .released | .failedOpen => s.uncommanded c
  | .operated | .releasing | .failedClosed => s.mark

/-- A load relay's proof is accepted open (R91, R92). At a drop the failed-open report is made before RELAY_NO_OPERATE is confirmed (log 77). -/
def State.relayOpened (s : State) (c : Chan) : State :=
  let s := s.updRelay c fun r => { r with proof := false }
  match (s.relays[c]).state with
  | .operated =>
    let t := ((s.updRelay c fun r => { r with gen := r.gen + 1 }).endLit c).lampProvenOff c
    (t.failOpen c .dropped).observe ⟨.channel c, .relayNoOperate⟩
  | .releasing => s.enterReleased c
  | .released | .operating | .failedOpen | .failedClosed => s.mark

/-- The operate timer's expiry (R90). The failed-open report is made before RELAY_NO_OPERATE is confirmed (log 77). -/
def State.relayOperateExpiry (s : State) (c : Chan) : State :=
  (s.failOpen c .noOperate).observe ⟨.channel c, .relayNoOperate⟩

/-- The release timer's expiry (R91). -/
def State.relayReleaseExpiry (s : State) (c : Chan) : State :=
  if (s.relays[c]).proof then
    (s.setRelay c fun r => { r with state := .failedClosed, held := false, relTimer := none, origin := .welded }).observe
      ⟨.channel c, .relayWelded⟩
  else s.enterReleased c

/-- The crosspoint wait timer's expiry (R89): MATRIX_FAULT on the core of the request, the surveyor halted, the failed-open report. -/
def State.waitExpiry (s : State) (c : Chan) : State :=
  let core := (s.relays[c]).waitCore
  let s := match core with
    | some k => (s.observe ⟨.core k, .matrixFault⟩).haltSurvey
    | none => s.haltSurvey
  s.failOpen c .crosspoint

/-- The crosspoint line is accepted open: every held operate of a relay in RELEASED is released (R89), and the test in RELEASING ends (R146). -/
def State.lineOpened (s : State) : State :=
  let s := { s with survey := { s.survey with lineClosed := false } }
  let s := s.each (allChans.filter fun c => (s.relays[c]).held && decide ((s.relays[c]).state = .released))
    fun c t => (t.energize c).wantSelection
  s.testEnd

/-- A release command for every load relay (R94). -/
def State.releaseAll (s : State) : State := s.each allChans fun c t => t.release c

/-- Whether a load relay is reset at entry to START_FLASH (R94): it has failed, and not by a crosspoint whose proof line is still closed. -/
def State.resets (s : State) (c : Chan) : Bool :=
  let r := s.relays[c]
  (r.state == .failedOpen || r.state == .failedClosed) && !(r.origin == .crosspoint && s.survey.lineClosed)

/-- The reset of one failed load relay: it enters RELEASED, and its conditions end, RELAY_NO_OPERATE before RELAY_WELDED (R94, R128; log 97). -/
def State.resetRelay (s : State) (c : Chan) : State :=
  let t := s.setRelay c fun r => { r with state := .released, origin := .none, darkSince := some s.now }
  let t := (t.endCond ⟨.channel c, .relayNoOperate⟩).endCond ⟨.channel c, .relayWelded⟩
  (t.endFailed c).lampProvenOff c

/-- The reset of the failed load relays at entry to START_FLASH (R94): all enter RELEASED, where a green that was proven by its contact ceases to be so (R99), and those whose proof is still closed fail again as uncommanded closures; each in ascending channel number (log 97). -/
def State.resetRelays (s : State) : State :=
  let l := allChans.filter s.resets
  let t := (s.each l fun c t => t.resetRelay c).judgeMonitor
  t.each (l.filter fun c => (s.relays[c]).proof) fun c t => t.uncommanded c

/-! ### The flash bus (R98) -/

/-- Judge the flash bus, and pass a change of the judgement to the lamp prover and the surveyor (R98, R130, R145). -/
def State.judgeFlashBus (s : State) : State :=
  if s.busLive = s.flashBus then s
  else
    let t := State.wantSelection { s with flashBus := s.busLive }
    if s.busLive then t.lampFlashLive.surveyFlash else t

/-! ### The SMC (R96) -/

/-- Change the SMC machine. -/
def State.setSmc (s : State) (f : SupplyRelay → SupplyRelay) : State := { s with smc := f s.smc }

/-- SUPPLY_CUT_FAILED is reported to the fault confirmation unit and to the mode controller (R96). -/
def State.supplyCutFailed (s : State) : State := (s.observe ⟨.supply .smc, .supplyCutFailed⟩).ask .supplyCut

/-- A close command in OPEN: the surveyor is told that the SMC begins to close (R96, R145). -/
def State.smcBeginClose (s : State) : State :=
  let t := s.now + s.work.smc.operate
  let s := s.setSmc fun r => { r with state := .operating, coil := true, held := false, opTimer := some t }
  let s := s.surveySupply
  if s.ftr.proof then s else s.surveyFlash

/-- A close command for the SMC (R96). -/
def State.smcClose (s : State) : State :=
  match s.smc.state with
  | .rest => s.smcBeginClose
  | .releasing => s.setSmc fun r => { r with held := true }
  | .operating | .operated | .failed => s

/-- An open command for the SMC (R96). -/
def State.smcOpen (s : State) : State :=
  match s.smc.state with
  | .operating | .operated =>
    let t := s.now + s.work.smc.release
    s.setSmc fun r => { r with state := .releasing, coil := false, opTimer := none, relTimer := some t }
  | .releasing => s.setSmc fun r => { r with held := false }
  | .rest | .failed => s

/-- The SMC enters OPEN; a held close is taken (R96). The entry is an occasion for a selection, also at the release timer with the proof open already (log 91). -/
def State.smcEnterOpen (s : State) : State :=
  let held := s.smc.held
  let s := s.setSmc fun r => { r with state := .rest, held := false, relTimer := none }
  let s := s.wantSelection
  if held then s.smcBeginClose else s

/-- A supply relay fails: coil de-energized, timers stopped (R96, R97), a held close or to-normal cleared (log 88). -/
def SupplyRelay.fail (r : SupplyRelay) : SupplyRelay :=
  { r with state := .failed, coil := false, held := false, opTimer := none, relTimer := none }

/-- The SMC's proof is accepted closed (R96); a COMMON core's test is abandoned (R145). -/
def State.smcClosed (s : State) : State :=
  let s := (s.setSmc fun r => { r with proof := true }).wantSelection
  let s := match s.smc.state with
    | .rest => (s.setSmc SupplyRelay.fail).supplyCutFailed
    | .operating => s.setSmc fun r => { r with state := .operated, opTimer := none }
    | .operated | .releasing | .failed => s
  s.surveySupply.judgeFlashBus

/-- The SMC's proof is accepted open (R96). -/
def State.smcOpened (s : State) : State :=
  let s := (s.setSmc fun r => { r with proof := false }).wantSelection
  let s := match s.smc.state with
    | .operated => (s.setSmc SupplyRelay.fail).observe ⟨.supply .smc, .relayNoOperate⟩
    | .releasing => s.smcEnterOpen
    | .rest | .operating | .failed => s
  s.judgeFlashBus

/-- The SMC's operate timer expires (R96). -/
def State.smcOperateExpiry (s : State) : State :=
  (s.setSmc SupplyRelay.fail).observe ⟨.supply .smc, .relayNoOperate⟩

/-- The SMC's release timer expires (R96). -/
def State.smcReleaseExpiry (s : State) : State :=
  if s.smc.proof then (s.setSmc SupplyRelay.fail).supplyCutFailed else s.smcEnterOpen

/-- The reset of a FAILED SMC at entry to START_FLASH (R96); RELAY_NO_OPERATE ends first (log 97). -/
def State.resetSmc (s : State) : State :=
  if s.smc.state = .failed then
    let s := s.setSmc fun r => { r with state := .rest, coil := false }
    let s := (s.endCond ⟨.supply .smc, .relayNoOperate⟩).endCond ⟨.supply .smc, .supplyCutFailed⟩
    if s.smc.proof then (s.setSmc SupplyRelay.fail).supplyCutFailed else s
  else s

/-! ### The FTR (R97) -/

/-- Change the FTR machine. -/
def State.setFtr (s : State) (f : SupplyRelay → SupplyRelay) : State := { s with ftr := f s.ftr }

/-- A to-normal command in FLASH (R97). -/
def State.ftrBeginNormal (s : State) : State :=
  let t := s.now + s.work.ftr.operate
  s.setFtr fun r => { r with state := .operating, coil := true, held := false, opTimer := some t }

/-- A to-normal command for the FTR (R97). -/
def State.ftrToNormal (s : State) : State :=
  match s.ftr.state with
  | .rest => s.ftrBeginNormal
  | .releasing => s.setFtr fun r => { r with held := true }
  | .operating | .operated | .failed => s

/-- A to-flash command for the FTR; where it has failed with its proof closed the fallback opens the SMC (R97). -/
def State.ftrToFlash (s : State) : State :=
  match s.ftr.state with
  | .operating | .operated =>
    let t := s.now + s.work.ftr.release
    s.setFtr fun r => { r with state := .releasing, coil := false, opTimer := none, relTimer := some t }
  | .releasing => s.setFtr fun r => { r with held := false }
  | .failed => if s.ftr.proof then s.smcOpen else s
  | .rest => s

/-- The FTR has failed in the NORMAL position: RELAY_WELDED, and the fallback (R97). -/
def State.ftrWelded (s : State) : State :=
  ((s.setFtr SupplyRelay.fail).observe ⟨.supply .ftr, .relayWelded⟩).smcOpen

/-- The FTR enters FLASH; a held to-normal is taken (R97). -/
def State.ftrEnterFlash (s : State) : State :=
  let held := s.ftr.held
  let s := s.setFtr fun r => { r with state := .rest, held := false, relTimer := none }
  if held then s.ftrBeginNormal else s

/-- The FTR's proof is accepted closed (R97). -/
def State.ftrClosed (s : State) : State :=
  let s := s.setFtr fun r => { r with proof := true }
  let s := match s.ftr.state with
    | .rest => s.ftrWelded
    | .operating => s.setFtr fun r => { r with state := .operated, opTimer := none }
    | .operated | .releasing | .failed => s
  s.judgeFlashBus

/-- The FTR's proof is accepted open (R97). -/
def State.ftrOpened (s : State) : State :=
  let s := s.setFtr fun r => { r with proof := false }
  let s := match s.ftr.state with
    | .operated => (s.setFtr SupplyRelay.fail).observe ⟨.supply .ftr, .relayNoOperate⟩
    | .releasing => s.ftrEnterFlash
    | .rest | .operating | .failed => s
  s.judgeFlashBus

/-- The FTR's operate timer expires (R97). -/
def State.ftrOperateExpiry (s : State) : State :=
  (s.setFtr SupplyRelay.fail).observe ⟨.supply .ftr, .relayNoOperate⟩

/-- The FTR's release timer expires (R97). -/
def State.ftrReleaseExpiry (s : State) : State := if s.ftr.proof then s.ftrWelded else s.ftrEnterFlash

/-- The reset of a FAILED FTR at entry to START_FLASH (R97); RELAY_NO_OPERATE ends first (log 97). -/
def State.resetFtr (s : State) : State :=
  if s.ftr.state = .failed then
    let s := s.setFtr fun r => { r with state := .rest, coil := false }
    let s := (s.endCond ⟨.supply .ftr, .relayNoOperate⟩).endCond ⟨.supply .ftr, .relayWelded⟩
    if s.ftr.proof then s.ftrWelded else s
  else s

/-! ### The commands of aspect changes (R5) -/

/-- The commands of a group's net change of aspect, for its used channels. -/
def State.commandGroup (s : State) (g : Group) : State :=
  let old := s.handed[g]
  let new := (s.groups[g]).aspect
  if old = new then s
  else
    let s := { s with handed := s.handed.set g new }
    s.each (List.finRange 3) fun k t =>
      let c := chanOf g k
      if !t.work.used c || old.operates k == new.operates k then t
      else if new.operates k then t.operate c
      else t.release c

/-- The commands of the event's net changes of aspect (R5); an aspect change is an occasion for a selection (R142). -/
def State.commandAspects (s : State) : State :=
  s.each allGroups fun g t => if t.handed[g] = (t.groups[g]).aspect then t else (t.commandGroup g).wantSelection

end Sys2Proof.Machine
end

