-- ==== Sys2Proof/Machine/Modes.lean ====
section
/-! DEFINITION. The mode controller (spec/10): the entry of each mode with its supply commands and aspects, SHUTDOWN, MAINS_OUT, FAILSAFE, and the requests of other blocks. -/

namespace Sys2Proof.Machine

/-! ### What the entry of a mode does (R9, R20, R166) -/

/-- The supply commands of Table 10-2. -/
def State.supplyCommands (s : State) : State :=
  let dark := decide (s.mode.style = .dark)
  let idle := decide (s.work.junction.standbyDisplay = .dark)
  match s.mode.mode with
  | .unconfigured | .mainsOut => s.smcOpen.ftrToFlash
  | .standby => if idle then s.smcOpen.ftrToFlash else s.smcClose.ftrToFlash
  | .startFlash | .partFlash => s.smcClose.ftrToFlash
  | .startRed | .running | .shutdown => s.smcClose.ftrToNormal
  | .failsafe => if dark then s.smcOpen.ftrToFlash else s.smcClose.ftrToFlash

/-- The record of a group in a mode that sets its aspect (R9); leaving GREEN records the last green-off time (R20). -/
def GroupRun.setByMode (r : GroupRun) (a : Aspect) (now : Nat) : GroupRun :=
  { r with aspect := a, pendingGreen := false, amberTimer := none, redAmberTimer := none, greenRelease := none
           redAmberStart := none
           lastGreenOff := if r.aspect = .green then some now else r.lastGreenOff }

/-- The groups as Table 1-5 has them for the mode in force; as they are in RUNNING and SHUTDOWN. -/
def State.groupsByMode (s : State) : Vector GroupRun 16 :=
  mapIx s.groups fun g r =>
    match modeAspect s.mode.mode s.work.junction.standbyDisplay s.mode.style s.work.groups[g].type with
    | some a => r.setByMode a s.now
    | none => r

/-- The aspects of Table 1-5 are set; a change of an aspect is an occasion for a selection (R142). -/
def State.setAspects (s : State) : State :=
  { s with
    groups := s.groupsByMode
    ev := { s.ev with
      select := s.ev.select || decide (s.groupsByMode.map (·.aspect) ≠ s.groups.map (·.aspect)) } }

/-- Entry to START_RED clears the green marks and ends of the sequence engine and of the output monitor (R20, R99). -/
def State.clearGreens (s : State) : State :=
  { s with
    groups := s.groups.map fun (r : GroupRun) => { r with greenMark := false, lastGreenOff := none }
    monitor := s.monitor.map fun (m : MonGroup) => { m with lastEnd := none } }

/-- Whether a LEARN job is not kept at the entry of a mode (R135). -/
def learnEnds (m : Mode) (target : Option Target) : Bool :=
  match m with
  | .standby | .failsafe | .mainsOut | .startFlash => true
  | .shutdown => decide (target ≠ some .partFlash)
  | .unconfigured | .startRed | .running | .partFlash => false

/-- The mode timer at the entry of a mode (Table 10-2). -/
def State.entryTimer (s : State) (m : Mode) : Timer :=
  match m with
  | .startFlash => some (s.now + tenths s.work.junction.startFlash)
  | .startRed => some (s.now + tenths s.work.junction.startRed)
  | _ => none

/-- The MODE_CHANGED notice of a change from an old mode (R166). -/
def State.modeChanged (s : State) (old : Mode) : State :=
  s.notify (.modeChanged old s.mode.mode s.mode.target s.mode.cause
    (if s.mode.mode = .failsafe then some s.mode.style else none))

/-- The reset of all failed relays at entry to START_FLASH, before its supply commands (R94, R96, R97); the output monitor then judges the greens found welded again (R171). -/
def State.resetFailed (s : State) : State := (s.resetRelays.resetSmc.resetFtr).judgeMonitor

/-- The entry of a mode other than SHUTDOWN and RUNNING: supply commands, aspects, notice, and what the other blocks do at it (R9, R43, R94, R135, R166). The shutdown target and its dark mark are cleared (log 61). -/
def State.enterMode (s : State) (m : Mode) : State :=
  let old := s.mode.mode
  let s := if old = .running then s.leaveRunning else s
  let s := { s with mode := { s.mode with
    mode := m, timer := s.entryTimer m, target := none, darkMark := false } }
  let s := if m = .failsafe ∨ m = .mainsOut then s.releaseAll else s
  let s := if m = .startFlash then s.resetFailed else s
  let s := s.supplyCommands.setAspects
  let s := if m = .startRed then s.clearGreens else s
  let s := s.modeChanged old
  let s := if m = .unconfigured ∨ m = .standby ∨ m = .failsafe then s.adoptPending else s
  (if learnEnds m none then s.learnEnd .abandoned else s).mark

/-! ### FAILSAFE (R170) -/

/-- The direct entry of kind FAILSAFE (R170). -/
def State.failsafeEntry (s : State) : State := s.observe ⟨.junction, .failsafe⟩

/-- A request that causes FAILSAFE (R170): nothing in UNCONFIGURED; in FAILSAFE a further direct entry, and the DARK style where the request is JUNCTION_DARK. -/
def State.enterFailsafe (s : State) (cause : Cause) (dark : Bool) : State :=
  if s.mode.mode = .unconfigured then s
  else if s.mode.mode = .failsafe then
    let s := s.failsafeEntry
    if dark && decide (s.mode.style = .flash) then
      (State.setAspects { s with mode := { s.mode with style := .dark } }).smcOpen.mark
    else s
  else
    let dark := dark || decide (s.work.junction.failsafeStyle = .dark)
      || (decide (s.mode.mode = .shutdown) && s.mode.darkMark)
    let s := { s with mode := { s.mode with
      cause := if s.mode.cause = Cause.none then cause else s.mode.cause
      style := if dark then Display.dark else .flash } }
    (s.enterMode .failsafe).failsafeEntry

/-! ### START_FLASH, SHUTDOWN and MAINS_OUT (R167 to R169) -/

/-- Entry to START_FLASH (R167); with the response-active mark set FAILSAFE is entered instead. -/
def State.enterStartFlash (s : State) : State :=
  if s.mode.responseActive then s.enterFailsafe .faultResponse false
  else s.enterMode .startFlash

/-- Entry to SHUTDOWN with a target (R62, R168). -/
def State.enterShutdown (s : State) (target : Target) (dark : Bool) : State :=
  let old := s.mode.mode
  let s := s.leaveRunning.endGreens
  let s := { s with mode := { s.mode with
    mode := .shutdown, timer := none, target := some target, darkMark := dark } }
  let s := s.supplyCommands.modeChanged old
  (if learnEnds .shutdown (some target) then s.learnEnd .abandoned else s).mark

/-- In SHUTDOWN the mode timer starts in the first event in which no group is in AMBER (R168). -/
def State.startEndRed (s : State) : State :=
  if s.mode.mode = .shutdown && s.mode.timer.isNone && !s.groups.toList.any (·.aspect = .amber) then
    { s with mode := { s.mode with timer := some (s.now + tenths s.work.junction.endRed) } }
  else s

/-- The target of a SHUTDOWN becomes FAILSAFE: the cause is recorded, and the dark mark set for a JUNCTION_DARK request (R168). A LEARN job is kept until the target is entered (log 58). -/
def State.targetFailsafe (s : State) (dark : Bool) : State :=
  { s with mode := { s.mode with
    target := some .failsafe, darkMark := s.mode.darkMark || dark
    cause := if s.mode.cause = Cause.none then .faultResponse else s.mode.cause } }

/-- Entry to RUNNING from START_RED (R61, R167). -/
def State.goRunning (s : State) : State :=
  let old := s.mode.mode
  let s := { s with mode := { s.mode with mode := .running, timer := none, target := none, darkMark := false } }
  ((s.supplyCommands.modeChanged old).enterRunning).mark

/-- The end-red expiry (R168): the target is entered, or START_RED where the flashing that asked for it is over. -/
def State.endRedExpiry (s : State) : State :=
  match s.mode.target with
  | some .standby => s.enterMode .standby
  | some .failsafe => s.enterFailsafe .faultResponse false
  | some .partFlash | none =>
    if s.engine.source = .linkOverride ∨ (s.clock.valid = true ∧ s.engine.tableAction ≠ .flash) then
      s.enterMode .startRed
    else s.enterMode .partFlash

/-- Entry to mains LOSS (R169). -/
def State.modeLoss (s : State) : State :=
  let out (s : State) (r : ReturnMode) : State :=
    State.enterMode { s with mode := { s.mode with returnMode := r } } .mainsOut
  match s.mode.mode, s.mode.target with
  | .shutdown, some .failsafe => s.enterFailsafe .faultResponse false
  | .shutdown, some .standby => out s .standby
  | .shutdown, _ | .startFlash, _ | .startRed, _ | .running, _ | .partFlash, _ => out s .startFlash
  | .unconfigured, _ | .standby, _ | .mainsOut, _ | .failsafe, _ => s

/-- The change from LOSS to NORMAL (R169). -/
def State.modeReturn (s : State) : State :=
  if s.mode.mode = .mainsOut then
    match s.mode.returnMode with
    | .startFlash => s.enterStartFlash
    | .standby => s.enterMode .standby
  else s

/-- The start-flash expiry (R167). -/
def State.startFlashExpiry (s : State) : State :=
  if s.smc.state = .operated then s.enterMode .startRed else s.enterFailsafe .supplyNotReady false

/-- The start-red expiry (R167). -/
def State.startRedExpiry (s : State) : State :=
  if s.smc.state = .operated ∧ s.ftr.state = .operated then s.goRunning else s.enterFailsafe .supplyNotReady false

/-! ### Requests of other blocks (R62, R70, R102, R162, R168, R170) -/

/-- A junction request of the fault confirmation unit (R162, R168, R170). -/
def State.junctionRequest (s : State) (dark immediate : Bool) : State :=
  if immediate then s.enterFailsafe .faultResponse dark
  else
    match s.mode.mode with
    | .unconfigured | .standby => s
    | .startFlash | .startRed | .partFlash | .mainsOut | .failsafe => s.enterFailsafe .faultResponse dark
    | .running =>
      let c := if s.mode.cause = .none then Cause.faultResponse else s.mode.cause
      State.enterShutdown { s with mode := { s.mode with cause := c } } .failsafe dark
    | .shutdown => s.targetFailsafe dark

/-- One request to the mode controller. -/
def State.modeRequest (s : State) (r : ModeReq) : State :=
  match r with
  | .trip => s.enterFailsafe .outputMonitor false
  | .supplyCut => s.enterFailsafe .supplyCutFailed false
  | .junction dark immediate => s.junctionRequest dark immediate
  | .flash => if s.mode.mode = .running then s.enterShutdown .partFlash false else s
  | .planRequest => if s.mode.mode = .partFlash then s.enterMode .startRed else s

/-- The requests that have reached the mode controller, in the order in which they came. -/
def State.modeWork (s : State) : State :=
  let l := s.ev.modeReqs
  State.each { s with ev := { s.ev with modeReqs := [] } } l fun r t => t.modeRequest r

end Sys2Proof.Machine
end

