-- ==== Sys2Proof/Machine/Cascade.lean ====
section
/-! DEFINITION. What the blocks make of one event together, after the block that received it has acted: the mode controller and the sequence engine settle, the net aspect changes are commanded (R5), the output monitor judges, a selection is made where an occasion arose (R142), and the event closes. -/

namespace Sys2Proof.Machine

/-- The mode controller and the sequence engine act until neither has work left in the event; then the stages that left force follow (R80). The bound is never reached by a run (log 17). -/
def State.settle : Nat → State → State
  | 0, s => s
  | fuel + 1, s =>
    if s.ev.dirty then
      State.settle fuel (State.engineWork (State.startEndRed (State.modeWork { s with ev := { s.ev with dirty := false } })))
    else if s.ev.leftForce.isEmpty then s
    else State.settle fuel (s.passLeftForce.mark)

/-- The mode controller and the sequence engine settle, and the output monitor and the lamp prover's failed lit periods judge what they have come to (R100, R123), until none has work left in the event. -/
def State.judged : Nat → State → State
  | 0, s => s
  | fuel + 1, s =>
    let t := ((s.settle 200).judgeMonitor)
    if t.ev.dirty then State.judged fuel t
    else
      let t := t.judgeFailed
      if t.ev.dirty then State.judged fuel t else t

/-- One pass over the blocks: the judgements of the event, the commands of its net aspect changes (R5), and what these leave of the output monitor's evidence. -/
def State.round (s : State) : State := ((s.judged 8).commandAspects).judgeMonitor

/-- Passes until no block has work left. -/
def State.rounds : Nat → State → State
  | 0, s => s
  | fuel + 1, s =>
    let t := s.round
    if t.ev.dirty then State.rounds fuel t else t

/-- Whether something the surveyor makes its selections by has changed in the event: an aspect, a pending-green flag, the SMC's proof, the flash bus, the engine's state (R142). A change undone within the event asks for the selection where it is made. -/
def State.selectionCause (s t : State) : Bool :=
  decide (s.groups.map (fun r => (r.aspect, r.pendingGreen)) ≠ t.groups.map (fun r => (r.aspect, r.pendingGreen)))
    || decide (s.smc.proof ≠ t.smc.proof) || decide (s.flashBus ≠ t.flashBus)
    || decide (s.engine.state ≠ t.engine.state)

/-- The selections of an event: one, and a second where the first ended a pass and a held start began the next. -/
def State.selections : Nat → State → State
  | 0, s => s
  | fuel + 1, s =>
    if s.ev.select then State.selections fuel (State.selection { s with ev := { s.ev with select := false } }) else s

/-- What the blocks make of an event, from the state before it and the state in which its own block has acted, up to its close. -/
def State.spread (before after : State) : State :=
  let t := after.mark.rounds 8
  let t := if before.selectionCause t then t.wantSelection else t
  t.selections 3

/-- An event, from the state before it and the state in which its own block has acted, to its end. -/
def State.cascade (before after : State) : State := (before.spread after).close

end Sys2Proof.Machine
end

