-- ==== Sys2Proof/Machine/Layouts.lean ====
section
/-! DEFINITION. Free values about byte layouts, constants without a body as in Config.lean; they stand here because their arguments are parts of the state. -/

namespace Sys2Proof

/-- What a payload field holds that is a name and not a number: a value of one of the named sets of the spec, a flag, or a word such as NONE, ALL or the name of an item. -/
inductive Machine.Named where
  | word (w : String)
  | flag (b : Bool)
  | groupType (x : GroupType)
  | lampType (x : LampType)
  | supply (x : Supply)
  | response (x : Response)
  | display (x : Display)
  | detKind (x : DetKind)
  | callMode (x : CallMode)
  | planKind (x : PlanKind)
  | copySource (x : CopySource)
  | planCopy (x : PlanCopy)
  | timing (x : Timing)
  | configCopy (x : ConfigCopy)
  | statusPart (x : StatusPart)
  | lineRate (x : LineRate)
  | writeStep (x : WriteStep)
  | aspect (x : Machine.Aspect)
  | engineState (x : Machine.EngineState)
  | planSource (x : Machine.PlanSource)
  | changeOrigin (x : Machine.ChangeOrigin)
  | detState (x : Machine.DetState)
  | relayState (x : Machine.RelayState)
  | failureOrigin (x : Machine.FailureOrigin)
  | smcState (x : Machine.SupplyState)
  | ftrState (x : Machine.SupplyState)
  | convRange (x : Machine.ConvRange)
  | convState (x : Machine.ConvState)
  | requester (x : Machine.Requester)
  | mainsState (x : Machine.MainsState)
  | readingKind (x : Machine.ReadingKind)
  | litPeriod (x : Machine.LitPeriod)
  | level (x : Machine.Level)
  | passMark (x : Machine.PassMark)
  | testState (x : Machine.TestState)
  | image (x : Machine.ImageKind)
  | kind (x : Machine.Kind)
  | severity (x : Machine.Severity)
  | tag (x : Machine.ConfTag)
  | mode (x : Machine.Mode)
  | cause (x : Machine.Cause)
  | target (x : Machine.Target)
  | returnMode (x : Machine.ReturnMode)
  | bringUp (x : Machine.BringUp)
  | jobKind (x : Machine.JobKind)
  | planCause (x : Machine.PlanCause)
  | todReason (x : Machine.TodReason)
  | learnState (x : Machine.LearnState)
  deriving DecidableEq, Repr

/-- The widths in bytes of the three header fields of an image: kind, generation, content length. FREE VALUE (log 11): the spec names the fields of the header and gives no widths (R183). -/
opaque Config.headerWidths : Fin 8 × Fin 8 × Fin 8

/-- The bytes of the content of an image. FREE VALUE (log 11): the spec lists what a content holds and gives no layout (R183). -/
opaque Config.contentLayout : Machine.ImageContent → List Byte

/-- The number by which a payload field holds a name. FREE VALUE (log 10): the spec numbers requests, statuses and notices (R174) and no other name. -/
opaque Config.nameCode : Machine.Named → Nat

/-- Whether the set in a field of a label stands in a payload as the numbers of its members, and not as one flag for each number it may hold. FREE VALUE (log 10). -/
opaque Config.setsListed (label : String) : Bool

/-- Where the fields of a request of a code and a form stand in a payload of so many bytes: for each field in the order in which its rule names them, its first bit, counted from the most significant bit of the first byte, and its width in bits, or none where the payload does not carry it; none in all where the fields need another length. FREE VALUE (log 10): the spec names the fields and gives no widths and no order (R174). -/
opaque Config.requestPlaces (code : Nat) (form : String) (len : Nat) : Option (List (Option (Nat × Nat)))

/-- The order in which the fields of a sent payload stand in it. FREE VALUE (log 10). -/
opaque Config.fieldOrder (form : String) (labels : List String) : Equiv.Perm (Fin labels.length)

/-- The width in bits that a field of a sent payload has. FREE VALUE (log 10). -/
opaque Config.fieldWidth (form : String) (labels : List String) : Fin labels.length → Nat

end Sys2Proof
end

