-- ==== Sys2Proof/Machine/Images.lean ====
section
/-! DEFINITION. The stored images (R183, R184): the blocks of the non-volatile store, the header, the CRC-32, the image a write leaves, and what a valid image gives at a start. -/

namespace Sys2Proof.Machine

/-! ### Bytes -/

/-- A number as so many bytes, most significant byte first. -/
def bigEndian : Nat → Nat → List Byte
  | 0, _ => []
  | n + 1, x => BitVec.ofNat 8 (x / 256 ^ n) :: bigEndian n x

/-- One bit of the CRC-32 with polynomial 04C11DB7 hex. -/
def crc32Bit (c : BitVec 32) : BitVec 32 := if c.msb then (c <<< 1) ^^^ 0x04C11DB7#32 else c <<< 1

/-- One byte of the CRC-32, most significant bit first. -/
def crc32Byte (c : BitVec 32) (b : Byte) : BitVec 32 :=
  let c := c ^^^ (b.zeroExtend 32 <<< 24)
  crc32Bit (crc32Bit (crc32Bit (crc32Bit (crc32Bit (crc32Bit (crc32Bit (crc32Bit c)))))))

/-- The CRC-32 of a list of bytes: initial value FFFFFFFF hex, the final value inverted (R183). -/
def crc32 (l : List Byte) : BitVec 32 := ~~~ l.foldl crc32Byte 0xFFFFFFFF#32

/-! ### Blocks and headers (R183) -/

/-- The first block of an image and how many it occupies, of the store's 16 (R183). -/
def ImageKind.span : ImageKind → Nat × Nat
  | .config => (0, 4)
  | .plans => (4, 8)
  | .survey => (12, 4)

/-- Bytes of the blocks of an image, of 4 KiB each (R183). -/
def ImageKind.capacity (k : ImageKind) : Nat := 4096 * k.span.2

/-- The image kind as the header holds it (R183). -/
def ImageKind.code : ImageKind → Nat
  | .config => 1
  | .plans => 2
  | .survey => 3

/-- The header of an image: its kind, its generation and the content length in bytes (R183). The widths of the three fields are free (log 11). -/
def imageHeader (kind generation length : Nat) : List Byte :=
  let w := Config.headerWidths
  bigEndian w.1.val kind ++ bigEndian w.2.1.val generation ++ bigEndian w.2.2.val length

/-- The bytes an image takes beside its content: the header and the CRC-32. -/
def imageOverhead : Nat := (imageHeader 0 0 0).length + 4

/-- The bytes of the content of an image, which fit its blocks (R183). The layout of the content is free (log 11). -/
def contentBytes (k : ImageKind) (x : ImageContent) : List Byte :=
  (Config.contentLayout x).take (k.capacity - imageOverhead)

/-- The CRC-32 of an image, over header and content (R183). -/
def Stored.check (x : Stored) (k : ImageKind) : BitVec 32 :=
  crc32 (imageHeader x.kind x.generation x.length ++ contentBytes k x.content)

/-- The image that a write leaves in its blocks (R183). -/
def Stored.form (k : ImageKind) (generation : Nat) (x : ImageContent) : Stored :=
  let length := (contentBytes k x).length
  ⟨k.code, generation, length, x, crc32 (imageHeader k.code generation length ++ contentBytes k x)⟩

/-- Whether the blocks of an image hold a valid one: its kind matches the blocks, its length fits them, and its CRC-32 matches (R184). -/
def Stored.valid (x : Stored) (k : ImageKind) : Bool :=
  decide (x.kind = k.code) && decide (imageOverhead + x.length ≤ k.capacity) && decide (x.crc = x.check k)

/-! ### What a start reads (R172, R184) -/

/-- The valid image in the blocks of an image; none where the store does not answer (R172, R184). -/
def readImage (answers : Bool) (k : ImageKind) (x : Option Stored) : Option Stored :=
  if answers then x.filter (·.valid k) else none

/-- The held generation and validity after a read (R184). -/
def markOf (x : Option Stored) : ImageMark :=
  match x with
  | some i => ⟨i.generation, true⟩
  | none => ⟨0, false⟩

/-- The content of a valid CONFIG image. -/
def configOf (x : Option Stored) : Option ConfigImage :=
  match (x.map Stored.content : Option ImageContent) with
  | some (.config c) => some c
  | _ => none

/-- The content of a valid PLANS image. -/
def plansOf (x : Option Stored) : Option PlanSet :=
  match (x.map Stored.content : Option ImageContent) with
  | some (.plans p) => some p
  | _ => none

/-- The content of a valid SURVEY image. -/
def surveyOf (x : Option Stored) : Option SurveyImage :=
  match (x.map Stored.content : Option ImageContent) with
  | some (.survey v) => some v
  | _ => none

end Sys2Proof.Machine
end

