-- ==== Sys2Proof/Machine/Payloads.lean ====
section
/-! DEFINITION. The payloads of the frames sent: the fields that the rules name for each reply and notice, with their values, and the bytes they go out in, most significant first (R174). The values are the rules'; the order and the widths of the fields and the codes of names are free (log 10). -/

namespace Sys2Proof.Machine

/-! ### Numbers as bits and bytes (R174) -/

/-- A number as so many bits, most significant first. -/
def msbBits : Nat → Nat → List Bool
  | 0, _ => []
  | n + 1, x => x.testBit n :: msbBits n x

/-- The number that bits spell, most significant first. -/
def bitsNat (l : List Bool) : Nat := l.foldl (fun a b => 2 * a + b.toNat) 0

/-- Bits as whole bytes, filled up with zeros behind the last. -/
def packBits (l : List Bool) : List Byte :=
  let n := (l.length + 7) / 8
  bigEndian n (bitsNat l * 2 ^ (8 * n - l.length))

/-- The bits of a payload. -/
def payloadBits (l : List Byte) : List Bool := l.flatMap fun b => msbBits 8 b.toNat

/-- The number in so many bits of a payload from a bit on; none where they do not lie in it. -/
def readBits (payload : List Byte) (first width : Nat) : Option Nat :=
  if first + width ≤ 8 * payload.length then some (bitsNat (((payloadBits payload).drop first).take width)) else none

/-! ### Fields -/

/-- A field of a payload: a number, in the unit of spec/00 Table I-2 (a time of a running timer and a time on the millisecond count in ms, R1), or a name. -/
inductive Field where
  | number (n : Nat)
  | name (x : Named)
  deriving DecidableEq, Repr

/-- The number that stands for a field in a payload. -/
def Field.value : Field → Nat
  | .number n => n
  | .name x => Config.nameCode x

/-- Fields in the order in which the rules name them, each under a label of its own kind. -/
abbrev Fields := List (String × Field)

/-- A field that holds a number. -/
def num (label : String) (n : Nat) : Fields := [(label, .number n)]

/-- A field that holds a name. -/
def named (label : String) (x : Named) : Fields := [(label, .name x)]

/-- A field that holds a word. -/
def word (label w : String) : Fields := named label (.word w)

/-- A flag. -/
def flag (label : String) (b : Bool) : Fields := named label (.flag b)

/-- A field that holds a number or the word NONE. -/
def numOr (label : String) : Option Nat → Fields
  | some n => num label n
  | none => word label "NONE"

/-- A field that holds a name or the word NONE. -/
def namedOr {α : Type} (label : String) (f : α → Named) : Option α → Fields
  | some x => named label (f x)
  | none => word label "NONE"

/-- Fields that are carried only where there is something to carry. -/
def carried {α : Type} (x : Option α) (f : α → Fields) : Fields :=
  match x with
  | some a => f a
  | none => []

/-- A set of numbers from 1: the numbers of its members, or a flag for each number it may hold (log 10). -/
def setOf (label : String) {n : Nat} (v : Vector Bool n) : Fields :=
  if Config.setsListed label then
    (List.finRange n).flatMap fun i => if v[i] then num label (i.val + 1) else []
  else v.toList.flatMap (flag label)

/-- A list of indices as numbers from 1. -/
def numbers (label : String) {n : Nat} (l : List (Fin n)) : Fields := l.flatMap fun i => num label (i.val + 1)

/-! ### The fields of the parts of the state that replies and notices show -/

/-- Table 1-1, configuration part. -/
def GroupCfg.fields (c : GroupCfg) : Fields :=
  named "type" (.groupType c.type) ++ num "amber time" c.amber ++ num "red-amber time" c.redAmber
    ++ num "red lamps" c.lampsRed ++ num "amber lamps" c.lampsAmber ++ num "green lamps" c.lampsGreen
    ++ num "minimum red lamps" c.rmin

/-- The running part of a group (R23). -/
def GroupView.fields (v : GroupView) : Fields :=
  named "aspect" (.aspect v.aspect) ++ flag "CONFLICT_RED_OUT" v.conflictRedOut ++ flag "HOLD" v.hold
    ++ flag "GREEN_UNAVAILABLE" v.greenUnavailable ++ flag "pending green" v.pendingGreen
    ++ numOr "amber timer" v.amber ++ numOr "red-amber timer" v.redAmber ++ numOr "green-release time" v.greenRelease
    ++ numOr "last green-off time" v.lastGreenOff ++ flag "green since START_RED" v.greenMark

/-- Operate and release limit (Table 5-1). -/
def Limits.fields (l : Limits) : Fields := num "operate limit" l.operate ++ num "release limit" l.release

/-- A dark leak threshold: a value, or TYPE_DEFAULT (R116). -/
def leakField : LeakThreshold → Fields
  | .milliamps x => num "dark leak threshold" x
  | .typeDefault => word "dark leak threshold" "TYPE_DEFAULT"

/-- The configuration part of a channel (Tables 5-1 and 7-1). -/
def ChannelCfg.fields (c : ChannelCfg) : Fields :=
  named "lamp type" (.lampType c.lamp) ++ num "nominal current" c.nominal ++ num "reference current" c.iref
    ++ flag "learned" c.learned ++ leakField c.leak ++ c.limits.fields

/-- A role with the channel of a LOAD role (Table 8-1). -/
def Role.fields : Role → Fields
  | .load c => word "role" "LOAD" ++ num "channel" (c.val + 1)
  | .common => word "role" "COMMON"
  | .spare => word "role" "SPARE"
  | .unused => word "role" "UNUSED"

/-- The configuration part of a core (Table 8-1). -/
def CoreCfg.fields (c : CoreCfg) : Fields := num "cable" c.cable ++ num "core number" c.number ++ c.role.fields

/-- The settings of a detector (Table 4-1). -/
def DetCfg.fields (c : DetCfg) : Fields :=
  named "kind" (.detKind c.kind) ++ setOf "demand set" c.demands ++ numOr "extend stage" (c.extend.map (·.val + 1))
    ++ num "debounce" c.debounce ++ num "stuck-on limit" c.stuckOn ++ num "quiet limit" c.quiet

/-- The survey and fault parts of the thresholds (R139, R157). -/
def Thresholds.fields (t : Thresholds) : Fields :=
  num "warn threshold" t.warn ++ num "low threshold" t.low ++ num "pass interval" t.hours
    ++ num "lamp confirmation count" t.lampK ++ num "cable confirmation count" t.cableK ++ num "hold time" t.holdMin

/-- A stage record (Table 2-2). -/
def StageRecord.fields (r : StageRecord) : Fields :=
  numOr "stage" (r.stage.map (·.val + 1)) ++ named "call mode" (.callMode r.mode) ++ num "minimum green" r.min
    ++ num "maximum green" r.max ++ num "gap" r.gap

/-- An entry of the plan directory, or ABSENT (Table 2-3). -/
def entryFields : Option PlanEntry → Fields
  | none => word "entry" "ABSENT"
  | some e => flag "valid" e.valid ++ named "kind" (.planKind e.kind) ++ num "tag" e.tag ++ num "first position" e.first
      ++ num "record count" e.count ++ num "start index" e.start

/-- A plan reference (Section 2.7). -/
def refFields (r : PlanRef) : Fields := num "plan" r.plan ++ num "tag" r.tag

/-- A whole copy of the plan set (Table 2-1). -/
def PlanSet.fields (p : PlanSet) : Fields :=
  (p.stages.toList.flatMap fun d => setOf "groups" d.groups) ++ num "pool length" p.pool.length
    ++ p.pool.flatMap StageRecord.fields ++ p.dir.toList.flatMap entryFields

/-- A resolved plan with its records and the group sets of their stages (R36, R45); the group set of a stage goes with each record that names it (log 10). The reference from which the engine has resolved it is no part of it. -/
def ResolvedPlan.fields (p : ResolvedPlan) : Fields :=
  num "plan number" p.number ++ num "entry tag" p.tag ++ named "kind" (.planKind p.kind) ++ num "start index" p.start
    ++ p.records.flatMap fun r =>
      num "stage" (r.stage.val + 1) ++ named "call mode" (.callMode r.mode) ++ num "minimum green" r.min
        ++ num "maximum green" r.max ++ num "gap" r.gap ++ setOf "groups" r.groups

/-- The relay part of a READ_CHANNEL (R103). -/
def RelayView.fields (v : RelayView) : Fields :=
  named "relay state" (.relayState v.state) ++ named "failure origin" (.failureOrigin v.origin) ++ flag "coil" v.coil
    ++ flag "proof" v.proof ++ flag "held operate" v.held ++ numOr "crosspoint wait timer" v.wait
    ++ numOr "operate timer" v.operate ++ numOr "release timer" v.release ++ num "aspect generation" v.gen.toNat
    ++ numOr "dark-since time" v.darkSince ++ v.limits.fields

/-- A last reading (Table 7-1). -/
def Reading.fields (r : Reading) : Fields :=
  named "reading kind" (.readingKind r.kind) ++ num "current" r.current ++ flag "OVERRANGE" r.overrange
    ++ num "reading time" r.time

/-- The lamp part of a READ_CHANNEL (R136). -/
def LampView.fields (v : LampView) : Fields :=
  flag "used" v.used ++ num "lamps" v.lamps ++ carried v.rmin (num "minimum red lamps") ++ named "lamp type" (.lampType v.lamp)
    ++ num "nominal current" v.nominal ++ num "reference current" v.iref ++ flag "learned" v.learned
    ++ named "learn state" (.learnState v.learnState) ++ num "applied leak threshold" v.leak
    ++ flag "TYPE_DEFAULT" v.typeDefault ++ num "lamps lit" v.lampsLit
    ++ (match v.last with
      | some r => r.fields
      | none => word "last reading" "NONE")
    ++ named "lit period" (.litPeriod v.lit) ++ numOr "settle timer" v.settle ++ numOr "repeat timer" v.repeatTimer
    ++ numOr "dark timer" v.dark ++ flag "flash discard" v.discard ++ num "lit clearing count" v.litCount
    ++ num "dark clearing count" v.darkCount
    ++ carried v.learning fun (set, periods) =>
      set.flatMap (num "learning current") ++ num "learning lit periods" periods

/-- What a READ_CHANNEL naming SMC or FTR shows, after the state of the relay (R103). -/
def SupplyView.fields (v : SupplyView) : Fields :=
  flag "coil" v.coil ++ flag "proof" v.proof ++ flag "held operate" v.held ++ numOr "operate timer" v.operate
    ++ numOr "release timer" v.release ++ v.limits.fields

/-- The state of a supply relay, by the names of its own table (R96, R97). -/
def supplyState (r : Supply) (x : SupplyState) : Fields :=
  match r with
  | .smc => named "SMC" (.smcState x)
  | .ftr => named "FTR" (.ftrState x)

/-- The survey part of a core record (Table 8-1). -/
def CoreSurvey.fields (h : CoreSurvey) : Fields :=
  numOr "smoothed value" h.smoothed ++ numOr "worst reading" h.worst
    ++ (h.recent.flatMap fun (r, p) => num "recent reading" r ++ num "recent pass" p)
    ++ named "level" (.level h.level) ++ num "untested passes" h.untested

/-- The WORKING reply of a READ_CORE (R152). -/
def CoreView.fields (v : CoreView) : Fields :=
  v.cfg.fields ++ v.hist.fields ++ named "pass mark" (.passMark v.mark) ++ num "abandons" v.abandons
    ++ named "test state" (.testState v.test) ++ numOr "charge timer" v.charge ++ numOr "release timer" v.release
    ++ namedOr "range" .convRange v.range

/-- The reply of a READ_DETECTOR (R86). -/
def DetView.fields (v : DetView) : Fields :=
  v.cfg.fields ++ flag "raw input" v.raw ++ flag "accepted input" v.accepted ++ named "detector state" (.detState v.state)
    ++ numOr "debounce timer" v.debounce ++ numOr "stuck-on timer" v.stuckFor ++ numOr "quiet timer" v.quietFor
    ++ num "activation count" v.count ++ carried v.occupied (flag "occupied")

/-- A source: its class and, but for JUNCTION, its number or name (Section 9.1). -/
def Source.fields : Source → Fields
  | .group g => word "class" "GROUP" ++ num "number" (g.val + 1)
  | .channel c => word "class" "CHANNEL" ++ num "number" (c.val + 1)
  | .core k => word "class" "CORE" ++ num "number" (k.val + 1)
  | .detector d => word "class" "DETECTOR" ++ num "number" (d.val + 1)
  | .plan n => word "class" "PLAN" ++ num "number" n
  | .supply r => word "class" "SUPPLY" ++ named "number" (.supply r)
  | .image i => word "class" "IMAGE" ++ named "number" (.image i)
  | .junction => word "class" "JUNCTION"

/-- A condition: source and kind (R154). -/
def Cond.fields (k : Cond) : Fields := k.source.fields ++ named "kind" (.kind k.kind)

/-- A calendar time, or none (R163). -/
def calFields (label : String) : Option CalTime → Fields
  | none => word label "NONE"
  | some t => num label t.weekday ++ num label t.hour ++ num label t.minute ++ num label t.second

/-- An alarm record (R163). -/
def Alarm.fields (a : Alarm) : Fields :=
  a.key.fields ++ named "severity" (.severity a.severity) ++ named "tag" (.tag a.tag) ++ calFields "first time" a.first
    ++ calFields "last time" a.last ++ num "occurrences" a.count ++ flag "ACTIVE" a.active

/-- A suspicion record (R164). -/
def SuspicionView.fields (v : SuspicionView) : Fields :=
  v.key.fields ++ num "level" v.level ++ num "count" v.count ++ num "start time" v.start ++ numOr "hold timer" v.hold

/-- The MODE part of READ_STATUS (R178). -/
def ModeView.fields (v : ModeView) : Fields :=
  named "mode" (.mode v.mode) ++ named "cause" (.cause v.cause) ++ named "style" (.display v.style)
    ++ namedOr "target" .target v.target ++ named "return mode" (.returnMode v.returnMode) ++ numOr "mode timer" v.timer
    ++ named "bring-up code" (.bringUp v.bringUp) ++ flag "response active" v.responseActive

/-- A plan by number, tag and kind, or none (R66, R72). -/
def planFields : Option PlanName → Fields
  | none => word "plan" "NONE"
  | some p => num "plan" p.number ++ num "tag" p.tag ++ named "kind" (.planKind p.kind)

/-- The action of a time-of-day entry (R68). -/
def todActionFields : TodAction → Fields
  | .plan ref => word "action" "PLAN" ++ refFields ref
  | .flash => word "action" "FLASH"
  | .base => word "action" "BASE"

/-- A time-of-day entry (R68). -/
def TodEntry.fields (e : TodEntry) : Fields :=
  setOf "days" e.days ++ num "hour" e.hour ++ num "minute" e.minute ++ todActionFields e.action

/-- The SEQUENCE part of READ_STATUS (R72). -/
def SequenceView.fields (v : SequenceView) : Fields :=
  named "engine state" (.engineState v.state) ++ planFields v.plan ++ numOr "record" v.record ++ numOr "stage" v.stage
    ++ numOr "previous stage" v.prevStage ++ setOf "gaining groups" v.gaining ++ numOr "green timer" v.green
    ++ numOr "maximum timer" v.maximum ++ numOr "gap timer" v.gap ++ flag "gapped" v.gapped
    ++ setOf "demand set" v.demands ++ named "plan source" (.planSource v.source)
    ++ (match v.override with
      | some r => refFields r
      | none => word "override" "NONE")
    ++ (match v.tableResult with
      | some e => e.fields
      | none => word "table result" "BASE")
    ++ (match v.change with
      | some c => refFields c.ref ++ named "timing" (.timing c.timing) ++ named "origin" (.changeOrigin c.origin)
      | none => word "pending change" "NONE")
    ++ calFields "clock" (some v.clock) ++ flag "clock valid" v.clockValid

/-- The OUTPUT part of READ_STATUS (R103). -/
def OutputView.fields (v : OutputView) : Fields :=
  supplyState .smc v.smc ++ flag "SMC proof" v.smcProof ++ supplyState .ftr v.ftr ++ flag "FTR proof" v.ftrProof
    ++ flag "flash bus live" v.flashBus
    ++ (v.groups.toList.flatMap fun (p, e) => flag "proven-green" p ++ numOr "last proven-green end" e)
    ++ num "conflict-lockout count" v.lockouts

/-- The subject of a measurement request (Table 6-2). -/
def Subject.fields : Subject → Fields
  | .lit c => word "request" "LIT" ++ num "channel" (c.val + 1)
  | .dark c => word "request" "DARK" ++ num "channel" (c.val + 1)
  | .leak k => word "request" "LEAK" ++ num "core" (k.val + 1)

/-- The MEASUREMENT part of READ_STATUS (R115). -/
def MeasView.fields (v : MeasView) : Fields :=
  named "converter state" (.convState v.conv) ++ namedOr "range" .convRange v.range ++ namedOr "requester" .requester v.requester
    ++ (match v.current with
      | some x => x.fields
      | none => word "request" "NONE")
    ++ flag "dip" v.dip ++ num "lamp requests queued" v.lampQueued
    ++ (match v.leakQueued with
      | some (k, r) => num "LEAK core" (k.val + 1) ++ named "LEAK range" (.convRange r)
      | none => word "LEAK core" "NONE")
    ++ num "reference count" v.refCount.toNat ++ named "mains state" (.mainsState v.mains)
    ++ numOr "loss timer" v.lossTimer ++ numOr "return timer" v.returnTimer ++ num "level" v.level
    ++ num "dips" v.dips ++ num "losses" v.losses

/-- The SURVEY part of READ_STATUS (R152). -/
def SurveyView.fields (v : SurveyView) : Fields :=
  flag "active" v.active ++ flag "FULL" v.full ++ num "pass number" v.passNo ++ numOr "window timer" v.window
    ++ numOr "interval timer" v.interval ++ numOr "eligibility timer" v.eligibility ++ numOr "charge timer" v.charge
    ++ numOr "release timer" v.release ++ flag "start held" v.startHeld ++ flag "halted" v.halted
    ++ numOr "core under test" (v.underTest.map (·.val + 1)) ++ numOr "core waiting" (v.waiting.map (·.val + 1))
    ++ num "warn threshold" v.warn ++ num "low threshold" v.low ++ num "pass interval" v.hours

/-- The LINK part of READ_STATUS (R178). -/
def LinkView.fields (v : LinkView) : Fields :=
  num "requests queued" v.queued ++ num "TAGs busy" v.busy ++ num "notices queued" v.notices ++ flag "lost" v.lost
    ++ (v.jobs.flatMap fun (n, k) => num "job number" n ++ named "job kind" (.jobKind k)) ++ num "next job number" v.nextJob

/-- Generation and validity of an image (R184). -/
def ImageMark.fields (m : ImageMark) : Fields := num "generation" m.generation ++ flag "valid" m.valid

/-- The STORE part of READ_STATUS (R178). -/
def StoreView.fields (v : StoreView) : Fields :=
  v.config.fields ++ v.plans.fields ++ v.survey.fields ++ (v.queue.flatMap fun i => named "store request" (.image i))
    ++ (match v.writing with
      | some (i, w) => named "image written" (.image i) ++ named "write step" (.writeStep w)
      | none => word "image written" "NONE")

/-- What a READ_PLAN DIRECTORY returns (R45). -/
def DirectoryView.fields (v : DirectoryView) : Fields :=
  v.dir.toList.flatMap entryFields ++ num "pool length" v.poolLength ++ carried v.usable (flag "usable")
    ++ carried v.pending (flag "set pending")

/-- An intergreen entry: a time or NONE (R10). -/
def igFields (label : String) (v : Vector (Option Nat) 16) : Fields := v.toList.flatMap (numOr label)

/-- The result of a job with the items that its rule names. -/
def JobResult.fields : JobResult → Fields
  | .ok => word "result" "OK"
  | .storeFailed => word "result" "STORE_FAILED"
  | .timeLimit => word "result" "TIME_LIMIT"
  | .cancelled => word "result" "CANCELLED"
  | .abandoned => word "result" "ABANDONED"
  | .halted => word "result" "HALTED"
  | .noGroups => word "result" "NO_GROUPS"
  | .igSelf i => word "result" "IG_SELF" ++ numbers "group" [i]
  | .igAsymmetric i j => word "result" "IG_ASYMMETRIC" ++ numbers "group" [i, j]
  | .igUnusedGroup i j => word "result" "IG_UNUSED_GROUP" ++ numbers "group" [i, j]
  | .igBelowAmber i j => word "result" "IG_BELOW_AMBER" ++ numbers "group" [i, j]
  | .coreDuplicate k l => word "result" "CORE_DUPLICATE" ++ numbers "core" [k, l]
  | .coreChannelUnused k c => word "result" "CORE_CHANNEL_UNUSED" ++ numbers "core" [k] ++ numbers "channel" [c]
  | .stageUnusedGroup st g => word "result" "STAGE_UNUSED_GROUP" ++ numbers "stage" [st] ++ numbers "group" [g]
  | .stageConflict st i j => word "result" "STAGE_CONFLICT" ++ numbers "stage" [st] ++ numbers "group" [i, j]
  | .baseAbsent => word "result" "BASE_ABSENT"
  | .baseInvalid => word "result" "BASE_INVALID"
  | .entryBounds p => word "result" "ENTRY_BOUNDS" ++ numbers "plan" [p]
  | .fixedGreenShort p n => word "result" "FIXED_GREEN_SHORT" ++ numbers "plan" [p] ++ num "position" n
  | .stageUndefined p n => word "result" "STAGE_UNDEFINED" ++ numbers "plan" [p] ++ num "position" n

/-- The items of a JOB_DONE notice (R134, R150). -/
def JobItems.fields : JobItems → Fields
  | .none => []
  | .unlearned l => numbers "UNLEARNED channel" l
  | .tally a b c => num "tested" a ++ num "abandoned" b ++ num "untested" c

/-! ### Payloads -/

/-- A payload to be sent: its form, which with the labels of its fields settles their layout, and its fields. -/
structure Payload where
  form   : String
  fields : Fields
  deriving DecidableEq, Repr

/-- The payload of a reply: the fields that the rule of its request names. -/
def ReplyBody.payload : ReplyBody → Payload
  | .empty => ⟨"empty", []⟩
  | .jobNumber n => ⟨"job", num "job number" n⟩
  | .identity device issue rate mode config plans survey => ⟨"identity",
      word "device code" device ++ num "frame format issue" issue ++ named "line rate" (.lineRate rate)
        ++ named "mode" (.mode mode) ++ config.fields ++ plans.fields ++ survey.fields⟩
  | .group c => ⟨"group", c.fields⟩
  | .groupCopy c row column run => ⟨"group copy",
      c.fields ++ igFields "row" row ++ igFields "column" column ++ carried run GroupView.fields⟩
  | .channel c => ⟨"channel", c.fields⟩
  | .supply l => ⟨"supply", l.fields⟩
  | .core c => ⟨"core", c.fields⟩
  | .detector c => ⟨"detector", c.fields⟩
  | .thresholds leak t => ⟨"thresholds", carried leak leakField ++ t.fields⟩
  | .stageItem st gs => ⟨"stage item", num "stage" (st.val + 1) ++ setOf "groups" gs⟩
  | .recordItem n r => ⟨"record item", num "position" n ++ r.fields⟩
  | .poolLength n => ⟨"pool length item", num "pool length" n⟩
  | .entryItem p e => ⟨"entry item", num "plan" (p.val + 1) ++ entryFields e⟩
  | .planSet p => ⟨"plan set", p.fields⟩
  | .copyAbsent => ⟨"copy absent", word "copy" "ABSENT"⟩
  | .resolved p => ⟨"resolved plan", p.fields⟩
  | .translationFault k => ⟨"translation fault", named "kind" (.kind k)⟩
  | .directory d => ⟨"directory", d.fields⟩
  | .stageView gs void => ⟨"stage", setOf "groups" gs ++ carried void (flag "void")⟩
  | .recordView r => ⟨"record", r.fields⟩
  | .todRefused r => ⟨"time-of-day refusal", named "reason" (.todReason r)⟩
  | .demandSet d => ⟨"demand set", setOf "demand set" d⟩
  | .readChannel relay lamp => ⟨"channel reading", relay.fields ++ lamp.fields⟩
  | .readSupply r v => ⟨"supply reading", supplyState r v.state ++ v.fields⟩
  | .readCore v => ⟨"core reading", v.fields⟩
  | .readDetector v => ⟨"detector reading", v.fields⟩
  | .alarms l held full => ⟨"alarms", l.flatMap Alarm.fields ++ num "records held" held ++ flag "list full" full⟩
  | .removed n => ⟨"removed", num "records removed" n⟩
  | .modeStatus v => ⟨"MODE", v.fields⟩
  | .sequenceStatus v => ⟨"SEQUENCE", v.fields⟩
  | .outputStatus v => ⟨"OUTPUT", v.fields⟩
  | .measStatus v => ⟨"MEASUREMENT", v.fields⟩
  | .surveyStatus v => ⟨"SURVEY", v.fields⟩
  | .faultStatus l gs active => ⟨"FAULT",
      l.flatMap SuspicionView.fields
        ++ (gs.toList.flatMap fun (p, r) => num "pattern" p ++ named "response" (.response r))
        ++ flag "response active" active⟩
  | .linkStatus v => ⟨"LINK", v.fields⟩
  | .storeStatus v => ⟨"STORE", v.fields⟩

/-- The fields of a notice, given in the rules that queue it (R66, R163, R164, R166, R173, R180). -/
def Notice.fields : Notice → Fields
  | .started code mode config plans survey restart clockValid =>
    named "bring-up code" (.bringUp code) ++ named "mode" (.mode mode) ++ flag "CONFIG valid" config
      ++ flag "PLANS valid" plans ++ flag "SURVEY valid" survey ++ flag "RESTART" restart ++ flag "clock valid" clockValid
  | .modeChanged old new target cause style =>
    named "old mode" (.mode old) ++ named "new mode" (.mode new) ++ carried target (fun t => named "target" (.target t))
      ++ named "cause" (.cause cause) ++ carried style fun d => named "style" (.display d)
  | .planChanged plan source cause generation =>
    planFields plan ++ named "plan source" (.planSource source) ++ named "cause" (.planCause cause)
      ++ carried generation (num "generation")
  | .alarmRaised key severity tag time count held =>
    key.fields ++ named "severity" (.severity severity) ++ named "tag" (.tag tag) ++ calFields "time" time
      ++ carried count (num "occurrences") ++ flag "record held" held
  | .alarmCleared key time => key.fields ++ calFields "time" time
  | .jobDone number kind result items =>
    num "job number" number ++ named "job kind" (.jobKind kind) ++ result.fields ++ items.fields

/-- The payload of a notice with the lost field it takes with it (R181). -/
def Notice.payload (n : Notice) (lost : Bool) : Payload :=
  match n with
  | .started .. => ⟨"STARTED", n.fields ++ flag "lost" lost⟩
  | .modeChanged .. => ⟨"MODE_CHANGED", n.fields ++ flag "lost" lost⟩
  | .planChanged .. => ⟨"PLAN_CHANGED", n.fields ++ flag "lost" lost⟩
  | .alarmRaised .. => ⟨"ALARM_RAISED", n.fields ++ flag "lost" lost⟩
  | .alarmCleared .. => ⟨"ALARM_CLEARED", n.fields ++ flag "lost" lost⟩
  | .jobDone .. => ⟨"JOB_DONE", n.fields ++ flag "lost" lost⟩

/-- The labels of a payload's fields. -/
def Payload.labels (p : Payload) : List String := p.fields.map (·.1)

/-- The fields of a payload as they are laid out: the width in bits and the value of each, in the order in which they stand. Order and widths are free; a width is never less than the value needs (log 10). -/
def Payload.laidOut (p : Payload) : List (Nat × Nat) :=
  let order := Config.fieldOrder p.form p.labels
  let width := Config.fieldWidth p.form p.labels
  (List.finRange p.labels.length).map fun i =>
    let x := (p.fields[(order i).val]?.map (·.2.value)).getD 0
    (max (width (order i)) x.size, x)

/-- The bytes of a payload: each field most significant bit first, at most 240 bytes in all (R174). -/
def Payload.bytes (p : Payload) : List Byte := (packBits (p.laidOut.flatMap fun (w, x) => msbBits w x)).take 240

end Sys2Proof.Machine
end

