-- ==== Sys2Proof/Machine/RequestFields.lean ====
section
/-! DEFINITION. The requests with fields, read from the payloads of their frames: each field is the number that its bits spell, most significant first (R174), and names the value whose code it is. Where the fields stand and the codes of names are free (log 10). -/

namespace Sys2Proof.Machine

/-! ### Fields of a received payload -/

/-- Every place of a list read from a payload; none where one of them does not lie in it. -/
def readPlaces (payload : List Byte) : List (Option (Nat × Nat)) → Option (List (Option Nat))
  | [] => some []
  | none :: l => (readPlaces payload l).map (none :: ·)
  | some (first, width) :: l =>
    match readBits payload first width, readPlaces payload l with
    | some x, some xs => some (some x :: xs)
    | _, _ => none

/-- The fields of a form of a request, carried or not; empty where the payload is not as long as they need (R177). -/
def readForm (code : Nat) (form : String) (payload : List Byte) : List (Option Nat) :=
  match Config.requestPlaces code form payload.length with
  | none => []
  | some places => (readPlaces payload places).getD []

/-- The fields of a form, by its name, as they are read from one payload. -/
abbrev FormReader := String → List (Option Nat)

/-- Fields of which all must be carried; empty where one is not. -/
def needed (l : List (Option Nat)) : List Nat := if l.all (·.isSome) then l.filterMap id else []

/-- Whether a field holds a name. -/
def isName (x : Named) (v : Nat) : Bool := decide (Config.nameCode x = v)

/-- Whether a field holds a word. -/
def isWord (w : String) (v : Nat) : Bool := isName (.word w) v

/-- The value among several that a field names. -/
def nameIn {α : Type} (values : List α) (f : α → Named) (v : Nat) : Option α := values.find? fun x => isName (f x) v

/-- The flag that a field holds. -/
def flagIn (v : Nat) : Option Bool := nameIn [true, false] .flag v

/-- A number, or none for the word NONE. -/
def numIn (v : Nat) : Option Nat := if isWord "NONE" v then none else some v

/-- The set of numbers 1 to n in the fields of a label: the numbers of its members, or a flag for each number (log 10). -/
def setIn (label : String) (n : Nat) (l : List Nat) : Option (Vector Bool n) :=
  if Config.setsListed label then
    if l.all (within 1 n) then some (Vector.ofFn fun i => decide (i.val + 1 ∈ l)) else none
  else if l.length = n ∧ l.all (fun v => (flagIn v).isSome) then
    some (Vector.ofFn fun i => decide ((l[i.val]?).bind flagIn = some true))
  else none

/-! ### The named values of the request fields -/

/-- The two displays or styles. -/
def displayIn : Nat → Option Display := nameIn [.dark, .flash] .display

/-- The two supply relays. -/
def supplyIn : Nat → Option Supply := nameIn [.smc, .ftr] .supply

/-- The two copies of the configuration. -/
def copyIn : Nat → Option ConfigCopy := nameIn [.working, .edit] .configCopy

/-- The parts of READ_STATUS; another name is none of them (R178). -/
def partIn (v : Nat) : StatusPart :=
  (nameIn [.mode, .sequence, .output, .measurement, .survey, .fault, .link, .store] .statusPart v).getD .other

/-! ### The requests -/

/-- SET_GROUP (R2). -/
def readSetGroup (tag : Byte) (read : FormReader) : Option Instr :=
  match needed (read "") with
  | [g, type, amber, redAmber, red, am, green, rmin] =>
    some (.setGroup tag g
      ⟨nameIn [.vehicle, .pedestrian, .arrow, .unused] .groupType type, amber, redAmber, red, am, green, rmin⟩)
  | _ => none

/-- SET_INTERGREEN (R10). -/
def readSetIntergreen (tag : Byte) (read : FormReader) : Option Instr :=
  match needed (read "") with
  | [i, j, v] => some (.setIntergreen tag i j (numIn v))
  | _ => none

/-- SET_CHANNEL naming a channel or a supply relay (R87, R117). -/
def readSetChannel (tag : Byte) (read : FormReader) : Option Instr :=
  match needed (read "") with
  | [c] =>
    match supplyIn c with
    | some r =>
      match needed (read "SUPPLY") with
      | [op, rel] => some (.setChannelSupply tag r op rel)
      | _ => none
    | none =>
      match needed (read "CHANNEL") with
      | [lamp, nominal, op, rel] =>
        some (.setChannel tag c ⟨nameIn [.incandescent, .led] .lampType lamp, nominal, op, rel⟩)
      | _ => none
  | _ => none

/-- SET_CORE (R138). -/
def readSetCore (tag : Byte) (read : FormReader) : Option Instr :=
  match needed (read "") with
  | [k, cable, number, role] =>
    if isWord "LOAD" role then
      match needed (read "LOAD") with
      | [c] => some (.setCore tag k cable number (.load c))
      | _ => none
    else
      some (.setCore tag k cable number
        (if isWord "COMMON" role then .common else if isWord "SPARE" role then .spare
         else if isWord "UNUSED" role then .unused else .other))
  | _ => none

/-- SET_RESPONSE naming a pattern or JUNCTION (R161, R165). -/
def readSetResponse (tag : Byte) (read : FormReader) : Option Instr :=
  match needed (read "") with
  | [n] =>
    if isWord "JUNCTION" n then
      match needed (read "JUNCTION") with
      | [standby, style, auto, flash, red, endRed] =>
        some (.setResponseJunction tag ⟨displayIn standby, displayIn style, flagIn auto, flash, red, endRed⟩)
      | _ => none
    else
      match needed (read "PATTERN") with
      | [r, imm] =>
        (flagIn imm).map fun b =>
          .setResponse tag n (nameIn [.none, .report, .holdGroup, .junctionFlash, .junctionDark] .response r) b
      | _ => none
  | _ => none

/-- SET_DETECTOR: the five single settings, and behind them the demand set (R74). -/
def readSetDetector (tag : Byte) (read : FormReader) : Option Instr :=
  match needed (read "") with
  | d :: kind :: extend :: debounce :: stuckOn :: quiet :: demands =>
    let settings (l : List Nat) : Instr :=
      .setDetector tag d ⟨nameIn [.presence, .push, .disabled] .detKind kind, l, numIn extend, debounce, stuckOn, quiet⟩
    if Config.setsListed "demand set" then some (settings demands)
    else (setIn "demand set" 16 demands).map fun v =>
      settings ((List.finRange 16).filterMap fun i => if v[i] then some (i.val + 1) else none)
  | _ => none

/-- SET_THRESHOLDS: each of its values may be left out, the channel and the leak threshold together (R118, R139, R157). -/
def readSetThresholds (tag : Byte) (read : FormReader) : Option Instr :=
  match read "" with
  | [channel, leak, warn, low, hours, lampK, cableK, holdMin] =>
    let fields (l : Option (ChannelSel × LeakThreshold)) : Instr :=
      .setThresholds tag ⟨l, warn, low, hours, lampK, cableK, holdMin⟩
    match channel, leak with
    | none, none => some (fields none)
    | some c, some x =>
      some (fields (some (if isWord "ALL" c then .all else .one c,
        if isWord "TYPE_DEFAULT" x then .typeDefault else .milliamps x)))
    | _, _ => none
  | _ => none

/-- PLAN_WRITE: one of five items; none of another kind (R30 to R34). -/
def readPlanWrite (tag : Byte) (read : FormReader) : Option Instr :=
  match needed (read "") with
  | [item] =>
    if isWord "STAGE" item then
      match needed (read "STAGE") with
      | st :: groups => (setIn "groups" 16 groups).map (.planWriteStage tag st)
      | _ => none
    else if isWord "RECORD" item then
      match needed (read "RECORD") with
      | [n, st, mode, min, max, gap] =>
        some (.planWriteRecord tag n ⟨st, nameIn [.always, .onDemand] .callMode mode, min, max, gap⟩)
      | _ => none
    else if isWord "POOL_LENGTH" item then
      match needed (read "POOL_LENGTH") with
      | [n] => some (.planWritePoolLength tag n)
      | _ => none
    else if isWord "ENTRY" item then
      match needed (read "ENTRY") with
      | [n, entry] =>
        if isWord "ABSENT" entry then some (.planWriteEntry tag n none)
        else
          match needed (read "PRESENT") with
          | [valid, kind, t, first, count, start] =>
            (flagIn valid).map fun b => .planWriteEntry tag n
              (some ⟨b, nameIn [.fixed, .actuated] .planKind kind, t, first, count, start⟩)
          | _ => none
      | _ => none
    else if isWord "COPY" item then
      match needed (read "COPY") with
      | [source] => some (.planWriteCopy tag (nameIn [.inUse, .pending, .empty] .copySource source))
      | _ => none
    else none
  | _ => none

/-- READ_PLAN (R45). -/
def readReadPlan (tag : Byte) (read : FormReader) : Option Instr :=
  match needed (read "") with
  | [copy, item] =>
    let c := nameIn [.inUse, .pending, .staging] .planCopy copy
    if isWord "PLAN" item then
      match needed (read "PLAN") with
      | [n, t] => some (.readPlan tag c (.plan ⟨n, t⟩))
      | _ => none
    else if isWord "DIRECTORY" item then some (.readPlan tag c .directory)
    else if isWord "STAGE" item then
      match needed (read "STAGE") with
      | [n] => some (.readPlan tag c (.stage n))
      | _ => none
    else if isWord "RECORD" item then
      match needed (read "RECORD") with
      | [n] => some (.readPlan tag c (.record n))
      | _ => none
    else some (.readPlan tag c .other)
  | _ => none

/-- TOD_WRITE: hour, minute and action, and behind them the day mask; a mask that holds none of its values goes on to the check of R68, which refuses it as a field out of range. -/
def readTodWrite (tag : Byte) (read : FormReader) : Option Instr :=
  match needed (read "") with
  | hour :: minute :: action :: days =>
    let d : Option DaySet := setIn "days" 7 days
    if isWord "PLAN" action then
      match needed (read "PLAN") with
      | [n, t] => some (.todWrite tag d hour minute (some (.plan ⟨n, t⟩)))
      | _ => none
    else
      some (.todWrite tag d hour minute
        (if isWord "FLASH" action then some .flash else if isWord "BASE" action then some .base else none))
  | _ => none

/-- TOD_DELETE: the word ALL, or hour, minute and day mask (R68). -/
def readTodDelete (tag : Byte) (read : FormReader) : Option Instr :=
  match needed (read "") with
  | [target] =>
    if isWord "ALL" target then some (.todDelete tag .all)
    else
      match needed (read "ENTRY") with
      | hour :: minute :: days => (setIn "days" 7 days).map fun d => .todDelete tag (.entry d hour minute)
      | _ => none
  | _ => none

/-- SET_CLOCK (R71). -/
def readSetClock (tag : Byte) (read : FormReader) : Option Instr :=
  match needed (read "") with
  | [weekday, hour, minute, second] => some (.setClock tag weekday hour minute second)
  | _ => none

/-- SELECT_PLAN (R63). -/
def readSelectPlan (tag : Byte) (read : FormReader) : Option Instr :=
  match needed (read "") with
  | [n, t, timing] => some (.selectPlan tag ⟨n, t⟩ (nameIn [.boundary, .prompt] .timing timing))
  | _ => none

/-- READ_GROUP (R23). -/
def readReadGroup (tag : Byte) (read : FormReader) : Option Instr :=
  match needed (read "") with
  | [g, copy] => some (.readGroup tag g (copyIn copy))
  | _ => none

/-- READ_CHANNEL naming a channel or a supply relay (R103, R136). -/
def readReadChannel (tag : Byte) (read : FormReader) : Option Instr :=
  match needed (read "") with
  | [c] => some (.readChannel tag ((supplyIn c).elim (.channel c) .supply))
  | _ => none

/-- READ_CORE; the copy may be left out (R152, log 21). -/
def readReadCore (tag : Byte) (read : FormReader) : Option Instr :=
  match read "" with
  | [some k, copy] => some (.readCore tag k (copy.map copyIn))
  | _ => none

/-- READ_DETECTOR, which may carry a count-clear mark (R86). -/
def readReadDetector (tag : Byte) (read : FormReader) : Option Instr :=
  match read "" with
  | [some d, none] => some (.readDetector tag d false)
  | [some d, some clear] => (flagIn clear).map (.readDetector tag d)
  | _ => none

/-- READ_STATUS; a page is carried for the FAULT part (R178). -/
def readReadStatus (tag : Byte) (read : FormReader) : Option Instr :=
  match needed (read "") with
  | [part] =>
    match partIn part with
    | .fault =>
      match needed (read "FAULT") with
      | [n] => some (.readStatus tag .fault n)
      | _ => none
    | x => some (.readStatus tag x 0)
  | _ => none

/-- A request of one number. -/
def readOne (read : FormReader) (f : Nat → Instr) : Option Instr :=
  match needed (read "") with
  | [n] => some (f n)
  | _ => none

/-- The request with fields that a payload holds, from its code and its fields; none where the payload is not as long as the fields need, where a PLAN_WRITE item is of no known kind, or where a flag or a set holds none of its values: all three are answered REFUSED_VALUE (R30, R177). A DEMAND holds stage numbers alone, and one without any is refused for that (R85). -/
def requestOf (tag : Byte) (read : FormReader) : Nat → Option Instr
  | 2 => readSetGroup tag read
  | 3 => readSetIntergreen tag read
  | 4 => readSetChannel tag read
  | 5 => readSetCore tag read
  | 6 => readSetResponse tag read
  | 8 => readSetDetector tag read
  | 9 => readSetThresholds tag read
  | 10 => readPlanWrite tag read
  | 12 => readReadPlan tag read
  | 13 => readTodWrite tag read
  | 14 => readTodDelete tag read
  | 15 => readSetClock tag read
  | 19 => readSelectPlan tag read
  | 21 => some (.demand tag (needed (read "")))
  | 24 => readOne read (.cancelJob tag)
  | 25 => readReadGroup tag read
  | 26 => readReadChannel tag read
  | 27 => readReadCore tag read
  | 28 => readReadDetector tag read
  | 29 => readOne read (.readAlarms tag)
  | 30 => readReadStatus tag read
  | _ => none

/-- The request with fields that a payload holds under a code. -/
def requestFields (tag : Byte) (payload : List Byte) (code : Nat) : Option Instr :=
  requestOf tag (fun form => readForm code form payload) code

end Sys2Proof.Machine
end

