-- ==== Sys2Proof/Machine/Link.lean ====
section
/-! DEFINITION. The message link (spec/11): CRC-16, the frame, the receiver, the reception of a request, the reply slot, and the request a frame carries. -/

namespace Sys2Proof.Machine

/-! ### CRC-16 and the frame (R174) -/

/-- One bit of the CRC-16 with polynomial 1021 hex. -/
def crcBit (c : BitVec 16) : BitVec 16 := if c.msb then (c <<< 1) ^^^ 0x1021#16 else c <<< 1

/-- One byte of the CRC-16, most significant bit first. -/
def crcByte (c : BitVec 16) (b : Byte) : BitVec 16 :=
  let c := c ^^^ (b.zeroExtend 16 <<< 8)
  crcBit (crcBit (crcBit (crcBit (crcBit (crcBit (crcBit (crcBit c)))))))

/-- The CRC-16 of a list of bytes: initial value FFFF hex, no final inversion (R174). -/
def crc16 (l : List Byte) : BitVec 16 := l.foldl crcByte 0xFFFF#16

/-- The SYNC byte. -/
def sync : Byte := 0xA5#8

/-- The bytes of a frame from LEN to the last PAYLOAD byte (Table 11-1). -/
def frameBody (kind tag code : Byte) (payload : List Byte) : List Byte :=
  BitVec.ofNat 8 payload.length :: kind :: tag :: code :: payload

/-- The two bytes of a CRC, most significant first. -/
def crcBytes (c : BitVec 16) : List Byte := [c.extractLsb' 8 8, c.extractLsb' 0 8]

/-- The bytes of a frame (Table 11-1). -/
def encodeFrame (kind tag code : Byte) (payload : List Byte) : List Byte :=
  let body := frameBody kind tag code payload
  sync :: (body ++ crcBytes (crc16 body))

/-! ### The codes of replies and notices (R174) -/

/-- The code of a reply status, numbered from 0 (R174). -/
def statusCode : Status → Nat
  | .ok => 0
  | .inProgress => 1
  | .refusedMode => 2
  | .refusedValue => 3
  | .refusedBusy => 4
  | .unknownRequest => 5
  | .linkBusy => 6

/-- The code of a notice kind, numbered from 1 (R174). -/
def noticeCode : Notice → Nat
  | .started .. => 1
  | .modeChanged .. => 2
  | .planChanged .. => 3
  | .alarmRaised .. => 4
  | .alarmCleared .. => 5
  | .jobDone .. => 6

/-- KIND, TAG and CODE of a frame in transmission (Table 11-1); a busy answer is a reply with status LINK_BUSY (R176). -/
def TxFrame.header : TxFrame → Nat × Byte × Nat
  | .busy t => (2, t, statusCode .linkBusy)
  | .reply r => (2, r.tag, statusCode r.status)
  | .notice n _ => (3, 0, noticeCode n)

/-- The payload of a frame in transmission (R174); a busy answer carries none (R176). -/
def TxFrame.payload : TxFrame → List Byte
  | .busy _ => []
  | .reply r => r.body.payload.bytes
  | .notice n lost => (n.payload lost).bytes

/-- The bytes of a frame as the transmitter sends them, from SYNC to CRC (R174). -/
def TxFrame.bytes (f : TxFrame) : List Byte :=
  let (kind, tag, code) := f.header
  encodeFrame (BitVec.ofNat 8 kind) tag (BitVec.ofNat 8 code) f.payload

/-! ### Requests (Table 11-2) -/

/-- The request code of a request command; 0 for an event (R174, Table 11-2). -/
def requestCode : Instr → Nat
  | .identify _ => 1
  | .setGroup .. => 2
  | .setIntergreen .. => 3
  | .setChannel .. | .setChannelSupply .. => 4
  | .setCore .. => 5
  | .setResponse .. | .setResponseJunction .. => 6
  | .commitConfig _ => 7
  | .setDetector .. => 8
  | .setThresholds .. => 9
  | .planWriteStage .. | .planWriteRecord .. | .planWritePoolLength .. | .planWriteEntry .. | .planWriteCopy .. => 10
  | .commitPlans _ => 11
  | .readPlan .. => 12
  | .todWrite .. => 13
  | .todDelete .. => 14
  | .setClock .. => 15
  | .start _ => 16
  | .stop _ => 17
  | .resume _ => 18
  | .selectPlan .. => 19
  | .clearOverride _ => 20
  | .demand .. => 21
  | .learn _ => 22
  | .surveyNow _ => 23
  | .cancelJob .. => 24
  | .readGroup .. => 25
  | .readChannel .. => 26
  | .readCore .. => 27
  | .readDetector .. => 28
  | .readAlarms .. => 29
  | .readStatus .. => 30
  | .ackAlarms _ => 31
  | .restart _ => 32
  | _ => 0

/-- The TAG of a request command; 0 for an event. -/
def requestTag : Instr → Byte
  | .identify t | .setGroup t .. | .setIntergreen t .. | .setChannel t .. | .setChannelSupply t .. | .setCore t ..
  | .setResponse t .. | .setResponseJunction t .. | .commitConfig t | .setDetector t .. | .setThresholds t ..
  | .planWriteStage t .. | .planWriteRecord t .. | .planWritePoolLength t .. | .planWriteEntry t ..
  | .planWriteCopy t .. | .commitPlans t | .readPlan t .. | .todWrite t .. | .todDelete t .. | .setClock t ..
  | .start t | .stop t | .resume t | .selectPlan t .. | .clearOverride t | .demand t .. | .learn t | .surveyNow t
  | .cancelJob t .. | .readGroup t .. | .readChannel t .. | .readCore t .. | .readDetector t .. | .readAlarms t ..
  | .readStatus t .. | .ackAlarms t | .restart t => t
  | _ => 0

/-- The request of a code that carries no field. -/
def plainRequest (tag : Byte) : Nat → Option Instr
  | 1 => some (.identify tag)
  | 7 => some (.commitConfig tag)
  | 11 => some (.commitPlans tag)
  | 16 => some (.start tag)
  | 17 => some (.stop tag)
  | 18 => some (.resume tag)
  | 20 => some (.clearOverride tag)
  | 22 => some (.learn tag)
  | 23 => some (.surveyNow tag)
  | 31 => some (.ackAlarms tag)
  | 32 => some (.restart tag)
  | _ => none

/-- The request a received frame carries, or the status that refuses it: UNKNOWN_REQUEST for a code that names none, REFUSED_VALUE for a payload of another length than its fields need (R177) and for a PLAN_WRITE item of a kind outside the five (R30). -/
def frameRequest (tag code : Byte) (payload : List Byte) : Except Status Instr :=
  let n := code.toNat
  if n = 0 ∨ 32 < n then .error .unknownRequest
  else
    match plainRequest tag n with
    | some i => if payload.isEmpty then .ok i else .error .refusedValue
    | none =>
      match requestFields tag payload n with
      | some i => .ok i
      | none => .error .refusedValue

/-- The TAG of a received request. -/
def Received.tag : Received → Byte
  | .frame t _ _ => t
  | .command i => requestTag i

/-- The request that a received request stands for, or the status that refuses it. -/
def Received.request : Received → Except Status Instr
  | .frame t c p => frameRequest t c p
  | .command i => .ok i

/-! ### Reception (R175, R176) -/

/-- Whether the link controller listens: from the start event to the taking of a RESTART request (R172, R175). -/
def State.listening (s : State) : Bool := decide (s.power.phase = .running) && !s.link.restarting

/-- A request is received: it joins the input queue, or its TAG the busy list, or it is discarded (R176). -/
def State.receive (s : State) (r : Received) : State :=
  if s.link.queue.length < 4 then { s with link := { s.link with queue := s.link.queue ++ [r] } }
  else if s.link.busy.length < 4 then { s with link := { s.link with busy := s.link.busy ++ [r.tag] } }
  else s

/-- What a byte makes of the frame being collected: the frame goes on, is discarded, or is whole with its KIND, TAG, CODE and payload. -/
inductive Collect where
  | more (l : List Byte)
  | discard
  | whole (kind tag code : Byte) (payload : List Byte)
  deriving DecidableEq, Repr

/-- The frame collected so far, after SYNC, with one more byte (R175). -/
def collect (l : List Byte) : Collect :=
  match l with
  | [] => .more l
  | len :: rest =>
    let n := len.toNat
    if 240 < n then .discard
    else if l.length < n + 6 then .more l
    else
      match rest with
      | kind :: tag :: code :: more =>
        if more.drop n = crcBytes (crc16 (l.take (n + 4))) then .whole kind tag code (more.take n) else .discard
      | _ => .discard

/-- A character reaches the receiver (R175); the answer holds the frame it completes. -/
def Link.character (k : Link) (now : Nat) (b : Byte) (framingError : Bool) : Link × Option Received :=
  if framingError then ({ k with rx := none, rxTimer := none }, none)
  else
    match k.rx with
    | none =>
      if b = sync then ({ k with rx := some [], rxTimer := some (now + 21) }, none) else (k, none)
    | some l =>
      match collect (l ++ [b]) with
      | .more x => ({ k with rx := some x, rxTimer := some (now + 21) }, none)
      | .discard => ({ k with rx := none, rxTimer := none }, none)
      | .whole kind tag code payload =>
        ({ k with rx := none, rxTimer := none },
          if kind = 1 then some (.frame tag code payload) else none)

/-! ### Replies (R176) -/

/-- What a request taken makes: the state after its effect, and the status and fields of its reply. -/
abbrev Answer := State × Status × ReplyBody

/-- A request refused changes no state (R177). -/
def State.refuse (s : State) (st : Status) : Answer := (s, st, .empty)

/-- A request answered OK. -/
def State.ok (s : State) (b : ReplyBody) : Answer := (s, .ok, b)

/-- Place a formed reply in the reply slot (R176). -/
def State.putReply (s : State) (r : Reply) : State := { s with link := { s.link with slot := some r } }

/-- A request is taken: its effect, its reply in the slot, and the end of the event (R176). -/
def State.serve (s : State) (tag : Byte) (act : State → Answer) (restarts : Bool) : State :=
  let (t, st, b) := act s
  (t.putReply ⟨tag, st, b, restarts⟩).close

/-- A request arrives whole: taken at once where the queue and the slot are empty, else received as R176 gives; discarded while the link does not listen (log 13). -/
def State.arrive (s : State) (i : Instr) (act : State → Answer) (restarts : Bool) : State :=
  if !s.listening then s
  else if s.link.queue.isEmpty && s.link.slot.isNone then s.serve (requestTag i) act restarts
  else (s.receive (.command i)).close

end Sys2Proof.Machine
end

