-- ==== Sys2Proof/Machine/Operands.lean ====
section
/-! DEFINITION. The operands of the requests: the checks by which a field is refused, the clamps by which it is applied, and the records they give. -/

namespace Sys2Proof.Machine

/-! ### Configuration (R2, R87, R117, R138, R161, R165) -/

/-- The lamp count stored for a channel of a type: 0 where the type does not use it (R2). -/
def storedLamps (t : GroupType) (colour : Fin 3) (n : Nat) : Nat := if typeUses t colour then n else 0

/-- Check 4 of R2 on one channel of a group. -/
def lampsOk (t : GroupType) (colour : Fin 3) (n : Nat) : Bool := !typeUses t colour || within 1 4 n

/-- The checks of a SET_GROUP on its fields, and the record as stored (R2). -/
def checkGroup (f : GroupFields) : Option GroupCfg :=
  match f.type with
  | none => none
  | some t =>
    if within 30 50 f.amber && within 0 30 f.redAmber
        && lampsOk t 0 f.lampsRed && lampsOk t 1 f.lampsAmber && lampsOk t 2 f.lampsGreen
        && (!typeUses t 0 || within 1 f.lampsRed f.rmin) then
      some ⟨t, f.amber, f.redAmber, storedLamps t 0 f.lampsRed, storedLamps t 1 f.lampsAmber,
        storedLamps t 2 f.lampsGreen, if typeUses t 0 then f.rmin else 1⟩
    else none

/-- Whether an intergreen value may be written: NONE, or 1.0 to 30.0 s (R10). -/
def intergreenOk (v : Option Nat) : Bool := v.all (within 10 300)

/-- Operate and release limits: 10 to 200 ms each (R87). -/
def checkLimits (operate release : Nat) : Option Limits :=
  if within 10 200 operate && within 10 200 release then some ⟨operate, release⟩ else none

/-- The record a SET_CHANNEL leaves in the edit copy: a changed lamp type or nominal current sets Iref to the nominal current and clears the learned mark (R117). -/
def ChannelCfg.written (c : ChannelCfg) (lamp : LampType) (nominal : Nat) (l : Limits) : ChannelCfg :=
  if lamp = c.lamp ∧ nominal = c.nominal then { c with limits := l }
  else { c with lamp := lamp, nominal := nominal, iref := nominal, learned := false, limits := l }

/-- The checks of a SET_CHANNEL on its fields (R87, R117). -/
def checkChannel (f : ChannelFields) (old : ChannelCfg) : Option ChannelCfg :=
  match f.lamp, checkLimits f.operateLimit f.releaseLimit with
  | some t, some l => if within 20 3000 f.nominal then some (old.written t f.nominal l) else none
  | _, _ => none

/-- The role a SET_CORE carries (R138). -/
def checkRole : RoleField → Option Role
  | .load c => (index? 48 c).map Role.load
  | .common => some .common
  | .spare => some .spare
  | .unused => some .unused
  | .other => none

/-- The checks of a SET_CORE on its fields (R138). -/
def checkCore (cable number : Nat) (role : RoleField) : Option CoreCfg :=
  if within 1 8 cable && within 1 16 number then (checkRole role).map fun r => ⟨cable, number, r⟩ else none

/-- The checks of a SET_RESPONSE that names a pattern (R161). -/
def checkResponse (pattern : Nat) (r : Option Response) (immediate : Bool) : Option (Fin 32 × RespEntry) :=
  match r with
  | none => none
  | some x =>
    if h : pattern < 32 then
      if pattern = 0 ∧ x ≠ .none then none else some (⟨pattern, h⟩, ⟨x, immediate⟩)
    else none

/-- The checks of a SET_RESPONSE that names JUNCTION (R165, Table 10-1). -/
def checkJunction (f : JunctionFields) : Option JunctionCfg :=
  match f.standbyDisplay, f.failsafeStyle, f.autoStart with
  | some d, some y, some a =>
    if within 50 600 f.startFlash && within 30 100 f.startRed && within 20 100 f.endRed then
      some ⟨d, y, a, f.startFlash, f.startRed, f.endRed⟩
    else none
  | _, _, _ => none

/-! ### Tunable settings (R74, R118, R139, R157) -/

/-- A list of stage numbers as a set; none where a number lies outside 1 to 16. -/
def stageSetOf : List Nat → Option StageSet
  | [] => some (.replicate 16 false)
  | n :: ns =>
    match index? 16 n, stageSetOf ns with
    | some i, some d => some (d.set i true)
    | _, _ => none

/-- The extend stage a SET_DETECTOR carries: none, or a number 1 to 16. -/
def checkExtend : Option Nat → Option (Option (Fin 16))
  | none => some none
  | some n => (index? 16 n).map some

/-- The checks and clamps of a SET_DETECTOR on its fields (R74). -/
def checkDetector (f : DetectorFields) : Option DetCfg :=
  match f.kind, stageSetOf f.demands, checkExtend f.extend with
  | some k, some d, some e =>
    if f.demands.length ≤ 4 then
      some ⟨k, d, e, clamp 20 250 f.debounce, min 255 f.stuckOn, min 72 f.quiet⟩
    else none
  | _, _, _ => none

/-- A dark leak threshold as applied (R118). -/
def leakWritten : LeakThreshold → LeakThreshold
  | .milliamps x => .milliamps (clamp 5 200 x)
  | .typeDefault => .typeDefault

/-- The channels a leak threshold is written to; none where a channel number lies outside 1 to 48 (R118). -/
def checkChannels : ChannelSel → Option (List Chan)
  | .all => some allChans
  | .one c => (index? 48 c).map fun i => [i]

/-- The survey and fault values a SET_THRESHOLDS leaves, each clamped (R139, R157). -/
def Thresholds.written (t : Thresholds) (f : ThresholdFields) : Thresholds :=
  let warn := f.warn.elim t.warn (clamp 500 20000)
  { warn := warn
    low := clamp 100 warn (f.low.getD t.low)
    hours := f.hours.elim t.hours (clamp 1 168)
    lampK := f.lampK.elim t.lampK (clamp 2 8)
    cableK := f.cableK.elim t.cableK (clamp 2 8)
    holdMin := f.holdMin.elim t.holdMin (clamp 1 120) }

/-- A copy of the configuration with a leak threshold written to some channels. -/
def Settings.setLeak (cfg : Settings) (l : List Chan) (x : LeakThreshold) : Settings :=
  { cfg with channels := l.foldl (fun v c => upd v c fun r => { r with leak := x }) cfg.channels }

/-! ### Plans and times of day (R31 to R33, R63, R68, R71) -/

/-- Whether a plan reference lies in the range its fields carry (Section 2.7). -/
def refOk (r : PlanRef) : Bool := decide (r.plan ≤ 255) && decide (r.tag ≤ 255)

/-- The checks of a RECORD item (R32). -/
def checkRecord (f : RecordFields) : Option StageRecord :=
  match index? 16 f.stage, f.mode with
  | some st, some m =>
    if within 50 1200 f.min && within 50 2400 f.max && decide (f.min ≤ f.max) && within 0 100 f.gap then
      some ⟨some st, m, f.min, f.max, f.gap⟩
    else none
  | _, _ => none

/-- A blank record (R26). -/
def StageRecord.blank : StageRecord := ⟨none, .always, 0, 0, 0⟩

/-- The checks of a present ENTRY item (R33). -/
def checkEntry (f : EntryFields) : Option PlanEntry :=
  match f.kind with
  | none => none
  | some k =>
    if within 1 255 f.tag && within 1 192 f.first && within 1 12 f.count && within 1 12 f.start then
      some ⟨f.valid, k, f.tag, f.first, f.count, f.start⟩
    else none

/-- Whether two day masks overlap (R68). -/
def overlaps (a b : DaySet) : Bool := (List.finRange 7).any fun d => a[d] && b[d]

/-- Whether a day mask holds no weekday. -/
def emptyDays (a : DaySet) : Bool := !a.toList.any id

/-- The checks of a TOD_WRITE, with the first reason that applies (R68); that of several reasons it is the first of field range, empty mask, table full and overlap is the model's choice (log 76). -/
def checkTod (l : List TodEntry) (days : Option DaySet) (hour minute : Nat) (action : Option TodAction) :
    Except TodReason TodEntry :=
  let inRange := decide (hour ≤ 23) && decide (minute ≤ 59)
  match days, action with
  | none, _ | _, none => .error .fieldRange
  | some days, some a =>
    let reference := match a with
      | .plan r => refOk r
      | _ => true
    if !inRange || !reference then .error .fieldRange
    else if emptyDays days then .error .emptyMask
    else if 32 ≤ l.length then .error .tableFull
    else if l.any fun e => decide (e.hour = hour) && decide (e.minute = minute) && overlaps e.days days then
      .error .overlap
    else .ok ⟨days, hour, minute, a⟩

/-- Minutes since midnight of an entry. -/
def TodEntry.minuteOfDay (e : TodEntry) : Nat := e.hour * 60 + e.minute

/-- Insert an entry in ascending time of day, after the entries of the same time (R68). -/
def insertTod (e : TodEntry) : List TodEntry → List TodEntry
  | [] => [e]
  | x :: xs => if e.minuteOfDay < x.minuteOfDay then e :: x :: xs else x :: insertTod e xs

/-- The reading a SET_CLOCK carries (R71). -/
def checkClock (weekday hour minute second : Nat) : Option Clock :=
  if within 1 7 weekday && decide (hour ≤ 23) && decide (minute ≤ 59) && decide (second ≤ 59) then
    some ⟨weekday, hour, minute, second, 0, true⟩
  else none

end Sys2Proof.Machine
end

