-- ==== Sys2Proof/Machine/ConfigRequests.lean ====
section
/-! DEFINITION. IDENTIFY, the requests that write the edit copy, COMMIT_CONFIG, and the tunable settings (R2, R10, R74, R87, R117, R118, R138, R139, R157, R161, R165, R178, R179). -/

namespace Sys2Proof.Machine

/-- What a command answers. -/
abbrev Out := Host.Outcome State Fault Refusal

/-! ### The gate of the configuration requests (R2) -/

/-- The status that refuses a write of the edit copy: REFUSED_MODE outside UNCONFIGURED and STANDBY, REFUSED_BUSY while a COMMIT_CONFIG job is in the job table (R2). -/
def State.editGate (s : State) : Option Status :=
  if s.mode.mode ≠ .unconfigured ∧ s.mode.mode ≠ .standby then some .refusedMode
  else if s.hasJob .commitConfig then some .refusedBusy
  else none

/-- A write of the edit copy whose checks gave a value, or did not: REFUSED_VALUE first, then the gate (R2, R177). -/
def State.editWith {α : Type} (s : State) (x : Option α) (f : α → Answer) : Answer :=
  match x with
  | none => s.refuse .refusedValue
  | some a =>
    match s.editGate with
    | some st => s.refuse st
    | none => f a

/-- Change the edit copy. -/
def State.setEdit (s : State) (f : Settings → Settings) : State := { s with edit := f s.edit }

/-! ### The requests -/

/-- IDENTIFY (R178): device code RSC-16, frame format issue 1, the line rate, the mode, the images. -/
def State.doIdentify (s : State) : Answer :=
  s.ok (.identity "RSC-16" 1 s.power.rate s.mode.mode s.store.config s.store.plans s.store.survey)

/-- Both parts of a check, or none. -/
def both {α β : Type} (x : Option α) (y : Option β) : Option (α × β) :=
  match x, y with
  | some a, some b => some (a, b)
  | _, _ => none

/-- SET_GROUP (R2). -/
def State.doSetGroup (g : Nat) (f : GroupFields) (s : State) : Answer :=
  s.editWith (both (index? 16 g) (checkGroup f)) fun (i, cfg) =>
    (s.setEdit fun e => { e with groups := e.groups.set i cfg }).ok (.group cfg)

/-- SET_INTERGREEN (R10). -/
def State.doSetIntergreen (i j : Nat) (v : Option Nat) (s : State) : Answer :=
  s.editWith (if intergreenOk v then both (index? 16 i) (index? 16 j) else none) fun (a, b) =>
    (s.setEdit fun e => { e with ig := upd e.ig a fun row => row.set b v }).ok .empty

/-- SET_CHANNEL naming a channel (R87, R117). -/
def State.doSetChannel (c : Nat) (f : ChannelFields) (s : State) : Answer :=
  s.editWith ((index? 48 c).bind fun i => (checkChannel f s.edit.channels[i]).map fun x => (i, x)) fun (i, x) =>
    (s.setEdit fun e => { e with channels := e.channels.set i x }).ok (.channel x)

/-- SET_CHANNEL naming SMC or FTR (R87). -/
def State.doSetChannelSupply (r : Supply) (op rel : Nat) (s : State) : Answer :=
  s.editWith (checkLimits op rel) fun l =>
    (s.setEdit fun e => match r with
      | .smc => { e with smc := l }
      | .ftr => { e with ftr := l }).ok (.supply l)

/-- SET_CORE (R138). -/
def State.doSetCore (k cable number : Nat) (role : RoleField) (s : State) : Answer :=
  s.editWith (both (index? 64 k) (checkCore cable number role)) fun (i, x) =>
    (s.setEdit fun e => { e with cores := e.cores.set i x }).ok (.core x)

/-- SET_RESPONSE naming a pattern (R161). -/
def State.doSetResponse (pattern : Nat) (r : Option Response) (immediate : Bool) (s : State) : Answer :=
  s.editWith (checkResponse pattern r immediate) fun (p, x) =>
    (s.setEdit fun e => { e with resp := e.resp.set p x }).ok .empty

/-- SET_RESPONSE naming JUNCTION (R165). -/
def State.doSetJunction (f : JunctionFields) (s : State) : Answer :=
  s.editWith (checkJunction f) fun x => (s.setEdit fun e => { e with junction := x }).ok .empty

/-! ### COMMIT_CONFIG (R12, R138, R179) -/

/-- The checks of Table 1-6 in their order, each the first failing item. -/
def Settings.checkGroups (cfg : Settings) : Option JobResult :=
  let isUnused (g : Group) : Bool := decide (cfg.groups[g].type = .unused)
  let pairs (f : Group → Group → Option JobResult) : Option JobResult :=
    allGroups.findSome? fun i => allGroups.findSome? fun j => if i < j then f i j else none
  let ordered (f : Group → Group → Option JobResult) : Option JobResult :=
    allGroups.findSome? fun i => allGroups.findSome? fun j => f i j
  let c1 : Option JobResult := if allGroups.all isUnused then some .noGroups else none
  let c2 := allGroups.findSome? fun i => if cfg.conflict i i then some (JobResult.igSelf i) else none
  let c3 := pairs fun i j => if cfg.conflict i j ≠ cfg.conflict j i then some (.igAsymmetric i j) else none
  let c4 := pairs fun i j =>
    if (isUnused i || isUnused j) && (cfg.conflict i j || cfg.conflict j i) then some (.igUnusedGroup i j) else none
  let c5 := ordered fun i j =>
    match cfg.groups[i].type, cfg.ig[i][j] with
    | .vehicle, some t => if t < cfg.groups[i].amber then some (.igBelowAmber i j) else none
    | _, _ => none
  (((c1.or c2).or c3).or c4).or c5

/-- The two core checks of R138. -/
def Settings.checkCores (cfg : Settings) : Option JobResult :=
  let c1 : Option JobResult := allCores.findSome? fun k =>
    if cfg.cores[k].role = .unused then none
    else allCores.findSome? fun l =>
      if k < l ∧ cfg.cores[l].role ≠ .unused ∧ cfg.cores[k].cable = cfg.cores[l].cable
          ∧ cfg.cores[k].number = cfg.cores[l].number then
        some (JobResult.coreDuplicate k l)
      else none
  let c2 : Option JobResult := allCores.findSome? fun k =>
    match cfg.cores[k].role with
    | .load c => if cfg.used c then none else some (JobResult.coreChannelUnused k c)
    | _ => none
  c1.or c2

/-- The validation of the edit copy: the first failing item (R179). -/
def Settings.validate (cfg : Settings) : Option JobResult := cfg.checkGroups.or cfg.checkCores

/-- COMMIT_CONFIG (R179). -/
def State.doCommitConfig (s : State) : Answer :=
  match s.editGate with
  | some st => s.refuse st
  | none =>
    let n := s.link.nextJob
    let t := s.addJob .commitConfig none
    match s.edit.validate with
    | some r => (t.endJob .commitConfig r .none, .inProgress, .jobNumber n)
    | none => (t.placeStore .config, .inProgress, .jobNumber n)

/-! ### Tunable settings (R74, R118, R139, R157) -/

/-- The CONFIG store request of a tunable setting or a time-of-day write, placed in every mode except UNCONFIGURED (R68, R74, R118). -/
def State.placeConfig (s : State) : State :=
  if s.mode.mode = .unconfigured then s else s.placeStore .config

/-- SET_DETECTOR (R74, R84). -/
def State.doSetDetector (d : Nat) (f : DetectorFields) (s : State) : Answer :=
  match both (index? 32 d) (checkDetector f) with
  | none => s.refuse .refusedValue
  | some (i, x) =>
    let old := s.work.dets[i]
    let t := { s with
      work := { s.work with dets := s.work.dets.set i x }, edit := { s.edit with dets := s.edit.dets.set i x } }
    (s.spread (t.placeConfig.applyDetector i old)).ok (.detector x)

/-- The lamp part of a SET_THRESHOLDS: the channels it names and the threshold applied; none where a channel number is out of range (R118). -/
def leakPart (x : Option (ChannelSel × LeakThreshold)) : Option (List Chan × Option LeakThreshold) :=
  match x with
  | none => some ([], none)
  | some (sel, l) => (checkChannels sel).map fun cs => (cs, some (leakWritten l))

/-- One copy of the configuration after a SET_THRESHOLDS. -/
def Settings.setThresholds (cfg : Settings) (cs : List Chan) (l : Option LeakThreshold) (f : ThresholdFields) : Settings :=
  let cfg := match l with
    | some x => cfg.setLeak cs x
    | none => cfg
  { cfg with thr := cfg.thr.written f }

/-- SET_THRESHOLDS (R118, R139, R157). -/
def State.doSetThresholds (f : ThresholdFields) (s : State) : Answer :=
  match leakPart f.leak with
  | none => s.refuse .refusedValue
  | some (cs, l) =>
    let t := { s with work := s.work.setThresholds cs l f, edit := s.edit.setThresholds cs l f }
    t.placeConfig.ok (.thresholds l t.work.thr)

/-! ### The commands -/

/-- IDENTIFY. -/
def execIdentify (tag : Byte) (s : State) : Out := .next (s.arrive (.identify tag) State.doIdentify false)

/-- SET_GROUP. -/
def execSetGroup (tag : Byte) (g : Nat) (f : GroupFields) (s : State) : Out :=
  .next (s.arrive (.setGroup tag g f) (State.doSetGroup g f) false)

/-- SET_INTERGREEN. -/
def execSetIntergreen (tag : Byte) (i j : Nat) (v : Option Nat) (s : State) : Out :=
  .next (s.arrive (.setIntergreen tag i j v) (State.doSetIntergreen i j v) false)

/-- SET_CHANNEL naming a channel. -/
def execSetChannel (tag : Byte) (c : Nat) (f : ChannelFields) (s : State) : Out :=
  .next (s.arrive (.setChannel tag c f) (State.doSetChannel c f) false)

/-- SET_CHANNEL naming SMC or FTR. -/
def execSetChannelSupply (tag : Byte) (r : Supply) (op rel : Nat) (s : State) : Out :=
  .next (s.arrive (.setChannelSupply tag r op rel) (State.doSetChannelSupply r op rel) false)

/-- SET_CORE. -/
def execSetCore (tag : Byte) (k cable number : Nat) (role : RoleField) (s : State) : Out :=
  .next (s.arrive (.setCore tag k cable number role) (State.doSetCore k cable number role) false)

/-- SET_RESPONSE naming a pattern. -/
def execSetResponse (tag : Byte) (p : Nat) (r : Option Response) (immediate : Bool) (s : State) : Out :=
  .next (s.arrive (.setResponse tag p r immediate) (State.doSetResponse p r immediate) false)

/-- SET_RESPONSE naming JUNCTION. -/
def execSetResponseJunction (tag : Byte) (f : JunctionFields) (s : State) : Out :=
  .next (s.arrive (.setResponseJunction tag f) (State.doSetJunction f) false)

/-- COMMIT_CONFIG. -/
def execCommitConfig (tag : Byte) (s : State) : Out :=
  .next (s.arrive (.commitConfig tag) State.doCommitConfig false)

/-- SET_DETECTOR. -/
def execSetDetector (tag : Byte) (d : Nat) (f : DetectorFields) (s : State) : Out :=
  .next (s.arrive (.setDetector tag d f) (State.doSetDetector d f) false)

/-- SET_THRESHOLDS. -/
def execSetThresholds (tag : Byte) (f : ThresholdFields) (s : State) : Out :=
  .next (s.arrive (.setThresholds tag f) (State.doSetThresholds f) false)

end Sys2Proof.Machine
end

