-- ==== Sys2Proof/Machine/ControlRequests.lean ====
section
/-! DEFINITION. The time-of-day and clock requests, the control requests and the job requests (R63, R67, R68, R71, R85, R132, R150, R164, R167, R171, R180, R185). -/

namespace Sys2Proof.Machine

/-! ### Time of day and clock (R68, R71) -/

/-- TOD_WRITE (R68). -/
def State.doTodWrite (days : Option DaySet) (hour minute : Nat) (action : Option TodAction) (s : State) : Answer :=
  match checkTod s.tod days hour minute action with
  | .error r => (s, .refusedValue, .todRefused r)
  | .ok e =>
    let t := { s with tod := insertTod e s.tod }
    (s.spread (t.placeConfig.evaluateTable false)).ok .empty

/-- The table a TOD_DELETE leaves; none where it names no entry (R68). -/
def deleteTod (l : List TodEntry) : TodTarget → Option (List TodEntry)
  | .all => some []
  | .entry days hour minute =>
    let same (e : TodEntry) : Bool :=
      decide (e.hour = hour) && decide (e.minute = minute) && decide (e.days = days)
    if l.any same then some (l.filter fun e => !same e) else none

/-- TOD_DELETE (R68); a deletion that leaves the table as it was places no store request and evaluates nothing. -/
def State.doTodDelete (target : TodTarget) (s : State) : Answer :=
  match deleteTod s.tod target with
  | none => s.refuse .refusedValue
  | some l =>
    if l = s.tod then s.ok .empty
    else (s.spread (State.evaluateTable (State.placeConfig { s with tod := l }) false)).ok .empty

/-- SET_CLOCK (R71). -/
def State.doSetClock (weekday hour minute second : Nat) (s : State) : Answer :=
  match checkClock weekday hour minute second with
  | none => s.refuse .refusedValue
  | some c =>
    let t := State.endCond { s with clock := c } ⟨.junction, .clockInvalid⟩
    (s.spread (t.evaluateTable false)).ok .empty

/-! ### START, STOP, RESUME (R167, R171) -/

/-- What refuses a START in STANDBY (R167). -/
def State.startBar (s : State) : Option Status :=
  if !s.inUse.usable || s.mode.responseActive || decide (s.mode.bringUp ≠ .ok) then some .refusedMode
  else if s.hasJob .commitConfig then some .refusedBusy
  else none

/-- START (R167). -/
def State.doStart (s : State) : Answer :=
  if s.mode.mode ≠ .standby then s.refuse .refusedMode
  else
    match s.startBar with
    | some st => s.refuse st
    | none => (s.spread s.enterStartFlash).ok .empty

/-- STOP (R167). A SHUTDOWN whose target it changes keeps a LEARN job until the target is entered (R135, log 58). -/
def State.doStop (s : State) : Answer :=
  match s.mode.mode with
  | .unconfigured | .failsafe => s.refuse .refusedMode
  | .running => (s.spread (s.enterShutdown .standby false)).ok .empty
  | .shutdown =>
    if s.mode.target = some .partFlash then
      State.ok { s with mode := { s.mode with target := some .standby } } .empty
    else s.ok .empty
  | .startFlash | .startRed | .partFlash => (s.spread (s.enterMode .standby)).ok .empty
  | .mainsOut => State.ok { s with mode := { s.mode with returnMode := .standby } } .empty
  | .standby => s.ok .empty

/-- What refuses a RESUME in FAILSAFE (R171). -/
def State.resumeBar (s : State) : Option Status :=
  if s.mode.responseActive || decide (3 ≤ s.lockouts) || decide (s.mode.cause = .bringUp) || !s.inUse.usable then
    some .refusedMode
  else if s.hasJob .commitConfig then some .refusedBusy
  else none

/-- RESUME (R171). -/
def State.doResume (s : State) : Answer :=
  if s.mode.mode ≠ .failsafe then s.refuse .refusedMode
  else
    match s.resumeBar with
    | some st => s.refuse st
    | none =>
      let t := State.endCond { s with mode := { s.mode with cause := .none } } ⟨.junction, .failsafe⟩
      (s.spread t.enterStartFlash).ok .empty

/-! ### Plan selection and demands (R63, R67, R85) -/

/-- SELECT_PLAN (R63). -/
def State.doSelectPlan (ref : PlanRef) (timing : Option Timing) (s : State) : Answer :=
  match if refOk ref then timing else none with
  | none => s.refuse .refusedValue
  | some w =>
    if s.mode.mode = .unconfigured then s.refuse .refusedMode
    else
      let t := { s with engine := { s.engine with source := .linkOverride, override := some ref } }
      match s.mode.mode with
      | .running =>
        (s.spread { t with engine := { t.engine with change := some ⟨ref, w, .link⟩ } }).ok .empty
      | .partFlash => (s.spread (t.ask .planRequest)).ok .empty
      | _ => t.ok .empty

/-- CLEAR_OVERRIDE (R67). -/
def State.doClearOverride (s : State) : Answer :=
  if s.mode.mode = .unconfigured then s.refuse .refusedMode
  else
    let change := s.engine.change.filter fun c => c.origin ≠ .link
    let t := { s with engine := { s.engine with source := .timeTable, override := none, change := change } }
    (s.spread (t.evaluateTable true)).ok .empty

/-- DEMAND (R85); the demand set in the reply is that which all blocks leave of the event (R176, log 37). -/
def State.doDemand (stages : List Nat) (s : State) : Answer :=
  match if stages.isEmpty || decide (16 < stages.length) then none else stageSetOf stages with
  | none => s.refuse .refusedValue
  | some d =>
    let t := s.spread (s.enterDemands d)
    t.ok (.demandSet t.engine.demands)

/-! ### Jobs (R132, R150, R180) -/

/-- Every used channel whose learn state is NOMINAL enters LEARNING (R132). -/
def State.startLearning (s : State) : State :=
  { s with lamps := mapIx s.lamps fun c l =>
      if s.work.used c && !s.work.channels[c].learned && !l.learning then
        { l with learning := true, learnSet := [], learnPeriods := 0, addedInPeriod := false }
      else l }

/-- LEARN (R132). -/
def State.doLearn (s : State) : Answer :=
  if s.mode.mode ≠ .running then s.refuse .refusedMode
  else if s.hasJob .learn then s.refuse .refusedBusy
  else
    let n := s.link.nextJob
    let t := (s.addJob .learn (some (s.now + minutes 30))).startLearning
    (t.learnCheck, .inProgress, .jobNumber n)

/-- SURVEY_NOW (R150). -/
def State.doSurveyNow (s : State) : Answer :=
  if s.hasJob .surveyNow then s.refuse .refusedBusy
  else
    let n := s.link.nextJob
    let t := s.addJob .surveyNow none
    if s.survey.halted then (t.endJob .surveyNow .halted t.tally, .inProgress, .jobNumber n)
    else (((t.beginPass true).wantSelection).selections 3, .inProgress, .jobNumber n)

/-- CANCEL_JOB (R134, R150, R180). -/
def State.doCancelJob (number : Nat) (s : State) : Answer :=
  match s.link.jobs.find? (·.number = number) with
  | none => s.refuse .refusedValue
  | some j =>
    match j.kind with
    | .commitPlans | .commitConfig => s.refuse .refusedBusy
    | .learn => (s.learnEnd .cancelled).ok .empty
    | .surveyNow =>
      let t := s.endJob .surveyNow .cancelled s.tally
      State.ok { t with survey := { t.survey with full := false } } .empty

/-! ### ACK_ALARMS and RESTART (R164, R185) -/

/-- ACK_ALARMS (R164). -/
def State.doAckAlarms (s : State) : Answer :=
  let n := s.faults.alarms.countP fun a => !a.active
  State.ok { s with faults := { s.faults with alarms := s.faults.alarms.filter (·.active), listFull := false } }
    (.removed n)

/-- RESTART (R185): from its taking the receiver discards every byte (R175); the start begins when its reply has left. -/
def State.doRestart (s : State) : Answer :=
  State.ok { s with link := { s.link with restarting := true, rx := none, rxTimer := none } } .empty

/-! ### The commands -/

/-- TOD_WRITE. -/
def execTodWrite (tag : Byte) (days : Option DaySet) (hour minute : Nat) (action : Option TodAction) (s : State) : Out :=
  .next (s.arrive (.todWrite tag days hour minute action) (State.doTodWrite days hour minute action) false)

/-- TOD_DELETE. -/
def execTodDelete (tag : Byte) (target : TodTarget) (s : State) : Out :=
  .next (s.arrive (.todDelete tag target) (State.doTodDelete target) false)

/-- SET_CLOCK. -/
def execSetClock (tag : Byte) (weekday hour minute second : Nat) (s : State) : Out :=
  .next (s.arrive (.setClock tag weekday hour minute second) (State.doSetClock weekday hour minute second) false)

/-- START. -/
def execStart (tag : Byte) (s : State) : Out := .next (s.arrive (.start tag) State.doStart false)

/-- STOP. -/
def execStop (tag : Byte) (s : State) : Out := .next (s.arrive (.stop tag) State.doStop false)

/-- RESUME. -/
def execResume (tag : Byte) (s : State) : Out := .next (s.arrive (.resume tag) State.doResume false)

/-- SELECT_PLAN. -/
def execSelectPlan (tag : Byte) (ref : PlanRef) (timing : Option Timing) (s : State) : Out :=
  .next (s.arrive (.selectPlan tag ref timing) (State.doSelectPlan ref timing) false)

/-- CLEAR_OVERRIDE. -/
def execClearOverride (tag : Byte) (s : State) : Out :=
  .next (s.arrive (.clearOverride tag) State.doClearOverride false)

/-- DEMAND. -/
def execDemand (tag : Byte) (stages : List Nat) (s : State) : Out :=
  .next (s.arrive (.demand tag stages) (State.doDemand stages) false)

/-- LEARN. -/
def execLearn (tag : Byte) (s : State) : Out := .next (s.arrive (.learn tag) State.doLearn false)

/-- SURVEY_NOW. -/
def execSurveyNow (tag : Byte) (s : State) : Out := .next (s.arrive (.surveyNow tag) State.doSurveyNow false)

/-- CANCEL_JOB. -/
def execCancelJob (tag : Byte) (number : Nat) (s : State) : Out :=
  .next (s.arrive (.cancelJob tag number) (State.doCancelJob number) false)

/-- ACK_ALARMS. -/
def execAckAlarms (tag : Byte) (s : State) : Out := .next (s.arrive (.ackAlarms tag) State.doAckAlarms false)

/-- RESTART. -/
def execRestart (tag : Byte) (s : State) : Out := .next (s.arrive (.restart tag) State.doRestart true)

end Sys2Proof.Machine
end

