-- ==== Sys2Proof/Machine/PlanRequests.lean ====
section
/-! DEFINITION. PLAN_WRITE, COMMIT_PLANS and READ_PLAN (R30 to R34, R39, R45). -/

namespace Sys2Proof.Machine

/-! ### Writing the staging copy (R30 to R34) -/

/-- A PLAN_WRITE whose checks gave an item, or did not: REFUSED_VALUE first, then REFUSED_BUSY while a COMMIT_PLANS job is in the job table (R30, R177). -/
def State.planWith {α : Type} (s : State) (x : Option α) (f : α → Answer) : Answer :=
  match x with
  | none => s.refuse .refusedValue
  | some a => if s.hasJob .commitPlans then s.refuse .refusedBusy else f a

/-- Change the staging copy. -/
def State.setStaging (s : State) (f : PlanSet → PlanSet) : State := { s with staging := f s.staging }

/-- A STAGE item (R31). -/
def State.doWriteStage (st : Nat) (gs : GroupSet) (s : State) : Answer :=
  s.planWith (index? 16 st) fun i =>
    (s.setStaging fun p => { p with stages := p.stages.set i ⟨gs, false⟩ }).ok (.stageItem i gs)

/-- A pool with a record at a position, which is at most one beyond its length (R32). -/
def putRecord (pool : List StageRecord) (position : Nat) (r : StageRecord) : List StageRecord :=
  if position ≤ pool.length then pool.set (position - 1) r else pool ++ [r]

/-- A RECORD item (R32). -/
def State.doWriteRecord (position : Nat) (f : RecordFields) (s : State) : Answer :=
  let ok := decide (1 ≤ position) && decide (position ≤ s.staging.pool.length + 1) && decide (position ≤ 192)
  s.planWith (if ok then checkRecord f else none) fun r =>
    (s.setStaging fun p => { p with pool := putRecord p.pool position r }).ok (.recordItem position r)

/-- A pool of a new length: cut, or filled with blank records (R32). -/
def setPoolLength (pool : List StageRecord) (n : Nat) : List StageRecord :=
  pool.take n ++ List.replicate (n - pool.length) StageRecord.blank

/-- A POOL_LENGTH item (R32). -/
def State.doWritePoolLength (n : Nat) (s : State) : Answer :=
  s.planWith (if n ≤ 192 then some n else none) fun n =>
    (s.setStaging fun p => { p with pool := setPoolLength p.pool n }).ok (.poolLength n)

/-- The entry an ENTRY item carries: ABSENT, or a present entry that passes its checks (R33). -/
def entryOf : Option EntryFields → Option (Option PlanEntry)
  | none => some none
  | some f => (checkEntry f).map some

/-- An ENTRY item (R33). -/
def State.doWriteEntry (p : Nat) (f : Option EntryFields) (s : State) : Answer :=
  s.planWith (both (index? 16 p) (entryOf f)) fun (i, e) =>
    (s.setStaging fun x => { x with dir := x.dir.set i e }).ok (.entryItem i e)

/-- The content a COPY item takes; none where the pending copy is absent or the source is none of the three (R34). -/
def State.copySource (s : State) : Option CopySource → Option PlanSet
  | some .inUse => some s.inUse.dropVoids
  | some .pending => s.pendingSet.map (·.set.dropVoids)
  | some .empty => some .empty
  | none => none

/-- A COPY item (R34). The reply holds the whole plan set that now stands in the staging copy (log 51). -/
def State.doWriteCopy (source : Option CopySource) (s : State) : Answer :=
  s.planWith (s.copySource source) fun p => (s.setStaging fun _ => p).ok (.planSet p)

/-- COMMIT_PLANS (R39). -/
def State.doCommitPlans (s : State) : Answer :=
  if s.hasJob .commitPlans then s.refuse .refusedBusy
  else
    let n := s.link.nextJob
    let t := s.addJob .commitPlans none
    match s.staging.validate s.work with
    | some r => (t.endJob .commitPlans r .none, .inProgress, .jobNumber n)
    | none => (t.placeStore .plans, .inProgress, .jobNumber n)

/-! ### READ_PLAN (R45) -/

/-- A copy of the plan set by name; none where the pending copy is absent. -/
def State.planCopy (s : State) : PlanCopy → Option PlanSet
  | .inUse => some s.inUse
  | .pending => s.pendingSet.map (·.set)
  | .staging => some s.staging

/-- An item of a named copy, or REFUSED_VALUE (R45). -/
def State.readItem (s : State) (copy : PlanCopy) (ps : PlanSet) : PlanItem → Answer
  | .plan ref =>
    match ps.translate ref with
    | .ok p => s.ok (.resolved p)
    | .error k => s.ok (.translationFault k)
  | .directory =>
    let own := decide (copy = .inUse)
    s.ok (.directory ⟨ps.dir, ps.pool.length, if own then some ps.usable else none,
      if own then some s.pendingSet.isSome else none⟩)
  | .stage n =>
    match index? 16 n with
    | some i =>
      s.ok (.stageView ps.stages[i].groups (if copy = .staging then none else some ps.stages[i].void))
    | none => s.refuse .refusedValue
  | .record n =>
    match if n = 0 then none else ps.pool[n - 1]? with
    | some r => s.ok (.recordView r)
    | none => s.refuse .refusedValue
  | .other => s.refuse .refusedValue

/-- Whether the fields of an item lie in their ranges, apart from the pool length of the copy (R45). -/
def planItemOk : PlanItem → Bool
  | .plan ref => refOk ref
  | .directory => true
  | .stage n => within 1 16 n
  | .record n => within 1 192 n
  | .other => false

/-- READ_PLAN (R45). -/
def State.doReadPlan (copy : Option PlanCopy) (item : PlanItem) (s : State) : Answer :=
  match copy with
  | none => s.refuse .refusedValue
  | some c =>
    if planItemOk item then
      match s.planCopy c with
      | none => s.ok .copyAbsent
      | some ps => s.readItem c ps item
    else s.refuse .refusedValue

/-! ### The commands -/

/-- PLAN_WRITE of a STAGE item. -/
def execPlanWriteStage (tag : Byte) (st : Nat) (gs : GroupSet) (s : State) : Out :=
  .next (s.arrive (.planWriteStage tag st gs) (State.doWriteStage st gs) false)

/-- PLAN_WRITE of a RECORD item. -/
def execPlanWriteRecord (tag : Byte) (position : Nat) (f : RecordFields) (s : State) : Out :=
  .next (s.arrive (.planWriteRecord tag position f) (State.doWriteRecord position f) false)

/-- PLAN_WRITE of a POOL_LENGTH item. -/
def execPlanWritePoolLength (tag : Byte) (n : Nat) (s : State) : Out :=
  .next (s.arrive (.planWritePoolLength tag n) (State.doWritePoolLength n) false)

/-- PLAN_WRITE of an ENTRY item. -/
def execPlanWriteEntry (tag : Byte) (p : Nat) (f : Option EntryFields) (s : State) : Out :=
  .next (s.arrive (.planWriteEntry tag p f) (State.doWriteEntry p f) false)

/-- PLAN_WRITE of a COPY item. -/
def execPlanWriteCopy (tag : Byte) (source : Option CopySource) (s : State) : Out :=
  .next (s.arrive (.planWriteCopy tag source) (State.doWriteCopy source) false)

/-- COMMIT_PLANS. -/
def execCommitPlans (tag : Byte) (s : State) : Out :=
  .next (s.arrive (.commitPlans tag) State.doCommitPlans false)

/-- READ_PLAN. -/
def execReadPlan (tag : Byte) (copy : Option PlanCopy) (item : PlanItem) (s : State) : Out :=
  .next (s.arrive (.readPlan tag copy item) (State.doReadPlan copy item) false)

end Sys2Proof.Machine
end

