-- ==== Sys2Proof/Machine/ReadRequests.lean ====
section
/-! DEFINITION. The reading requests (R23, R72, R86, R103, R115, R136, R152, R164, R178): each is answered from the state in the event in which it is taken. -/

namespace Sys2Proof.Machine

/-- A copy of the configuration by name. -/
def State.copy (s : State) : ConfigCopy → Settings
  | .working => s.work
  | .edit => s.edit

/-! ### READ_GROUP, READ_CHANNEL, READ_CORE, READ_DETECTOR -/

/-- The running part of a group as READ_GROUP shows it (R23). -/
def State.groupView (s : State) (g : Group) : GroupView :=
  let r := s.groups[g]
  ⟨r.aspect, r.conflictRedOut, r.hold, r.greenUnavailable, r.pendingGreen, s.remaining r.amberTimer,
    s.remaining r.redAmberTimer, r.greenRelease, r.lastGreenOff, r.greenMark⟩

/-- READ_GROUP (R23). -/
def State.doReadGroup (g : Nat) (copy : Option ConfigCopy) (s : State) : Answer :=
  match both (index? 16 g) copy with
  | none => s.refuse .refusedValue
  | some (i, c) =>
    let cfg := s.copy c
    s.ok (.groupCopy cfg.groups[i] cfg.ig[i] (cfg.ig.map fun row => row[i])
      (if c = .working then some (s.groupView i) else none))

/-- The relay part of a READ_CHANNEL (R103). -/
def State.relayView (s : State) (c : Chan) : RelayView :=
  let r := s.relays[c]
  ⟨r.state, r.origin, r.coil, r.proof, r.held, s.remaining r.waitTimer, s.remaining r.opTimer,
    s.remaining r.relTimer, r.gen, r.darkSince, s.work.channels[c].limits⟩

/-- The learn state of a channel (R116). -/
def State.learnState (s : State) (c : Chan) : LearnState :=
  if (s.lamps[c]).learning then .learning else if s.work.channels[c].learned then .learned else .nominal

/-- The lamp part of a READ_CHANNEL (R136). -/
def State.lampView (s : State) (c : Chan) : LampView :=
  let l := s.lamps[c]
  let x := s.work.channels[c]
  { used := s.work.used c, lamps := s.work.lampCount c
    rmin := if (colourOf c).val = 0 then some s.work.groups[groupOf c].rmin else none
    lamp := x.lamp, nominal := x.nominal, iref := x.iref, learned := x.learned, learnState := s.learnState c
    leak := x.leakApplied, typeDefault := decide (x.leak = .typeDefault)
    lampsLit := l.lampsLit, last := l.last, lit := l.lit
    settle := s.remaining l.settle, repeatTimer := s.remaining l.repeatTimer, dark := s.remaining l.dark
    discard := l.flashDiscard, litCount := l.litCount, darkCount := l.darkCount
    learning := if l.learning then some (l.learnSet, l.learnPeriods) else none }

/-- What a READ_CHANNEL naming SMC or FTR shows (R103). -/
def State.supplyView (s : State) (r : SupplyRelay) (l : Limits) : SupplyView :=
  ⟨r.state, r.coil, r.proof, r.held, s.remaining r.opTimer, s.remaining r.relTimer, l⟩

/-- READ_CHANNEL (R103, R136). -/
def State.doReadChannel (name : ChannelName) (s : State) : Answer :=
  match name with
  | .supply .smc => s.ok (.readSupply .smc (s.supplyView s.smc s.work.smc))
  | .supply .ftr => s.ok (.readSupply .ftr (s.supplyView s.ftr s.work.ftr))
  | .channel c =>
    match index? 48 c with
    | some i => s.ok (.readChannel (s.relayView i) (s.lampView i))
    | none => s.refuse .refusedValue

/-- The WORKING reply of a READ_CORE (R152). -/
def State.coreView (s : State) (k : CoreId) : CoreView :=
  let r := s.cores[k]
  let tested := decide (s.survey.underTest = some k)
  { cfg := s.work.cores[k], hist := r.hist, mark := r.mark, abandons := r.abandons, test := r.test
    charge := if tested then s.remaining s.survey.charge else none
    release := if tested then s.remaining s.survey.release else none
    range := if tested then
        (match r.test with
        | .measureX16 => some .leakX16
        | .measureX1 => some .leakX1
        | _ => none)
      else none }

/-- READ_CORE; a request that names no copy is answered for WORKING (R152, log 21). -/
def State.doReadCore (k : Nat) (copy : Option (Option ConfigCopy)) (s : State) : Answer :=
  match both (index? 64 k) (copy.getD (some .working)) with
  | none => s.refuse .refusedValue
  | some (i, .working) => s.ok (.readCore (s.coreView i))
  | some (i, .edit) => s.ok (.core s.edit.cores[i])

/-- The reply of a READ_DETECTOR (R86). -/
def State.detView (s : State) (d : Det) : DetView :=
  let r := s.dets[d]
  let x := s.work.dets[d]
  { cfg := x, raw := r.raw, accepted := r.accepted, state := r.state, debounce := s.remaining r.debounce
    stuckFor := r.stuckStart.map (s.now - ·), quietFor := r.quietStart.map (s.now - ·), count := r.count
    occupied := if x.kind = .presence then x.extend.map fun st => s.occupied[st] else none }

/-- READ_DETECTOR (R86). -/
def State.doReadDetector (d : Nat) (clearCount : Bool) (s : State) : Answer :=
  match index? 32 d with
  | none => s.refuse .refusedValue
  | some i =>
    let v := s.detView i
    (if clearCount then s.updDet i fun r => { r with count := 0 } else s).ok (.readDetector v)

/-! ### READ_ALARMS and READ_STATUS (R164, R178) -/

/-- Page p of a list, eight records to a page (R164). -/
def page {α : Type} (l : List α) (p : Nat) : List α := (l.drop (8 * (p - 1))).take 8

/-- READ_ALARMS (R164); pages are named from 1 upward. -/
def State.doReadAlarms (p : Nat) (s : State) : Answer :=
  if p = 0 then s.refuse .refusedValue
  else s.ok (.alarms (page s.faults.alarms p) s.faults.alarms.length s.faults.listFull)

/-- The MODE part (R178). -/
def State.modeView (s : State) : ModeView :=
  let m := s.mode
  ⟨m.mode, m.cause, m.style, m.target, m.returnMode, s.remaining m.timer, m.bringUp, m.responseActive⟩

/-- The SEQUENCE part (R72). -/
def State.sequenceView (s : State) : SequenceView :=
  let e := s.engine
  let changing := decide (e.state = .changing)
  { state := e.state, plan := e.plan.map fun p => ⟨p.number, p.tag, p.kind⟩, record := e.record, stage := e.stage
    prevStage := if changing then e.prevStage else none
    gaining := Vector.ofFn s.isGaining
    green := s.remaining e.greenTimer, maximum := s.remaining e.maxTimer, gap := s.remaining e.gapTimer
    gapped := e.gapped, demands := e.demands, source := e.source, override := e.override
    tableResult := e.tableResult, change := e.change
    clock := ⟨s.clock.weekday, s.clock.hour, s.clock.minute, s.clock.second⟩, clockValid := s.clock.valid }

/-- The OUTPUT part (R103). -/
def State.outputView (s : State) : OutputView :=
  ⟨s.smc.state, s.smc.proof, s.ftr.state, s.ftr.proof, s.flashBus, s.monitor.map fun m => (m.proven, m.lastEnd),
    s.lockouts⟩

/-- The LEAK request queued, if any (R115). -/
def State.leakQueued (s : State) : Option (CoreId × ConvRange) :=
  s.meas.queue.findSome? fun r => match r.subject with
    | .leak k => some (k, r.range)
    | _ => none

/-- The MEASUREMENT part (R115). Before a conversion reaches its first half cycle the dip mark shown is that of the conversion before it (log 55). -/
def State.measView (s : State) : MeasView :=
  { conv := s.meas.conv, range := s.meas.range
    requester := s.meas.current.map (·.subject.requester), current := s.meas.current.map (·.subject), dip := s.meas.dip
    lampQueued := s.meas.queue.countP (·.subject.lamp), leakQueued := s.leakQueued, refCount := s.meas.refCount
    mains := s.mains.state, lossTimer := s.remaining s.mains.lossTimer
    returnTimer := s.remaining s.mains.returnTimer, level := s.mains.level, dips := s.mains.dips
    losses := s.mains.losses }

/-- The SURVEY part (R152). -/
def State.surveyView (s : State) : SurveyView :=
  let v := s.survey
  { active := v.active, full := v.full, passNo := v.passNo, window := s.remaining v.window
    interval := s.remaining v.interval, eligibility := s.remaining v.eligibility, charge := s.remaining v.charge
    release := s.remaining v.release, startHeld := v.startHeld, halted := v.halted, underTest := v.underTest
    waiting := allCores.find? fun k => (s.cores[k]).test = .waitEligible
    warn := s.work.thr.warn, low := s.work.thr.low, hours := s.work.thr.hours }

/-- A suspicion as READ_STATUS shows it (R164). -/
def State.suspicionView (s : State) (r : Suspicion) : SuspicionView :=
  ⟨r.key, r.level, r.count, r.start, s.remaining r.hold⟩

/-- The FAULT part, page p (R164, R178). -/
def State.faultView (s : State) (p : Nat) : ReplyBody :=
  .faultStatus ((page s.faults.suspicions p).map s.suspicionView)
    (Vector.ofFn fun g => (s.faults.patterns[g], s.faults.responses[g])) s.mode.responseActive

/-- The LINK part (R178): requests, TAGs and notices are given by their numbers (log 63). -/
def State.linkView (s : State) : LinkView :=
  ⟨s.link.queue.length, s.link.busy.length, s.link.notices.length, s.link.lost,
    s.link.jobs.map fun j => (j.number, j.kind), s.link.nextJob⟩

/-- The STORE part (R178); the step of a write is a free value (log 8). -/
def State.storeView (s : State) : StoreView :=
  ⟨s.store.config, s.store.plans, s.store.survey, s.store.queue,
    s.store.writing.map fun w => (w.image, Config.writeStep s.freeUses)⟩

/-- READ_STATUS (R178). -/
def State.doReadStatus (part : StatusPart) (p : Nat) (s : State) : Answer :=
  match part with
  | .mode => s.ok (.modeStatus s.modeView)
  | .sequence => s.ok (.sequenceStatus s.sequenceView)
  | .output => s.ok (.outputStatus s.outputView)
  | .measurement => s.ok (.measStatus s.measView)
  | .survey => s.ok (.surveyStatus s.surveyView)
  | .fault => if p = 0 then s.refuse .refusedValue else s.ok (s.faultView p)
  | .link => s.ok (.linkStatus s.linkView)
  | .store => State.ok { s with freeUses := s.freeUses + 1 } (.storeStatus s.storeView)
  | .other => s.refuse .refusedValue

/-! ### The commands -/

/-- READ_GROUP. -/
def execReadGroup (tag : Byte) (g : Nat) (copy : Option ConfigCopy) (s : State) : Out :=
  .next (s.arrive (.readGroup tag g copy) (State.doReadGroup g copy) false)

/-- READ_CHANNEL. -/
def execReadChannel (tag : Byte) (name : ChannelName) (s : State) : Out :=
  .next (s.arrive (.readChannel tag name) (State.doReadChannel name) false)

/-- READ_CORE. -/
def execReadCore (tag : Byte) (k : Nat) (copy : Option (Option ConfigCopy)) (s : State) : Out :=
  .next (s.arrive (.readCore tag k copy) (State.doReadCore k copy) false)

/-- READ_DETECTOR. -/
def execReadDetector (tag : Byte) (d : Nat) (clearCount : Bool) (s : State) : Out :=
  .next (s.arrive (.readDetector tag d clearCount) (State.doReadDetector d clearCount) false)

/-- READ_ALARMS. -/
def execReadAlarms (tag : Byte) (p : Nat) (s : State) : Out :=
  .next (s.arrive (.readAlarms tag p) (State.doReadAlarms p) false)

/-- READ_STATUS. -/
def execReadStatus (tag : Byte) (part : StatusPart) (p : Nat) (s : State) : Out :=
  .next (s.arrive (.readStatus tag part p) (State.doReadStatus part p) false)

end Sys2Proof.Machine
end

