-- ==== Sys2Proof/Machine/Start.lean ====
section
/-! DEFINITION. Power, the bring-up and the start event (R105, R172, R173, and the "at start" statements of R4, R28, R46, R71, R75, R95 to R99, R110, R114, R119, R151, R154, R180, R181, R184, R185). -/

namespace Sys2Proof.Machine

/-! ### Power and the beginning of a start (R71, R172, R185) -/

/-- The store across a start or a loss of power: the blocks stay, a write in progress has left its image cut, the request queue is discarded (R185). -/
def Store.cut (st : Store) : Store :=
  { Store.blank with nvConfig := st.nvConfig, nvPlans := st.nvPlans, nvSurvey := st.nvSurvey }

/-- A start begins (R172): every block takes its start value, the millisecond count is zero, the reference conversion runs for 20 ms. The store's blocks are kept, and the clock where it is given. -/
def State.beginStart (s : State) (cause : StartCause) (rate : LineRate) (clock : Clock) : State :=
  { State.unpowered with
    power := ⟨.reference, cause, rate, rate, false, false⟩
    clock := clock
    meas := { Meas.default with conv := .reference, refEnd := some 20 }
    store := s.store.cut
    freeUses := s.freeUses
    pending := s.pending }

/-- POWER_ON (R71, R172): power arrives at a controller without it; the calendar clock comes up invalid. -/
def execPowerOn (rate : LineRate) (s : State) : Out :=
  .next (if s.power.phase = .off then s.beginStart .powerOn rate .default else s)

/-- POWER_LOSS (R114, R180, R185): everything but the store's blocks is lost, without notices. -/
def execPowerLoss (s : State) : Out :=
  .next
    { State.unpowered with
      power := ⟨.off, .powerOn, s.power.strap, s.power.rate, false, false⟩
      store := s.store.cut
      freeUses := s.freeUses
      pending := s.pending }

/-- The proofs read at the end of the reference conversion (R172). -/
def State.readProofs (s : State) (loads : Vector Bool 48) (smc ftr line : Bool) : State :=
  { s with
    relays := mapIx s.relays fun c r => { r with proof := loads[c] }
    smc := { s.smc with proof := smc }
    ftr := { s.ftr with proof := ftr }
    survey := { s.survey with lineClosed := line }
    power := { s.power with proofFault := loads.toList.any id || smc || ftr, lineFault := line } }

/-- REFERENCE_CONVERSION_END (R105, R172): at the end of its 20 ms the count is held, the proofs are read, and the event ends with its grant (R108). -/
def execReferenceConversionEnd (count : BitVec 16) (loads : Vector Bool 48) (smc ftr line : Bool) (s : State) : Out :=
  .next
    (match s.power.phase, s.meas.refEnd with
    | .reference, some e =>
      let t := (s.elapseTo e).readProofs loads smc ftr line
      State.close { t with
        power := { t.power with phase := .reading }
        meas := { t.meas with conv := .idle, refCount := count, refEnd := none } }
    | _, _ => s)

/-! ### The start event (R173) -/

/-- Whether the reference check passes (R105). -/
def referenceOk (x : BitVec 16) : Bool := within 51381 53477 x.toNat

/-- The bring-up checks of Table 10-4 that fail, in order, as codes (R172). -/
def State.failedChecks (s : State) (answers : Bool) : List BringUp :=
  (if referenceOk s.meas.refCount then [] else [.converterFault])
    ++ (if s.power.proofFault then [.relayProofFault] else [])
    ++ (if s.power.lineFault then [.crosspointProofFault] else [])
    ++ (if answers then [] else [.storeFault])

/-- The direct entry of a failing check (Table 10-4). -/
def BringUp.kind : BringUp → Option Kind
  | .ok => none
  | .converterFault => some .converterFault
  | .relayProofFault => some .relayProofFault
  | .crosspointProofFault => some .crosspointProofFault
  | .storeFault => some .storeFault

/-- The start mode (R173). -/
def startMode (config : Bool) (code : BringUp) : Mode :=
  if !config then .unconfigured else if code = .ok then .standby else .failsafe

/-- The blocks take their content from the images read (R4, R28, R68, R75, R151, R184). -/
def State.takeImages (s : State) (config plans survey : Option Stored) : State :=
  let cfg := configOf config
  let set := ((plansOf plans).getD .empty).dropVoids
  let v := surveyOf survey
  let settings := (cfg.map (·.settings)).getD .default
  { s with
    edit := settings
    work := settings
    tod := (cfg.map (·.tod)).getD []
    inUse := set
    staging := set
    cores := Vector.ofFn fun k => { CoreRun.default with hist := (v.map fun x => x.cores[k]).getD .cleared }
    survey := { s.survey with passNo := (v.map (·.passNo)).getD 0 }
    store := { s.store with config := markOf config, plans := markOf plans, survey := markOf survey } }

/-- The start mode is entered and STARTED is queued as the first notice (R173, R181). -/
def State.enterStartMode (s : State) (config plans survey : Bool) (code : BringUp) : State :=
  let m := startMode config code
  let fs := decide (m = .failsafe)
  let s := { s with mode := { ModeCtl.default with
    mode := m, bringUp := code, cause := if fs then .bringUp else .none
    style := if fs then s.work.junction.failsafeStyle else .flash } }
  s.setAspects.notify (.started code m config plans survey (decide (s.power.cause = .restart)) s.clock.valid)

/-- The start reports of the switch controller: a closed proof is an uncommanded closure or fails its supply relay (R95 to R98), in the order of log 19. -/
def State.startProofs (s : State) : State :=
  let s := s.each (allChans.filter fun c => (s.relays[c]).proof) fun c t => t.uncommanded c
  let s := if s.smc.proof then (s.setSmc SupplyRelay.fail).supplyCutFailed else s
  let s := if s.ftr.proof then s.ftrWelded else s
  s.judgeFlashBus

/-- The start values of relays, dark timers and mains (R95, R109, R119). -/
def State.startTimers (s : State) : State :=
  { s with
    relays := s.relays.map fun (r : Relay) => { r with darkSince := some s.now }
    lamps := mapIx s.lamps fun c l => { l with dark := if s.work.used c then some (s.now + 500) else none }
    mains := { s.mains with timeout := some (s.now + 15) } }

/-- The kinds a core's level implies (R151). -/
def Level.kinds : Level → List Kind
  | .ok => []
  | .warn => [.insulationWarn]
  | .low => [.insulationLow, .insulationWarn]
  | .earthFault => [.earthFault, .insulationLow, .insulationWarn]

/-- The surveyor restores the conditions of a core as already confirmed (R151), with tag NORMAL (log 80), the most severe first and CORE_UNTESTABLE last (log 19). -/
def State.restoreCore (s : State) (k : CoreId) : State :=
  let h := (s.cores[k]).hist
  let s := s.each h.level.kinds fun x t => t.confirm ⟨.core k, x⟩ .normal
  if h.untested = 3 then s.confirm ⟨.core k, .coreUntestable⟩ .normal else s

/-- The surveyor at start: conditions restored, the halt of a failed crosspoint check, or the first rolling pass (R140, R151). -/
def State.startSurvey (s : State) : State :=
  let s := s.each allCores fun k t => t.restoreCore k
  if s.power.lineFault then { s with survey := { s.survey with halted := true } }
  else (s.beginPass false).wantSelection

/-- The detector scanner at start (R75). -/
def State.startDetectors (s : State) (raw : Vector Bool 32) : State :=
  let s := { s with dets := mapIx s.dets fun d r =>
    { r with raw := raw[d], quietStart := if s.work.dets[d].kind = DetKind.disabled then none else s.fromZero s.work.dets[d].quiet } }
  s.each allDets fun d t => t.scan d

/-- The direct entries of a start: the clock, the failing checks, and FAILSAFE with cause BRING_UP, made although the mode in the bring-up is UNCONFIGURED (R71, R170, R172; log 86). -/
def State.startEntries (s : State) (checks : List BringUp) : State :=
  let s := if s.clock.valid then s else s.observe ⟨.junction, .clockInvalid⟩
  let s := s.each (checks.filterMap BringUp.kind) fun k t => t.observe ⟨.junction, k⟩
  if s.mode.mode = .failsafe then s.failsafeEntry else s

/-- Auto-start (R173). -/
def State.autoStart (s : State) : State :=
  if s.mode.mode = .standby ∧ s.work.junction.autoStart = true ∧ s.startBar = none then s.spread s.enterStartFlash
  else s

/-- The start event on a controller in its bring-up (R173). The surveyor's first selection is made before auto-start (log 73). -/
def State.startEvent (s : State) (answers : Bool) (raw : Vector Bool 32) : State :=
  let config := readImage answers .config s.store.nvConfig
  let plans := readImage answers .plans s.store.nvPlans
  let survey := readImage answers .survey s.store.nvSurvey
  let checks := s.failedChecks answers
  let code := checks.head?.getD .ok
  let t := { s with power := { s.power with phase := .running } }
  let t := (t.takeImages config plans survey).startTimers
  let t := t.enterStartMode config.isSome plans.isSome survey.isSome code
  let t := ((t.startEntries checks).judgeVoids.startProofs).startSurvey
  let t := (t.startDetectors raw).supplyCommands
  (s.spread t).autoStart.close

/-- START_EVENT (R173). -/
def execStartEvent (answers : Bool) (raw : Vector Bool 32) (s : State) : Out :=
  .next (if s.power.phase = .reading then s.startEvent answers raw else s)

end Sys2Proof.Machine
end

