-- ==== Sys2Proof/Machine/LinkEvents.lean ====
section
/-! DEFINITION. The events of the serial line: a byte, the inter-byte timeout, the taking of a queued request, the last byte of a frame sent (R175, R176, R177, R182, R185). -/

namespace Sys2Proof.Machine

/-- The effect and the answer of a request command (Table 11-2); an event is no request. -/
def State.act (i : Instr) (s : State) : Answer :=
  match i with
  | .identify _ => s.doIdentify
  | .setGroup _ g f => s.doSetGroup g f
  | .setIntergreen _ a b v => s.doSetIntergreen a b v
  | .setChannel _ c f => s.doSetChannel c f
  | .setChannelSupply _ r op rel => s.doSetChannelSupply r op rel
  | .setCore _ k cable number role => s.doSetCore k cable number role
  | .setResponse _ p r imm => s.doSetResponse p r imm
  | .setResponseJunction _ f => s.doSetJunction f
  | .commitConfig _ => s.doCommitConfig
  | .setDetector _ d f => s.doSetDetector d f
  | .setThresholds _ f => s.doSetThresholds f
  | .planWriteStage _ st gs => s.doWriteStage st gs
  | .planWriteRecord _ p f => s.doWriteRecord p f
  | .planWritePoolLength _ n => s.doWritePoolLength n
  | .planWriteEntry _ p f => s.doWriteEntry p f
  | .planWriteCopy _ c => s.doWriteCopy c
  | .commitPlans _ => s.doCommitPlans
  | .readPlan _ c i => s.doReadPlan c i
  | .todWrite _ d h m a => s.doTodWrite d h m a
  | .todDelete _ t => s.doTodDelete t
  | .setClock _ w h m x => s.doSetClock w h m x
  | .start _ => s.doStart
  | .stop _ => s.doStop
  | .resume _ => s.doResume
  | .selectPlan _ r t => s.doSelectPlan r t
  | .clearOverride _ => s.doClearOverride
  | .demand _ l => s.doDemand l
  | .learn _ => s.doLearn
  | .surveyNow _ => s.doSurveyNow
  | .cancelJob _ n => s.doCancelJob n
  | .readGroup _ g c => s.doReadGroup g c
  | .readChannel _ n => s.doReadChannel n
  | .readCore _ k c => s.doReadCore k c
  | .readDetector _ d b => s.doReadDetector d b
  | .readAlarms _ p => s.doReadAlarms p
  | .readStatus _ part p => s.doReadStatus part p
  | .ackAlarms _ => s.doAckAlarms
  | .restart _ => s.doRestart
  | .powerOn _ | .powerLoss | .referenceConversionEnd .. | .startEvent .. | .byteReceived .. | .interByteTimeout
  | .requestTaken | .frameTransmitted | .clockMinuteChange | .amberTimerExpiry _ | .redAmberStartReached _
  | .redAmberTimerExpiry _ | .greenReleaseTimeReached _ | .greenTimerExpiry | .maximumTimerExpiry | .gapTimerExpiry
  | .detectorRawChange .. | .debounceTimerExpiry _ | .stuckOnTimerExpiry _ | .quietTimerExpiry _
  | .loadProofClosed _ | .loadProofOpened _ | .operateTimerExpiry _ | .releaseTimerExpiry _
  | .crosspointWaitTimerExpiry _ | .smcProofClosed | .smcProofOpened | .smcOperateTimerExpiry
  | .smcReleaseTimerExpiry | .ftrProofClosed | .ftrProofOpened | .ftrOperateTimerExpiry | .ftrReleaseTimerExpiry
  | .mainsZeroCrossing .. | .boundaryTimeout _ | .mainsLossTimerExpiry | .mainsReturnTimerExpiry | .converterGrant
  | .settleTimerExpiry _ | .repeatTimerExpiry _ | .darkTimerExpiry _ | .learnTimeLimitExpiry | .intervalTimerExpiry
  | .windowTimerExpiry | .eligibilityTimerExpiry | .chargeTimerExpiry | .surveyorReleaseTimerExpiry
  | .crosspointLineOpened | .crosspointLineClosed | .holdTimerExpiry .. | .startFlashExpiry | .startRedExpiry
  | .endRedExpiry | .storeWriteBegin | .storeWriteComplete _ => s.refuse .unknownRequest

/-- Whether a request is the RESTART (R185). -/
def isRestart : Instr → Bool
  | .restart _ => true
  | _ => false

/-- A received request is taken: acted on and answered, or refused with the status its frame earns (R176, R177). -/
def State.serveReceived (s : State) (r : Received) : State :=
  match r.request with
  | .ok i => s.serve r.tag (State.act i) (isRestart i)
  | .error st => s.serve r.tag (fun t => t.refuse st) false

/-- The oldest request in the input queue is taken where the reply slot is empty (R176); the end of the event. -/
def State.takeOldest (s : State) : State :=
  match s.link.slot, s.link.queue with
  | none, r :: rs => State.serveReceived { s with link := { s.link with queue := rs } } r
  | _, _ => s.close

/-- BYTE_RECEIVED (R175, R176): a byte that completes a request frame has the request received, and taken where the slot is empty. -/
def execByteReceived (b : Byte) (framingError : Bool) (s : State) : Out :=
  .next
    (if s.listening then
      let (k, r) := s.link.character s.now b framingError
      let t := { s with link := k }
      match r with
      | some x => (t.receive x).takeOldest
      | none => t.close
    else s)

/-- INTER_BYTE_TIMEOUT (R175): the frame being collected is discarded. -/
def execInterByteTimeout (s : State) : Out :=
  .next
    (match s.link.rxTimer with
    | some e =>
      let t := s.elapseTo e
      State.close { t with link := { t.link with rx := none, rxTimer := none } }
    | none => s)

/-- REQUEST_TAKEN (R176): nothing where the queue is empty or the reply slot is not. -/
def execRequestTaken (s : State) : Out :=
  .next
    (match s.power.phase, s.link.slot, s.link.queue with
    | .running, none, _ :: _ => s.takeOldest
    | _, _, _ => s)

/-- FRAME_TRANSMITTED (R182): the frame in transmission has left; the slot empties with its reply, the reply of a RESTART begins the start (R185) with the rate straps last read at a POWER_ON (log 62), and the next request is taken. -/
def execFrameTransmitted (s : State) : Out :=
  .next
    (match s.link.tx with
    | none => s
    | some (.reply r) =>
      if r.restarts then s.beginStart .restart s.power.strap s.clock
      else State.takeOldest { s with link := { s.link with tx := none, slot := none } }
    | some (.busy _) | some (.notice _ _) => State.takeOldest { s with link := { s.link with tx := none } })

end Sys2Proof.Machine
end

