-- ==== Sys2Proof/Machine/MainsEvents.lean ====
section
/-! DEFINITION. The events of the mains monitor, the converter and the lamp prover's timers (R108 to R113, R121, R123, R128, R134). -/

namespace Sys2Proof.Machine

/-! ### Events of a timer -/

/-- The expiry of a timer: time passes to its deadline and its block acts; nothing while the timer is stopped (log 2). -/
def State.due (s : State) (t : Timer) (f : State → State) : State :=
  match t with
  | none => s
  | some e => (s.elapseTo e).cascade (f (s.elapseTo e))

/-- Whether the blocks are at work: from the start event on (R109, R173). -/
def State.running (s : State) : Bool := decide (s.power.phase = .running)

/-! ### Half-cycle boundaries (R109 to R113) -/

/-- Bands of a half cycle's level (R109). -/
inductive MainsBand where
  | high | low | absent
  deriving DecidableEq, Repr

/-- The band of a level in percent of nominal (R109). -/
def bandOfLevel (level : Nat) : MainsBand :=
  if 85 ≤ level then .high else if 50 ≤ level then .low else .absent

/-- Start a timer that is stopped; one that runs, runs on. -/
def startIfStopped (t : Timer) (e : Nat) : Timer := some (t.getD e)

/-- The mains monitor at a judged boundary (R110, R111). -/
def Mains.judge (m : Mains) (b : MainsBand) (now : Nat) : Mains :=
  match m.state, b with
  | .normal, .high => m
  | .normal, .low => { m with state := .dip, dips := min 65535 (m.dips + 1) }
  | .normal, .absent => { m with state := .dip, dips := min 65535 (m.dips + 1), lossTimer := some (now + 200) }
  | .dip, .high => { m with state := .normal, lossTimer := none }
  | .dip, .low => { m with lossTimer := none }
  | .dip, .absent => { m with lossTimer := startIfStopped m.lossTimer (now + 200) }
  | .loss, .high => { m with returnTimer := startIfStopped m.returnTimer (now + 2000) }
  | .loss, _ => { m with returnTimer := none }

/-- The mains monitor makes and judges a boundary; the next is made without a crossing after 15 ms, or after 10 ms where this one had none (R109). -/
def Mains.boundary (m : Mains) (level now wait : Nat) : Mains :=
  { m.judge (bandOfLevel level) now with level := level, timeout := some (now + wait) }

/-- A result is returned to its requester (R113). -/
def State.returnResult (s : State) (r : Result) : State :=
  if r.subject.lamp then s.lampResult r else s.leakResult r

/-- A boundary: the monitor acts on it, then the converter, and a completed conversion's result is returned to its requester (R109, R112, R113). -/
def State.boundary (s : State) (level : Nat) (wait : Nat) (count : BitVec 16) : State :=
  let s := { s with mains := s.mains.boundary level s.now wait, ev := { s.ev with boundary := true } }
  let (t, r) := s.convBoundary count
  match r with
  | some x => t.returnResult x
  | none => t

/-- MAINS_ZERO_CROSSING (R109). -/
def execMainsZeroCrossing (level : Nat) (count : BitVec 16) (s : State) : Out :=
  .next (if s.running then s.cascade (s.boundary level 15 count) else s)

/-- BOUNDARY_TIMEOUT (R109): the half cycle it ends is judged at 0 %. -/
def execBoundaryTimeout (count : BitVec 16) (s : State) : Out :=
  .next (s.due s.mains.timeout fun t => t.boundary 0 10 count)

/-- MAINS_LOSS_TIMER_EXPIRY (R110, R111, R169). -/
def execMainsLossTimerExpiry (s : State) : Out :=
  .next (s.due s.mains.lossTimer fun t => State.modeLoss
    { t with mains := { t.mains with
      state := MainsState.loss, lossTimer := none, returnTimer := none, losses := min 65535 (t.mains.losses + 1) } })

/-- MAINS_RETURN_TIMER_EXPIRY (R110, R111, R169). -/
def execMainsReturnTimerExpiry (s : State) : Out :=
  .next (s.due s.mains.returnTimer fun t => State.modeReturn
    { t with mains := { t.mains with state := MainsState.normal, returnTimer := none } })

/-- CONVERTER_GRANT (R108): the grant of an idle converter; every event makes it at its own end, and nothing is left for it where no request waits. -/
def execConverterGrant (s : State) : Out := .next (if s.running then s.close else s)

/-! ### The lamp prover's timers (R121, R123, R128, R134) -/

/-- SETTLE_TIMER_EXPIRY (R121). -/
def execSettleTimerExpiry (c : Chan) (s : State) : Out :=
  .next (s.due (s.lamps[c]).settle fun t => t.settleExpiry c)

/-- REPEAT_TIMER_EXPIRY (R121, R123). -/
def execRepeatTimerExpiry (c : Chan) (s : State) : Out :=
  .next (s.due (s.lamps[c]).repeatTimer fun t => t.repeatExpiry c)

/-- DARK_TIMER_EXPIRY (R128). -/
def execDarkTimerExpiry (c : Chan) (s : State) : Out :=
  .next (s.due (s.lamps[c]).dark fun t => t.darkExpiry c)

/-- The time limit of the LEARN job (R132). -/
def State.learnLimit (s : State) : Timer := (s.job? .learn).bind (·.limit)

/-- LEARN_TIME_LIMIT_EXPIRY (R134). -/
def execLearnTimeLimitExpiry (s : State) : Out :=
  .next (s.due s.learnLimit fun t => t.learnEnd .timeLimit)

end Sys2Proof.Machine
end

