-- ==== Sys2Proof/Machine/RelayEvents.lean ====
section
/-! DEFINITION. The events of the load relays and of the two supply relays: accepted proofs and timer expiries (R87 to R92, R96, R97). A proof event that repeats the accepted level changes nothing; before the start event a proof is only recorded. -/

namespace Sys2Proof.Machine

/-- LOAD_PROOF_CLOSED (R90 to R92). -/
def execLoadProofClosed (c : Chan) (s : State) : Out :=
  .next
    (if (s.relays[c]).proof then s
    else if s.running then s.cascade (s.relayClosed c)
    else s.updRelay c fun r => { r with proof := true })

/-- LOAD_PROOF_OPENED (R91). -/
def execLoadProofOpened (c : Chan) (s : State) : Out :=
  .next
    (if (s.relays[c]).proof then
      (if s.running then s.cascade (s.relayOpened c) else s.updRelay c fun r => { r with proof := false })
    else s)

/-- OPERATE_TIMER_EXPIRY (R90). -/
def execOperateTimerExpiry (c : Chan) (s : State) : Out :=
  .next (s.due (s.relays[c]).opTimer fun t => t.relayOperateExpiry c)

/-- RELEASE_TIMER_EXPIRY (R91). -/
def execReleaseTimerExpiry (c : Chan) (s : State) : Out :=
  .next (s.due (s.relays[c]).relTimer fun t => t.relayReleaseExpiry c)

/-- CROSSPOINT_WAIT_TIMER_EXPIRY (R89). -/
def execCrosspointWaitTimerExpiry (c : Chan) (s : State) : Out :=
  .next (s.due (s.relays[c]).waitTimer fun t => t.waitExpiry c)

/-- SMC_PROOF_CLOSED (R96). -/
def execSmcProofClosed (s : State) : Out :=
  .next
    (if s.smc.proof then s
    else if s.running then s.cascade s.smcClosed
    else s.setSmc fun r => { r with proof := true })

/-- SMC_PROOF_OPENED (R96). -/
def execSmcProofOpened (s : State) : Out :=
  .next
    (if s.smc.proof then (if s.running then s.cascade s.smcOpened else s.setSmc fun r => { r with proof := false })
    else s)

/-- SMC_OPERATE_TIMER_EXPIRY (R96). -/
def execSmcOperateTimerExpiry (s : State) : Out := .next (s.due s.smc.opTimer State.smcOperateExpiry)

/-- SMC_RELEASE_TIMER_EXPIRY (R96). -/
def execSmcReleaseTimerExpiry (s : State) : Out := .next (s.due s.smc.relTimer State.smcReleaseExpiry)

/-- FTR_PROOF_CLOSED (R97). -/
def execFtrProofClosed (s : State) : Out :=
  .next
    (if s.ftr.proof then s
    else if s.running then s.cascade s.ftrClosed
    else s.setFtr fun r => { r with proof := true })

/-- FTR_PROOF_OPENED (R97). -/
def execFtrProofOpened (s : State) : Out :=
  .next
    (if s.ftr.proof then (if s.running then s.cascade s.ftrOpened else s.setFtr fun r => { r with proof := false })
    else s)

/-- FTR_OPERATE_TIMER_EXPIRY (R97). -/
def execFtrOperateTimerExpiry (s : State) : Out := .next (s.due s.ftr.opTimer State.ftrOperateExpiry)

/-- FTR_RELEASE_TIMER_EXPIRY (R97). -/
def execFtrReleaseTimerExpiry (s : State) : Out := .next (s.due s.ftr.relTimer State.ftrReleaseExpiry)

end Sys2Proof.Machine
end

