-- ==== Sys2Proof/Machine/SequenceEvents.lean ====
section
/-! DEFINITION. The events of the clock, the groups' and the sequence engine's timers, the detectors and the mode timer (R7, R8, R21, R22, R48, R50, R51, R69, R76, R81, R82, R167, R168). -/

namespace Sys2Proof.Machine

/-! ### The calendar clock (R69, R71) -/

/-- CLOCK_MINUTE_CHANGE (R69): the clock runs on to its next minute, and from the start event on the table is evaluated. -/
def execClockMinuteChange (s : State) : Out :=
  .next
    (if s.power.phase = .off then s
    else
      let t := s.elapseTo (s.now + s.clock.toMinute)
      if s.running then t.cascade (t.evaluateTable false) else t)

/-! ### Groups (R7, R8, R21, R22) -/

/-- AMBER_TIMER_EXPIRY (R7). -/
def execAmberTimerExpiry (g : Group) (s : State) : Out :=
  .next (s.due (s.groups[g]).amberTimer fun t => t.amberEnd g)

/-- The red-amber start still ahead of a gaining group in RED (R22). -/
def State.redAmberDue (s : State) (g : Group) : Timer :=
  let r := s.groups[g]
  if r.pendingGreen && decide (r.aspect = .red) then r.redAmberStart else none

/-- RED_AMBER_START_REACHED (R22). -/
def execRedAmberStartReached (g : Group) (s : State) : Out :=
  .next (s.due (s.redAmberDue g) fun t => t.advanceGroup g)

/-- RED_AMBER_TIMER_EXPIRY (R8): the group is commanded GREEN. -/
def execRedAmberTimerExpiry (g : Group) (s : State) : Out :=
  .next (s.due (s.groups[g]).redAmberTimer fun t => t.giveGreen g)

/-- The green-release time still ahead of a gaining group that shows no red-amber (R21). -/
def State.releaseDue (s : State) (g : Group) : Timer :=
  let r := s.groups[g]
  if r.pendingGreen && decide (r.aspect ≠ .amber) && decide (s.work.groups[g].type ≠ .vehicle) then r.greenRelease
  else none

/-- GREEN_RELEASE_TIME_REACHED (R21): the group is commanded GREEN. -/
def execGreenReleaseTimeReached (g : Group) (s : State) : Out :=
  .next (s.due (s.releaseDue g) fun t => t.giveGreen g)

/-! ### Green periods (R48, R50, R51) -/

/-- GREEN_TIMER_EXPIRY (R48, R51). -/
def execGreenTimerExpiry (s : State) : Out :=
  .next (s.due s.engine.greenTimer fun t => { t with engine := { t.engine with greenTimer := none } })

/-- A timer that has reached its end is stopped. -/
def stopIfDue (t : Timer) (now : Nat) : Timer := t.filter fun e => now < e

/-- MAXIMUM_TIMER_EXPIRY (R51): the green ends by max-out; a green timer that runs out in the same millisecond is taken with it. -/
def execMaximumTimerExpiry (s : State) : Out :=
  .next (s.due s.engine.maxTimer fun t =>
    { t with
      engine := { t.engine with maxTimer := none, greenTimer := stopIfDue t.engine.greenTimer t.now }
      ev := { t.ev with maxOut := true } })

/-- GAP_TIMER_EXPIRY (R50). -/
def execGapTimerExpiry (s : State) : Out :=
  .next (s.due s.engine.gapTimer fun t =>
    { t with engine := { t.engine with gapTimer := none, gapped := true } })

/-! ### Detectors (R76, R81, R82) -/

/-- A scan finds a level at a point of the matrix (R73, R76). -/
def State.samplePoint (s : State) (drive : Fin 8) (sense : Fin 4) (active : Bool) : State :=
  let d := detAt drive sense
  (s.updDet d fun r => { r with raw := active }).scan d

/-- DETECTOR_RAW_CHANGE (R73, R76): the level a scan finds at the point of a detector. -/
def execDetectorRawChange (d : Det) (active : Bool) (s : State) : Out :=
  .next (if s.running then (s.samplePoint (driveOf d) (senseOf d) active).close else s)

/-- DEBOUNCE_TIMER_EXPIRY (R76 to R78). -/
def execDebounceTimerExpiry (d : Det) (s : State) : Out :=
  .next (s.due (s.dets[d]).debounce fun t => t.debounceExpiry d)

/-- STUCK_ON_TIMER_EXPIRY (R81). -/
def execStuckOnTimerExpiry (d : Det) (s : State) : Out :=
  .next (s.due (s.stuckDue d) fun t => t.enterStuck d)

/-- QUIET_TIMER_EXPIRY (R82). -/
def execQuietTimerExpiry (d : Det) (s : State) : Out :=
  .next (s.due (s.quietDue d) fun t => t.enterQuiet d)

/-! ### The mode timer (R167, R168) -/

/-- The mode timer as it runs in a mode. -/
def State.modeDue (s : State) (m : Mode) : Timer := if s.mode.mode = m then s.mode.timer else none

/-- START_FLASH_EXPIRY (R167). -/
def execStartFlashExpiry (s : State) : Out := .next (s.due (s.modeDue .startFlash) State.startFlashExpiry)

/-- START_RED_EXPIRY (R167). -/
def execStartRedExpiry (s : State) : Out := .next (s.due (s.modeDue .startRed) State.startRedExpiry)

/-- END_RED_EXPIRY (R168). -/
def execEndRedExpiry (s : State) : Out := .next (s.due (s.modeDue .shutdown) State.endRedExpiry)

end Sys2Proof.Machine
end

