-- ==== Sys2Proof/Machine/StoreEvents.lean ====
section
/-! DEFINITION. The events of the store, and what the completion of a COMMIT_CONFIG or COMMIT_PLANS job does (R4, R13, R25, R41, R99, R119, R138, R159, R160, R165, R179, R184, R185). -/

namespace Sys2Proof.Machine

/-! ### A new working copy (R179) -/

/-- The running part of every group at a new working copy: the defaults of Table 1-1 but for the inhibit reasons, and the aspects of the mode in force (R4, R13). They pass through DARK, so that an aspect set afresh to the value it had is a change of aspect for the surveyor's selection (R142, log 90). -/
def State.resetGroups (s : State) : State :=
  State.setAspects { s with groups := s.groups.map fun (r : GroupRun) =>
    { GroupRun.default with
      conflictRedOut := r.conflictRedOut, hold := r.hold, greenUnavailable := r.greenUnavailable } }

/-- The void marks of the copy in use and of the pending copy, and the usability of the set in use (R25, R38). -/
def State.renewVoids (s : State) : State :=
  State.judgeVoids { s with pendingSet := s.pendingSet.map fun p => { p with set := p.set.setVoids s.work } }

/-- The proving record of one channel at a new working copy (R119). -/
def State.renewLamp (s : State) (old : Settings) (c : Chan) : State :=
  if s.work.used c then
    if old.used c then s.updLamp c fun l => { l with lampsLit := min l.lampsLit (s.work.lampCount c) }
    else if (s.relays[c]).state = .released then s.updLamp c fun l => { l with dark := some (s.now + 500) }
    else s
  else if old.used c then
    ((s.withdraw (.lit c)).withdraw (.dark c)).updLamp c fun l =>
      { l with settle := none, repeatTimer := none, dark := none, lit := .none, lampsLit := 0 }
  else s

/-- Whether two roles are of one kind, whatever their channels. -/
def sameRole : Role → Role → Bool
  | .load _, .load _ => true
  | .common, .common => true
  | .spare, .spare => true
  | .unused, .unused => true
  | _, _ => false

/-- The record of one core at a new working copy (R138). -/
def State.renewCore (s : State) (old : Settings) (k : CoreId) : State :=
  let a := old.cores[k]
  let b := s.work.cores[k]
  if a = b then s
  else
    let s := s.abandon k false
    let s := s.updCore k fun r => { r with hist := .cleared }
    let s := if b.role = .unused then s.updCore k fun r => { r with mark := .none }
      else if a.role = .unused ∧ s.survey.active = true then
        s.updCore k fun r => { r with mark := .due, abandons := 0 }
      else s
    if sameRole a.role b.role then s else s.wantSelection

/-- The conditions of a core whose configuration a commit has changed that end with its history: the three insulation conditions (R138), and CORE_UNTESTABLE with an untested-pass count of 3 (R147, log 52), in the order of log 81. -/
def State.coreEnds (s : State) (old : Settings) (k : CoreId) : List Cond :=
  if old.cores[k] = s.work.cores[k] then []
  else
    (if (s.cores[k]).hist.untested = 3 then [⟨.core k, .coreUntestable⟩] else [])
      ++ [⟨.core k, .earthFault⟩, ⟨.core k, .insulationLow⟩, ⟨.core k, .insulationWarn⟩]

/-- The lamp conditions of a channel (R159): the lit kinds, and DARK_CURRENT with them (log 56), before them (log 81). -/
def lampConds (c : Chan) : List Cond := ⟨.channel c, .darkCurrent⟩ :: litKinds c

/-- The conditions of a channel that a commit has made unused, which end with its use (R159); RED_OUT of its group with the red channel alone (log 85). -/
def State.channelEnds (s : State) (old : Settings) (c : Chan) : List Cond :=
  if old.used c && !s.work.used c then lampConds c else []

/-- The suspicions of a channel that a commit has made unused are removed (R159); that of RED_OUT goes with the condition (log 85). -/
def State.dropSuspicions (s : State) (old : Settings) (c : Chan) : State :=
  if old.used c && !s.work.used c then
    { s with faults := { s.faults with
      suspicions := s.faults.suspicions.filter fun (r : Suspicion) => !decide (r.key.source = Source.channel c) } }
  else s

/-- The inhibit reasons of every group formed afresh (R4, R14 to R16). -/
def State.renewInhibits (s : State) : State :=
  s.judgeConflictRedOut.each allGroups fun g t =>
    (t.setHold g (t.faults.responses[g] = Response.holdGroup)).setGreenUnavailable g
      ((t.relays[chanOf g 2]).state = RelayState.failedOpen)

/-- The output monitor's evidence of a group whose type has changed is set afresh from its green relay (R99). -/
def State.renewMonitor (s : State) (old : Settings) : State :=
  { s with monitor := mapIx s.monitor fun g m =>
      if old.groups[g].type = s.work.groups[g].type then m else { m with darkCurrent := false } }

/-- Each block acts on the new working copy in the completion event of a COMMIT_CONFIG (R179); `old` is the copy it replaces. All conditions that end have left the confirmed set before the patterns are re-formed, once, against the new copy (R160); they end core by core and then channel by channel, which also orders their notices (log 81). In UNCONFIGURED the mode controller enters STANDBY after the blocks have acted: what the output monitor and the patterns then find is judged, and their requests are taken, in UNCONFIGURED, where none changes the mode (R102, R170; log 83). -/
def State.newWorkingCopy (s : State) (old : Settings) : State :=
  let ends := allCores.flatMap (s.coreEnds old) ++ allChans.flatMap (s.channelEnds old)
  let s := s.resetGroups.renewVoids
  let s := s.each allChans fun c t => t.renewLamp old c
  let s := s.each allCores fun k t => t.renewCore old k
  let s := s.each allChans fun c t => t.dropSuspicions old c
  let s := s.each ends fun k t => t.dropCond k
  let s := ((s.reformAll.renewInhibits).renewMonitor old).judgeMonitor
  let s := if s.mode.mode = .standby ∧ s.work.junction.standbyDisplay ≠ old.junction.standbyDisplay then
      s.supplyCommands
    else s
  if s.mode.mode = .unconfigured then s.modeWork.enterMode .standby else s

/-- A COMMIT_CONFIG job succeeds (R4, R179). -/
def State.configCommitted (s : State) : State :=
  State.newWorkingCopy (State.endJob { s with work := s.edit } .commitConfig .ok .none) s.work

/-- A COMMIT_PLANS job succeeds (R41, R43). -/
def State.plansCommitted (s : State) (generation : Nat) : State :=
  let s := State.endJob { s with pendingSet := some ⟨s.staging.setVoids s.work, generation⟩ } .commitPlans .ok .none
  match s.mode.mode with
  | .unconfigured | .standby | .failsafe => s.adoptPending
  | .startFlash | .startRed | .running | .shutdown | .partFlash | .mainsOut => s

/-! ### The completion of a write (R41, R179, R185) -/

/-- The job that an image's writes complete. -/
def jobOf : ImageKind → JobKind
  | .config => .commitConfig
  | .plans => .commitPlans
  | .survey => .surveyNow

/-- A write whose comparison matched (R184, R185). -/
def State.writeVerified (s : State) (w : Write) : State :=
  let st := (s.store.setBlocks w.image (some (Stored.form w.image w.generation w.content))).setImage w.image
    ⟨w.generation, true⟩
  let s := State.endCond { s with store := { st with writing := none } } ⟨.image w.image, .storeWriteFailed⟩
  if w.forCommit then
    match w.image with
    | .config => s.configCommitted
    | .plans => s.plansCommitted w.generation
    | .survey => s
  else s

/-- A write whose comparison did not match (R185). -/
def State.writeFailed (s : State) (w : Write) : State :=
  let st := s.store.setImage w.image ⟨0, false⟩
  let s := State.observe { s with store := { st with writing := none } } ⟨.image w.image, .storeWriteFailed⟩
  if w.forCommit then s.endJob (jobOf w.image) .storeFailed .none else s

/-- STORE_WRITE_BEGIN (R184): the idle store takes the oldest entry; every event does so at its own end. -/
def execStoreWriteBegin (s : State) : Out :=
  .next (if s.running && s.store.writing.isNone && !s.store.queue.isEmpty then s.close else s)

/-- STORE_WRITE_COMPLETE (R185). -/
def execStoreWriteComplete (verified : Bool) (s : State) : Out :=
  .next
    (match s.store.writing with
    | none => s
    | some w => s.cascade (if verified then s.writeVerified w else s.writeFailed w))

end Sys2Proof.Machine
end

