-- ==== Sys2Proof/Machine/SurveyEvents.lean ====
section
/-! DEFINITION. The events of the cable surveyor and its proof line, and the hold timers of the fault confirmation unit (R89, R140, R142, R143, R146, R149, R158). -/

namespace Sys2Proof.Machine

/-- INTERVAL_TIMER_EXPIRY (R149): a rolling pass begins, or its start is held while one is active; nothing while the surveyor is halted. -/
def execIntervalTimerExpiry (s : State) : Out :=
  .next (s.due s.survey.interval fun t =>
    let t := { t with survey := { t.survey with interval := none } }
    if t.survey.halted then t
    else if t.survey.active then { t with survey := { t.survey with startHeld := true } }
    else (t.beginPass false).wantSelection)

/-- WINDOW_TIMER_EXPIRY (R149): the pass ends where no core is under test. -/
def execWindowTimerExpiry (s : State) : Out :=
  .next (s.due s.survey.window fun t =>
    let t := { t with survey := { t.survey with window := none } }
    if t.survey.active && t.survey.underTest.isNone then t.endPass else t)

/-- ELIGIBILITY_TIMER_EXPIRY (R142): a selection is made. -/
def execEligibilityTimerExpiry (s : State) : Out :=
  .next (s.due s.survey.eligibility fun t =>
    State.wantSelection { t with survey := { t.survey with eligibility := none } })

/-- CHARGE_TIMER_EXPIRY (R143). -/
def execChargeTimerExpiry (s : State) : Out := .next (s.due s.survey.charge State.chargeExpiry)

/-- SURVEYOR_RELEASE_TIMER_EXPIRY (R146). -/
def execSurveyorReleaseTimerExpiry (s : State) : Out := .next (s.due s.survey.release State.releaseExpiry)

/-- The accepted level of the proof line. -/
def State.setLine (s : State) (b : Bool) : State := { s with survey := { s.survey with lineClosed := b } }

/-- CROSSPOINT_LINE_OPENED (R89, R146); before the start event the level is only recorded. -/
def execCrosspointLineOpened (s : State) : Out :=
  .next
    (if s.survey.lineClosed then (if s.running then s.cascade s.lineOpened else s.setLine false)
    else s)

/-- CROSSPOINT_LINE_CLOSED (R140): the surveyor reads the line at the charge and release timers. -/
def execCrosspointLineClosed (s : State) : Out :=
  .next
    (if s.survey.lineClosed then s
    else if s.running then (s.setLine true).close
    else s.setLine true)

/-- The kind a hold timer belongs to (R158). -/
def heldKind : HeldKind → Kind
  | .lampOut => .lampOut
  | .lampPartial => .lampPartial

/-- HOLD_TIMER_EXPIRY (R158): the condition is confirmed with tag LATE. -/
def execHoldTimerExpiry (c : Chan) (kind : HeldKind) (s : State) : Out :=
  .next (s.due (s.holdTimer ⟨.channel c, heldKind kind⟩) fun t => t.confirm ⟨.channel c, heldKind kind⟩ .late)

end Sys2Proof.Machine
end

