-- ==== Sys2Proof/Machine/Dispatch.lean ====
section
/-! DEFINITION. The meaning of every command: one arm for each row of spec/opcode_table.json. -/

namespace Sys2Proof.Machine

/-- The effect of a command on everything but the queue. -/
def exec (i : Instr) (s : State) : Host.Outcome State Fault Refusal :=
  match i with
  | .powerOn rate => Sys2Proof.Machine.execPowerOn rate s
  | .powerLoss => Sys2Proof.Machine.execPowerLoss s
  | .referenceConversionEnd count loads smc ftr line => Sys2Proof.Machine.execReferenceConversionEnd count loads smc ftr line s
  | .startEvent storeAnswers raw => Sys2Proof.Machine.execStartEvent storeAnswers raw s
  | .byteReceived b framingError => Sys2Proof.Machine.execByteReceived b framingError s
  | .interByteTimeout => Sys2Proof.Machine.execInterByteTimeout s
  | .requestTaken => Sys2Proof.Machine.execRequestTaken s
  | .frameTransmitted => Sys2Proof.Machine.execFrameTransmitted s
  | .identify tag => Sys2Proof.Machine.execIdentify tag s
  | .setGroup tag g f => Sys2Proof.Machine.execSetGroup tag g f s
  | .setIntergreen tag a b value => Sys2Proof.Machine.execSetIntergreen tag a b value s
  | .setChannel tag c f => Sys2Proof.Machine.execSetChannel tag c f s
  | .setChannelSupply tag r operateLimit releaseLimit => Sys2Proof.Machine.execSetChannelSupply tag r operateLimit releaseLimit s
  | .setCore tag k cable number role => Sys2Proof.Machine.execSetCore tag k cable number role s
  | .setResponse tag pattern r immediate => Sys2Proof.Machine.execSetResponse tag pattern r immediate s
  | .setResponseJunction tag f => Sys2Proof.Machine.execSetResponseJunction tag f s
  | .commitConfig tag => Sys2Proof.Machine.execCommitConfig tag s
  | .setDetector tag d f => Sys2Proof.Machine.execSetDetector tag d f s
  | .setThresholds tag f => Sys2Proof.Machine.execSetThresholds tag f s
  | .planWriteStage tag st groups => Sys2Proof.Machine.execPlanWriteStage tag st groups s
  | .planWriteRecord tag position f => Sys2Proof.Machine.execPlanWriteRecord tag position f s
  | .planWritePoolLength tag length => Sys2Proof.Machine.execPlanWritePoolLength tag length s
  | .planWriteEntry tag p f => Sys2Proof.Machine.execPlanWriteEntry tag p f s
  | .planWriteCopy tag source => Sys2Proof.Machine.execPlanWriteCopy tag source s
  | .commitPlans tag => Sys2Proof.Machine.execCommitPlans tag s
  | .readPlan tag copy item => Sys2Proof.Machine.execReadPlan tag copy item s
  | .todWrite tag days hour minute action => Sys2Proof.Machine.execTodWrite tag days hour minute action s
  | .todDelete tag target => Sys2Proof.Machine.execTodDelete tag target s
  | .setClock tag weekday hour minute second => Sys2Proof.Machine.execSetClock tag weekday hour minute second s
  | .start tag => Sys2Proof.Machine.execStart tag s
  | .stop tag => Sys2Proof.Machine.execStop tag s
  | .resume tag => Sys2Proof.Machine.execResume tag s
  | .selectPlan tag ref timing => Sys2Proof.Machine.execSelectPlan tag ref timing s
  | .clearOverride tag => Sys2Proof.Machine.execClearOverride tag s
  | .demand tag stages => Sys2Proof.Machine.execDemand tag stages s
  | .learn tag => Sys2Proof.Machine.execLearn tag s
  | .surveyNow tag => Sys2Proof.Machine.execSurveyNow tag s
  | .cancelJob tag number => Sys2Proof.Machine.execCancelJob tag number s
  | .readGroup tag g copy => Sys2Proof.Machine.execReadGroup tag g copy s
  | .readChannel tag name => Sys2Proof.Machine.execReadChannel tag name s
  | .readCore tag k copy => Sys2Proof.Machine.execReadCore tag k copy s
  | .readDetector tag d clearCount => Sys2Proof.Machine.execReadDetector tag d clearCount s
  | .readAlarms tag page => Sys2Proof.Machine.execReadAlarms tag page s
  | .readStatus tag part page => Sys2Proof.Machine.execReadStatus tag part page s
  | .ackAlarms tag => Sys2Proof.Machine.execAckAlarms tag s
  | .restart tag => Sys2Proof.Machine.execRestart tag s
  | .clockMinuteChange => Sys2Proof.Machine.execClockMinuteChange s
  | .amberTimerExpiry g => Sys2Proof.Machine.execAmberTimerExpiry g s
  | .redAmberStartReached g => Sys2Proof.Machine.execRedAmberStartReached g s
  | .redAmberTimerExpiry g => Sys2Proof.Machine.execRedAmberTimerExpiry g s
  | .greenReleaseTimeReached g => Sys2Proof.Machine.execGreenReleaseTimeReached g s
  | .greenTimerExpiry => Sys2Proof.Machine.execGreenTimerExpiry s
  | .maximumTimerExpiry => Sys2Proof.Machine.execMaximumTimerExpiry s
  | .gapTimerExpiry => Sys2Proof.Machine.execGapTimerExpiry s
  | .detectorRawChange d active => Sys2Proof.Machine.execDetectorRawChange d active s
  | .debounceTimerExpiry d => Sys2Proof.Machine.execDebounceTimerExpiry d s
  | .stuckOnTimerExpiry d => Sys2Proof.Machine.execStuckOnTimerExpiry d s
  | .quietTimerExpiry d => Sys2Proof.Machine.execQuietTimerExpiry d s
  | .loadProofClosed c => Sys2Proof.Machine.execLoadProofClosed c s
  | .loadProofOpened c => Sys2Proof.Machine.execLoadProofOpened c s
  | .operateTimerExpiry c => Sys2Proof.Machine.execOperateTimerExpiry c s
  | .releaseTimerExpiry c => Sys2Proof.Machine.execReleaseTimerExpiry c s
  | .crosspointWaitTimerExpiry c => Sys2Proof.Machine.execCrosspointWaitTimerExpiry c s
  | .smcProofClosed => Sys2Proof.Machine.execSmcProofClosed s
  | .smcProofOpened => Sys2Proof.Machine.execSmcProofOpened s
  | .smcOperateTimerExpiry => Sys2Proof.Machine.execSmcOperateTimerExpiry s
  | .smcReleaseTimerExpiry => Sys2Proof.Machine.execSmcReleaseTimerExpiry s
  | .ftrProofClosed => Sys2Proof.Machine.execFtrProofClosed s
  | .ftrProofOpened => Sys2Proof.Machine.execFtrProofOpened s
  | .ftrOperateTimerExpiry => Sys2Proof.Machine.execFtrOperateTimerExpiry s
  | .ftrReleaseTimerExpiry => Sys2Proof.Machine.execFtrReleaseTimerExpiry s
  | .mainsZeroCrossing level count => Sys2Proof.Machine.execMainsZeroCrossing level count s
  | .boundaryTimeout count => Sys2Proof.Machine.execBoundaryTimeout count s
  | .mainsLossTimerExpiry => Sys2Proof.Machine.execMainsLossTimerExpiry s
  | .mainsReturnTimerExpiry => Sys2Proof.Machine.execMainsReturnTimerExpiry s
  | .converterGrant => Sys2Proof.Machine.execConverterGrant s
  | .settleTimerExpiry c => Sys2Proof.Machine.execSettleTimerExpiry c s
  | .repeatTimerExpiry c => Sys2Proof.Machine.execRepeatTimerExpiry c s
  | .darkTimerExpiry c => Sys2Proof.Machine.execDarkTimerExpiry c s
  | .learnTimeLimitExpiry => Sys2Proof.Machine.execLearnTimeLimitExpiry s
  | .intervalTimerExpiry => Sys2Proof.Machine.execIntervalTimerExpiry s
  | .windowTimerExpiry => Sys2Proof.Machine.execWindowTimerExpiry s
  | .eligibilityTimerExpiry => Sys2Proof.Machine.execEligibilityTimerExpiry s
  | .chargeTimerExpiry => Sys2Proof.Machine.execChargeTimerExpiry s
  | .surveyorReleaseTimerExpiry => Sys2Proof.Machine.execSurveyorReleaseTimerExpiry s
  | .crosspointLineOpened => Sys2Proof.Machine.execCrosspointLineOpened s
  | .crosspointLineClosed => Sys2Proof.Machine.execCrosspointLineClosed s
  | .holdTimerExpiry c kind => Sys2Proof.Machine.execHoldTimerExpiry c kind s
  | .startFlashExpiry => Sys2Proof.Machine.execStartFlashExpiry s
  | .startRedExpiry => Sys2Proof.Machine.execStartRedExpiry s
  | .endRedExpiry => Sys2Proof.Machine.execEndRedExpiry s
  | .storeWriteBegin => Sys2Proof.Machine.execStoreWriteBegin s
  | .storeWriteComplete verified => Sys2Proof.Machine.execStoreWriteComplete verified s

end Sys2Proof.Machine
end

