-- ==== Sys2Proof/Machine/Time.lean ====
section
/-! DEFINITION. Time without a command: what happens on an empty queue (log 1). A timer that has run out gives its expiry, in the order of spec/opcode_table.json; otherwise one millisecond passes. -/

namespace Sys2Proof.Machine

/-- A timer with the command of its expiry. -/
abbrev Expiry := Timer × Instr

/-- The timers of the groups and of the sequence engine (R7, R8, R21, R22, R48, R50, R51). -/
def State.engineExpiries (s : State) : List Expiry :=
  (allGroups.map fun g => ((s.groups[g]).amberTimer, Instr.amberTimerExpiry g))
    ++ (allGroups.map fun g => (s.redAmberDue g, Instr.redAmberStartReached g))
    ++ (allGroups.map fun g => ((s.groups[g]).redAmberTimer, Instr.redAmberTimerExpiry g))
    ++ (allGroups.map fun g => (s.releaseDue g, Instr.greenReleaseTimeReached g))
    ++ [(s.engine.greenTimer, Instr.greenTimerExpiry), (s.engine.maxTimer, Instr.maximumTimerExpiry),
        (s.engine.gapTimer, Instr.gapTimerExpiry)]

/-- The timers of the detectors (R76, R81, R82). -/
def State.detectorExpiries (s : State) : List Expiry :=
  (allDets.map fun d => ((s.dets[d]).debounce, Instr.debounceTimerExpiry d))
    ++ (allDets.map fun d => (s.stuckDue d, Instr.stuckOnTimerExpiry d))
    ++ (allDets.map fun d => (s.quietDue d, Instr.quietTimerExpiry d))

/-- The timers of the relays (R89 to R91, R96, R97). -/
def State.relayExpiries (s : State) : List Expiry :=
  (allChans.map fun c => ((s.relays[c]).opTimer, Instr.operateTimerExpiry c))
    ++ (allChans.map fun c => ((s.relays[c]).relTimer, Instr.releaseTimerExpiry c))
    ++ (allChans.map fun c => ((s.relays[c]).waitTimer, Instr.crosspointWaitTimerExpiry c))
    ++ [(s.smc.opTimer, Instr.smcOperateTimerExpiry), (s.smc.relTimer, Instr.smcReleaseTimerExpiry),
        (s.ftr.opTimer, Instr.ftrOperateTimerExpiry), (s.ftr.relTimer, Instr.ftrReleaseTimerExpiry)]

/-- The timers of the mains monitor and of the lamp prover (R109, R110, R121, R128, R132). A boundary that falls without a crossing carries a count of the converter that is free (log 8). -/
def State.lampExpiries (s : State) : List Expiry :=
  [(s.mains.timeout, Instr.boundaryTimeout (Config.converterCount s.freeUses)),
    (s.mains.lossTimer, Instr.mainsLossTimerExpiry), (s.mains.returnTimer, Instr.mainsReturnTimerExpiry)]
    ++ (allChans.map fun c => ((s.lamps[c]).settle, Instr.settleTimerExpiry c))
    ++ (allChans.map fun c => ((s.lamps[c]).repeatTimer, Instr.repeatTimerExpiry c))
    ++ (allChans.map fun c => ((s.lamps[c]).dark, Instr.darkTimerExpiry c))
    ++ [(s.learnLimit, Instr.learnTimeLimitExpiry)]

/-- The timers of the surveyor, the hold timers and the mode timer (R142, R143, R146, R149, R158, R167, R168). -/
def State.surveyExpiries (s : State) : List Expiry :=
  [(s.survey.interval, Instr.intervalTimerExpiry), (s.survey.window, Instr.windowTimerExpiry),
    (s.survey.eligibility, Instr.eligibilityTimerExpiry), (s.survey.charge, Instr.chargeTimerExpiry),
    (s.survey.release, Instr.surveyorReleaseTimerExpiry)]
    ++ (allChans.map fun c => (s.holdTimer ⟨.channel c, .lampOut⟩, Instr.holdTimerExpiry c .lampOut))
    ++ (allChans.map fun c => (s.holdTimer ⟨.channel c, .lampPartial⟩, Instr.holdTimerExpiry c .lampPartial))
    ++ [(s.modeDue .startFlash, Instr.startFlashExpiry), (s.modeDue .startRed, Instr.startRedExpiry),
        (s.modeDue .shutdown, Instr.endRedExpiry)]

/-- Every running timer with the command of its expiry, in the order of spec/opcode_table.json. -/
def State.expiries (s : State) : List Expiry :=
  (Link.rxTimer s.link, Instr.interByteTimeout)
    :: (s.engineExpiries ++ s.detectorExpiries ++ s.relayExpiries ++ s.lampExpiries ++ s.surveyExpiries)

/-- The first expiry that is due. -/
def State.firstDue (s : State) : Option Instr :=
  (s.expiries.find? fun x => x.1.any (· ≤ s.now)).map (·.2)

/-- An empty queue (log 1): without power nothing happens; at the end of the reference conversion time waits for its count; a due timer gives its expiry; otherwise a millisecond passes, and the minute with it where it ends one. The answer holds the command that time itself gives. -/
def State.idle (s : State) : State × Option Instr :=
  match s.power.phase with
  | .off => (s, none)
  | .reference => (if s.meas.refEnd.any (· ≤ s.now) then s else s.elapseTo (s.now + 1), none)
  | .reading => (s.elapseTo (s.now + 1), none)
  | .running =>
    match s.firstDue with
    | some c => ({ s with freeUses := s.freeUses + 1 }, some c)
    | none => if s.clock.toMinute = 1 then (s, some .clockMinuteChange) else (s.elapseTo (s.now + 1), none)

end Sys2Proof.Machine
end

