-- ==== Sys2Proof/Safety.lean ====
section
/-! DEFINITION. What counts as a sound and as a safe state, in the terms the statements use: the bounds of the tables and queues, the rest of a block before its start event, the conflict law of the sequence engine; and how a request is answered. -/

namespace Sys2Proof.Machine

/-! ### A start (R172) -/

/-- A controller to which nothing has happened since its start began, but the reading of the proofs at the end of the reference conversion (R172): the link, the fault confirmation unit, the output monitor, the engine and the supply and load relays stand at their start values, and a closed proof is a failed proof check. -/
structure State.Fresh (s : State) : Prop where
  link    : s.link = .default
  ev      : s.ev = .none
  faults  : s.faults = .default
  monitor : s.monitor = .replicate 16 .default
  engine  : s.engine = .default
  set     : s.pendingSet = none
  handed  : s.handed = .replicate 16 .dark
  groups  : s.groups = .replicate 16 .default
  dets    : s.dets = .replicate 32 .default
  lamps   : s.lamps = .replicate 48 .default
  relays  : ∀ c : Chan, s.relays[c] = { Relay.default with proof := (s.relays[c]).proof }
  supply  : s.smc = { SupplyRelay.default with proof := s.smc.proof } ∧ s.ftr = { SupplyRelay.default with proof := s.ftr.proof }
  bus     : s.flashBus = false
  proofs  : s.power.proofFault = false → s.smc.proof = false ∧ s.ftr.proof = false ∧ ∀ c : Chan, (s.relays[c]).proof = false

/-! ### How a request is answered (R176) -/

/-- A request that arrives now is taken in its own event: the link listens, the input queue and the reply slot are empty (R176). -/
def State.takes (s : State) : Prop :=
  s.listening = true ∧ s.link.queue = [] ∧ s.link.slot = none

/-- The edit copy may be written: the mode is UNCONFIGURED or STANDBY, and no COMMIT_CONFIG job stands in the job table (R2). -/
def State.editable (s : State) : Prop :=
  (s.mode.mode = .unconfigured ∨ s.mode.mode = .standby) ∧ s.hasJob .commitConfig = false

/-- The requests that write the edit copy (R2, R10, R87, R138, R161, R165). -/
def writesEdit : Instr → Bool
  | .setGroup .. | .setIntergreen .. | .setChannel .. | .setChannelSupply .. | .setCore .. | .setResponse ..
  | .setResponseJunction .. => true
  | _ => false

/-- Every field of a write of the edit copy lies in its range (R2, R10, R87, R117, R138, R161, R165). -/
def fieldsInRange : Instr → Prop
  | .setGroup _ g f => 1 ≤ g ∧ g ≤ 16 ∧ 30 ≤ f.amber ∧ f.amber ≤ 50 ∧ f.redAmber ≤ 30 ∧ ∃ t, f.type = some t
      ∧ (typeUses t 0 = true → 1 ≤ f.lampsRed ∧ f.lampsRed ≤ 4 ∧ 1 ≤ f.rmin ∧ f.rmin ≤ f.lampsRed)
      ∧ (typeUses t 1 = true → 1 ≤ f.lampsAmber ∧ f.lampsAmber ≤ 4)
      ∧ (typeUses t 2 = true → 1 ≤ f.lampsGreen ∧ f.lampsGreen ≤ 4)
  | .setIntergreen _ a b v => 1 ≤ a ∧ a ≤ 16 ∧ 1 ≤ b ∧ b ≤ 16 ∧ ∀ x, v = some x → 10 ≤ x ∧ x ≤ 300
  | .setChannel _ c f => 1 ≤ c ∧ c ≤ 48 ∧ f.lamp ≠ none ∧ 20 ≤ f.nominal ∧ f.nominal ≤ 3000
      ∧ 10 ≤ f.operateLimit ∧ f.operateLimit ≤ 200 ∧ 10 ≤ f.releaseLimit ∧ f.releaseLimit ≤ 200
  | .setChannelSupply _ _ op rel => 10 ≤ op ∧ op ≤ 200 ∧ 10 ≤ rel ∧ rel ≤ 200
  | .setCore _ k cable number role => 1 ≤ k ∧ k ≤ 64 ∧ 1 ≤ cable ∧ cable ≤ 8 ∧ 1 ≤ number ∧ number ≤ 16
      ∧ role ≠ .other ∧ ∀ c, role = .load c → 1 ≤ c ∧ c ≤ 48
  | .setResponse _ p r _ => p < 32 ∧ r ≠ none ∧ (p = 0 → r = some .none)
  | .setResponseJunction _ f => f.standbyDisplay ≠ none ∧ f.failsafeStyle ≠ none ∧ f.autoStart ≠ none
      ∧ 50 ≤ f.startFlash ∧ f.startFlash ≤ 600 ∧ 30 ≤ f.startRed ∧ f.startRed ≤ 100 ∧ 20 ≤ f.endRed ∧ f.endRed ≤ 100
  | _ => False

/-- The requests that only read: every reading request but a READ_DETECTOR that clears its count and the STORE part of READ_STATUS. -/
def onlyReads : Instr → Bool
  | .identify _ | .readPlan .. | .readGroup .. | .readChannel .. | .readCore .. | .readAlarms .. => true
  | .readDetector _ _ clear => !clear
  | .readStatus _ part _ => decide (part ≠ .store)
  | _ => false

/-- The end of the event in which a request has been taken: its reply is placed in the slot, and the event closes (R176). -/
def State.replied (s : State) (tag : Byte) (st : Status) (b : ReplyBody) : State :=
  (s.putReply ⟨tag, st, b, false⟩).close

/-- The receiver over a list of characters without framing errors, with the frames they complete (R175). -/
def Link.characters (k : Link) (now : Nat) : List Byte → Link × List Received
  | [] => (k, [])
  | b :: bs =>
    let x := k.character now b false
    let y := x.1.characters now bs
    (y.1, x.2.toList ++ y.2)

/-! ### The failing items of a validation (R12, R40, R138) -/

/-- A result names an item of a configuration that fails its check of Table 1-6 or of R138, and that stands at a place in the order of the validation: the number of the check (6 and 7 for those of R138), then the groups or cores. -/
def Settings.Fails (cfg : Settings) (place : List Nat) : JobResult → Prop
  | .noGroups => place = [1] ∧ ∀ g : Group, cfg.groups[g].type = .unused
  | .igSelf i => place = [2, i.val] ∧ cfg.ig[i][i] ≠ none
  | .igAsymmetric i j => place = [3, i.val, j.val] ∧ i < j ∧ ¬ (cfg.ig[i][j] = none ↔ cfg.ig[j][i] = none)
  | .igUnusedGroup i j => place = [4, i.val, j.val] ∧ i < j
      ∧ (cfg.groups[i].type = .unused ∨ cfg.groups[j].type = .unused) ∧ (cfg.ig[i][j] ≠ none ∨ cfg.ig[j][i] ≠ none)
  | .igBelowAmber i j => place = [5, i.val, j.val] ∧ cfg.groups[i].type = .vehicle
      ∧ ∃ t, cfg.ig[i][j] = some t ∧ t < cfg.groups[i].amber
  | .coreDuplicate k l => place = [6, k.val, l.val] ∧ k < l ∧ cfg.cores[k].role ≠ .unused ∧ cfg.cores[l].role ≠ .unused
      ∧ cfg.cores[k].cable = cfg.cores[l].cable ∧ cfg.cores[k].number = cfg.cores[l].number
  | .coreChannelUnused k c => place = [7, k.val] ∧ cfg.cores[k].role = .load c ∧ cfg.used c = false
  | _ => False

/-- A result names an item of a plan set that fails its check of Table 2-5 under a configuration, and that stands at a place in the order of the validation: checks 5 to 7 plan by plan, check 5 first and then record by record. -/
def PlanSet.Fails (ps : PlanSet) (cfg : Settings) (place : List Nat) : JobResult → Prop
  | .stageUnusedGroup st g => place = [1, st.val, g.val] ∧ ps.stages[st].groups[g] = true ∧ cfg.groups[g].type = .unused
  | .stageConflict st i j => place = [2, st.val, i.val, j.val] ∧ i < j ∧ ps.stages[st].groups[i] = true
      ∧ ps.stages[st].groups[j] = true ∧ cfg.ig[i][j] ≠ none
  | .baseAbsent => place = [3] ∧ ps.dir[(0 : Fin 16)] = none
  | .baseInvalid => place = [4] ∧ ∃ e, ps.dir[(0 : Fin 16)] = some e ∧ e.valid = false
  | .entryBounds p => place = [5, p.val] ∧ ∃ e, ps.dir[p] = some e ∧ e.valid = true
      ∧ (ps.pool.length < e.first + e.count - 1 ∨ e.count < e.start)
  | .fixedGreenShort p position => ∃ e i r, place = [5, p.val, i, 6] ∧ position = e.first + i ∧ i < e.count
      ∧ ps.dir[p] = some e ∧ e.valid = true ∧ ps.pool[e.first + i - 1]? = some r ∧ e.kind = .fixed ∧ r.min < 50
  | .stageUndefined p position => ∃ e i, place = [5, p.val, i, 7] ∧ position = e.first + i ∧ i < e.count
      ∧ ps.dir[p] = some e ∧ e.valid = true ∧ ∀ r, ps.pool[e.first + i - 1]? = some r →
        ∀ st, r.stage = some st → ∀ g : Group, ps.stages[st].groups[g] = false
  | _ => False

/-! ### The outcome of a decision (R49, R52, R54) -/

/-- Record i of a plan is r, it qualifies, and it is the first from an index on that does (R49, R52). -/
def State.firstOf (s : State) (p : ResolvedPlan) (first i : Nat) (r : ResolvedRecord) : Prop :=
  first ≤ i ∧ p.records[i - 1]? = some r ∧ s.qualifies r = true
    ∧ ∀ j x, first ≤ j → j < i → p.records[j - 1]? = some x → s.qualifies x = false

/-- A group's record when it is given green (R8, R19, R20). -/
def GroupRun.given (r : GroupRun) : GroupRun :=
  { r with aspect := .green, pendingGreen := false, redAmberTimer := none, greenRelease := none
           redAmberStart := none, greenMark := true }

/-- A set of groups holds no two that conflict. -/
def Settings.Peaceful (cfg : Settings) (gs : GroupSet) : Prop :=
  ∀ i j : Group, i ≠ j → gs[i] = true → gs[j] = true → cfg.conflict i j = false

/-- A group is green-eligible: in use, with no inhibit reason (R17). -/
def State.MayGain (s : State) (g : Group) : Prop :=
  s.work.groups[g].type ≠ .unused ∧ (s.groups[g]).conflictRedOut = false ∧ (s.groups[g]).hold = false
    ∧ (s.groups[g]).greenUnavailable = false

/-- The last green-off time of a group once the greens outside the groups of a record have ended now (R20, R21). -/
def State.greenOff (s : State) (r : ResolvedRecord) (i : Group) : Option Nat :=
  if (s.groups[i]).aspect = .green ∧ r.groups[i] = false then some s.now else (s.groups[i]).lastGreenOff

/-- x is the green-release time of group j in a change to the groups of record r decided now: the latest of now, of last green-off plus intergreen over the conflicting groups with the mark, and of the group's own amber expiry (R21). -/
def State.ReleasesAt (s : State) (r : ResolvedRecord) (j : Group) (x : Nat) : Prop :=
  IsGreatest { y | y = s.now
    ∨ (∃ (i : Group) (ig off : Nat), s.work.ig[i][j] = some ig ∧ (s.groups[i]).greenMark = true
        ∧ s.greenOff r i = some off ∧ y = off + 100 * ig)
    ∨ ((s.groups[j]).aspect = .amber ∧ (s.groups[j]).amberTimer = some y) } x

/-- y is the red-amber start of group j whose green-release time is x: the latest of now, of x less the red-amber time, and of the group's own amber expiry; none but for a VEHICLE group (R22). -/
def State.RedAmberAt (s : State) (j : Group) (x : Nat) : Option Nat → Prop
  | none => s.work.groups[j].type ≠ .vehicle
  | some y => s.work.groups[j].type = .vehicle ∧ IsGreatest { z | z = s.now ∨ z + 100 * s.work.groups[j].redAmber = x
      ∨ ((s.groups[j]).aspect = .amber ∧ (s.groups[j]).amberTimer = some z) } y

/-- What a decision makes of a group g that gains in a change to the groups of record r: its times are stored; in AMBER it waits for its amber expiry, else it is given green where its green-release time is now, or shown RED_AMBER where its red-amber start is now (R19, R21, R22, R56). A group that has lost its last inhibit reason in this event is not given green in it (R18 as read by inference, log 66). -/
def State.Gains (s t : State) (r : ResolvedRecord) (g : Group) : Prop :=
  ∃ x start, s.ReleasesAt r g x ∧ s.RedAmberAt g x start ∧
    let p : GroupRun := { s.groups[g] with pendingGreen := true, greenRelease := some x, redAmberStart := start }
    (((s.groups[g]).aspect = .amber ∨ (s.now < x ∧ start ≠ some s.now)) → t.groups[g] = p)
    ∧ ((s.groups[g]).aspect ≠ .amber → x = s.now → t.groups[g] = if g ∈ s.ev.freed then p else p.given)
    ∧ ((s.groups[g]).aspect = .red → s.now < x → start = some s.now →
        t.groups[g] = { p with aspect := .redAmber, redAmberTimer := some x })

/-- What a decision makes of a state that takes record i of the current plan, r: of the stage in force a new green period begins, with no group's aspect changed and no stage change under way (R47, R54); of another stage a change toward it begins, in which every green outside the stage ends and every green of it stays, every other group of it that is green-eligible gains, and is held as a gaining group of the change, and the rest are unchanged (R19, R54, R56); the times of a gaining group are stated for a record whose groups do not conflict, as those of every record of a lawful state's current plan do not (R25). -/
def State.Takes (s t : State) (i : Nat) (r : ResolvedRecord) : Prop :=
  t.engine.record = some i ∧ t.engine.stage = some (r.stage.val + 1) ∧ t.engine.maxTimer = none
  ∧ (s.engine.inForce = r.stage.val + 1 →
      t.engine.state = .green ∧ t.engine.greenTimer = some (s.now + 100 * r.min)
      ∧ t.engine.prevStage = none ∧ (∀ g : Group, t.engine.gaining[g] = false)
      ∧ t.engine.demands = s.engine.demands.set r.stage false ∧ t.groups = s.groups)
  ∧ (s.engine.inForce ≠ r.stage.val + 1 →
      t.engine.state = .changing ∧ t.engine.prevStage = some s.engine.inForce
      ∧ t.engine.greenTimer = none ∧ t.engine.gapTimer = none
      ∧ (∀ g : Group, t.engine.gaining[g] = true ↔ (s.groups[g]).aspect ≠ .green ∧ r.groups[g] = true ∧ s.MayGain g)
      ∧ (∀ g : Group, (s.groups[g]).aspect = .green → r.groups[g] = false →
          (t.groups[g]).aspect ≠ .green ∧ (t.groups[g]).lastGreenOff = some s.now)
      ∧ (∀ g : Group, (s.groups[g]).aspect = .green → r.groups[g] = true → t.groups[g] = s.groups[g])
      ∧ (s.work.Peaceful r.groups → ∀ g : Group, (s.groups[g]).aspect ≠ .green → r.groups[g] = true → s.MayGain g →
          s.Gains t r g)
      ∧ ∀ g : Group, (s.groups[g]).aspect ≠ .green → (r.groups[g] = false ∨ ¬ s.MayGain g) → t.groups[g] = s.groups[g])

/-- What a decision makes of a state in which no record qualifies: the current record stays, the timers are stopped and no stage change is under way; the engine rests while a group of the current stage is GREEN, and goes to ALL_RED with stage 0 otherwise (R54). -/
def State.TakesNone (s t : State) : Prop :=
  t.engine.plan = s.engine.plan ∧ t.engine.record = s.engine.record ∧ t.groups = s.groups
  ∧ t.engine.greenTimer = none ∧ t.engine.maxTimer = none ∧ t.engine.gapTimer = none
  ∧ t.engine.prevStage = none ∧ (∀ g : Group, t.engine.gaining[g] = false)
  ∧ ((∃ g : Group, (s.stageGroups (s.engine.stage.getD 0))[g] = true ∧ (s.groups[g]).aspect = .green) →
      t.engine.state = .resting ∧ t.engine.stage = s.engine.stage)
  ∧ ((∀ g : Group, (s.stageGroups (s.engine.stage.getD 0))[g] = true → (s.groups[g]).aspect ≠ .green) →
      t.engine.state = .allRed ∧ t.engine.stage = some 0)

/-! ### A PROMPT change (R37, R64) -/

/-- What the entering of a plan q, just translated, makes of a state: the conditions that its translation ends aside, which are reported, the plan is current with no record, the green period is over with its timers stopped, the notice is queued, and a decision is taken (R64, R66). -/
def State.Enters (s t : State) (q : ResolvedPlan) (cause : PlanCause) : Prop :=
  ∃ v : State, t = (v.notify (.planChanged (some ⟨q.number, q.tag, q.kind⟩) s.engine.source cause none)).takeDecision.mark
    ∧ v = { s with
        engine := { s.engine with
          plan := some q, record := none, greenTimer := none, maxTimer := none, gapTimer := none, gapped := false }
        ev := { s.ev with maxOut := false }, faults := v.faults, link := v.link }

/-- What the taking of a PROMPT change makes of a state: the change is no longer pending; its plan is entered where its reference translates; otherwise the failure is reported and the current plan continues, and where no plan is current the base reference is translated instead, and P1 entered or its failure reported (R37, R64; R37's effect at a PROMPT change is read by inference, log 54). -/
def State.PromptTaken (s t : State) (c : PendingChange) : Prop :=
  let b : State := { s with engine := { s.engine with change := none } }
  (∀ q, s.inUse.translate c.ref = .ok q → b.Enters t q (match c.origin with
    | .link => .link
    | .timeTable => .timeTable))
  ∧ ∀ k, s.inUse.translate c.ref = .error k →
    let w := b.observe ⟨.plan c.ref.plan, k⟩
    (s.engine.plan ≠ none → t = w)
    ∧ (s.engine.plan = none →
      (∀ q, s.inUse.translate ⟨1, 0⟩ = .ok q → w.Enters t q .baseFallback)
      ∧ ∀ k', s.inUse.translate ⟨1, 0⟩ = .error k' → t = w.observe ⟨.plan 1, k'⟩)

/-! ### Bounds of tables and queues -/

/-- The confirmed set, the suspicion list and the alarm list hold each key once, within 32 and 64 records, and a confirmed condition has no suspicion (R154, R155, R163). -/
def Faults.Sound (f : Faults) : Prop :=
  f.confirmed.Nodup ∧ (f.suspicions.map (·.key)).Nodup ∧ (∀ r ∈ f.suspicions, r.key ∉ f.confirmed)
    ∧ f.suspicions.length ≤ 32 ∧ f.alarms.length ≤ 64 ∧ (f.alarms.map (·.key)).Nodup

/-- The input queue holds at most 4 requests, the busy list at most 4 TAGs, the notice queue at most 16 notices, the job table one job of each kind (R176, R180, R181). -/
def Link.Sound (k : Link) : Prop :=
  k.queue.length ≤ 4 ∧ k.busy.length ≤ 4 ∧ k.notices.length ≤ 16 ∧ (k.jobs.map (·.kind)).Nodup

/-- The worst reading of a surveyed core is at most its smoothed value, and that at most 9,999,999 kilohms (R147). -/
def CoreSurvey.Sound (h : CoreSurvey) : Prop :=
  match h.smoothed with
  | none => True
  | some v => v ≤ 9999999 ∧ ∃ w, h.worst = some w ∧ w ≤ v

/-- The survey parts an image holds are sound. -/
def ImageContent.Sound : ImageContent → Prop
  | .survey x => ∀ k : CoreId, x.cores[k].Sound
  | .config _ => True
  | .plans _ => True

/-- The store request queue holds each image once (R184), and what is written or stands written of the survey is sound. -/
def Store.Sound (st : Store) : Prop :=
  st.queue.Nodup ∧ (∀ x, st.nvSurvey = some x → x.content.Sound) ∧ (∀ w, st.writing = some w → w.content.Sound)

/-- The calendar clock shows a time of the week (R71). -/
def Clock.Sound (c : Clock) : Prop :=
  1 ≤ c.weekday ∧ c.weekday ≤ 7 ∧ c.hour ≤ 23 ∧ c.minute ≤ 59 ∧ c.second ≤ 59 ∧ c.milli ≤ 999

/-- The measurement queue holds at most one request for a channel and one LEAK request (R106). -/
def Meas.Sound (m : Meas) : Prop := m.queue.Pairwise fun a b => a.subject.contends b.subject = false

/-- The lamps-lit estimate of a used channel is at most its lamp count, that of an unused one is 0; before the start event every estimate is 0 and no half-cycle boundary is awaited (R109, R119, R125). -/
def State.LampsSound (s : State) : Prop :=
  (∀ c : Chan, (s.lamps[c]).lampsLit ≤ if s.work.used c = true then s.work.lampCount c else 0)
    ∧ (s.power.phase ≠ .running → s.mains.timeout = none ∧ ∀ c : Chan, (s.lamps[c]).lampsLit = 0)

/-- The bounds that every step keeps. -/
def State.Sound (s : State) : Prop :=
  s.faults.Sound ∧ s.link.Sound ∧ s.store.Sound ∧ s.clock.Sound ∧ s.meas.Sound ∧ s.LampsSound ∧ s.lockouts ≤ 255
    ∧ ∀ k : CoreId, (s.cores[k]).hist.Sound

/-! ### The output monitor's trips (R100 to R102) -/

/-- A trip condition of a group arises: m holds what the monitor has just judged of every group, s.monitor what it had judged before (R100, R101). A green relay that the aspect last handed over still commands, and that the release command of this event will put into RELEASING, counts as releasing (log 9). -/
def State.TripArises (s : State) (m : Vector MonGroup 16) (j : Group) : Kind → Prop
  | .conflict => m[j].proven = true ∧ (s.monitor[j]).proven = false ∧ ∃ i : Group, s.work.ig[i][j] ≠ none ∧ m[i].proven = true
  | .uncommandedGreen => m[j].proven = true ∧ (s.groups[j]).aspect ≠ .green ∧ (s.relays[chanOf j 2]).state ≠ .releasing
      ∧ ¬ (s.handed[j] = .green
        ∧ ((s.relays[chanOf j 2]).state = .operated ∨ (s.relays[chanOf j 2]).state = .operating))
  | .intergreenShort => m[j].proven = true ∧ (s.monitor[j]).proven = false ∧ ∃ (i : Group) (ig e : Nat),
      s.work.ig[i][j] = some ig ∧ m[i].lastEnd = some e
        ∧ (s.now : Int) - e < 100 * ig - s.work.channels[chanOf i 2].limits.release
  | _ => False

/-- A trip condition of a group is over (R102). -/
def State.TripOver (s : State) (m : Vector MonGroup 16) (j : Group) : Kind → Prop
  | .conflict => m[j].proven = false ∨ ∀ i : Group, s.work.ig[i][j] ≠ none → m[i].proven = false
  | .uncommandedGreen => m[j].proven = false ∨ (s.groups[j]).aspect = .green
  | .intergreenShort => m[j].proven = false
  | _ => False

/-! ### The conflict law (R11) -/

/-- A group that has green commanded, or will have it in the stage change under way. -/
def GroupRun.calls (r : GroupRun) : Bool := decide (r.aspect = .green) || r.pendingGreen

/-- No two groups that conflict call for green together (R11). -/
def State.Peaceful (s : State) : Prop :=
  ∀ i j : Group, i ≠ j → (s.groups[i]).calls = true → (s.groups[j]).calls = true → s.work.conflict i j = false

/-- Every stage definition of the set in use that is not void is fit to be shown (R25). -/
def State.VoidsSet (s : State) : Prop :=
  ∀ st : Fin 16, s.inUse.stages[st].void = false → s.work.Peaceful s.inUse.stages[st].groups

/-- The conflict law, with what keeps it from event to event: the records of the current plan and the stage definitions in use are fit; a group that waits for its green does so in CHANGING, as one of the gaining groups that the engine holds, and a red-amber timer runs for such a group only; outside RUNNING the engine is OFF with no plan, and not barred from decisions; a COMMIT_CONFIG is under way only in UNCONFIGURED, STANDBY and FAILSAFE, and its write only with its job; before the start event the mode is UNCONFIGURED, no COMMIT_CONFIG is under way and no request is queued. -/
structure State.Lawful (s : State) : Prop where
  peaceful : s.Peaceful
  records  : ∀ p, s.engine.plan = some p → ∀ r ∈ p.records, s.work.Peaceful r.groups
  voids    : s.VoidsSet
  gaining  : ∀ g : Group, (s.groups[g]).pendingGreen = true → s.engine.state = .changing ∧ s.engine.gaining[g] = true
  redAmber : ∀ g : Group, (s.groups[g]).redAmberTimer ≠ none → (s.groups[g]).pendingGreen = true
  engine   : s.mode.mode ≠ .running → s.engine.state = .off ∧ s.engine.plan = none ∧ s.engine.barred = false
  commit   : s.hasJob .commitConfig = true →
    s.mode.mode = .unconfigured ∨ s.mode.mode = .standby ∨ s.mode.mode = .failsafe
  write    : ∀ w, s.store.writing = some w → w.forCommit = true → w.image = .config → s.hasJob .commitConfig = true
  start    : s.power.phase ≠ .running → s.mode.mode = .unconfigured ∧ s.hasJob .commitConfig = false ∧ s.link.queue = []

/-! ### Aspects set by the mode (R9), inhibit by a failed relay (R16) -/

/-- Outside RUNNING and SHUTDOWN every group shows the aspect of Table 1-5, its timers stopped, its green-release time none and its pending-green flag clear (R9). -/
def State.ByMode (s : State) : Prop :=
  s.mode.mode ≠ .running → s.mode.mode ≠ .shutdown → ∀ g : Group,
    modeAspect s.mode.mode s.work.junction.standbyDisplay s.mode.style s.work.groups[g].type = some (s.groups[g]).aspect
      ∧ (s.groups[g]).amberTimer = none ∧ (s.groups[g]).redAmberTimer = none ∧ (s.groups[g]).greenRelease = none
      ∧ (s.groups[g]).pendingGreen = false

/-- GREEN_UNAVAILABLE is present on a group exactly while the load relay of its green channel is in FAILED_OPEN (R16). -/
def State.GreensAvailable (s : State) : Prop :=
  ∀ g : Group, (s.groups[g]).greenUnavailable = true ↔ (s.relays[chanOf g 2]).state = .failedOpen

/-! ### The intergreen law (R20, R21) -/

/-- What keeps the intergreen times from event to event: a gaining group's green-release time is no earlier than the intergreen after the last green-off of every other group that conflicts with it and carries the mark; its red-amber timer runs to that time, and only while it shows RED_AMBER; an amber timer runs for a group in AMBER only; a group with the mark is GREEN or has a last green-off time; in START_RED no group carries the mark. -/
structure State.Timed (s : State) : Prop where
  release  : ∀ j : Group, (s.groups[j]).pendingGreen = true → ∃ x, (s.groups[j]).greenRelease = some x ∧
    ∀ (i : Group) (ig off : Nat), i ≠ j → s.work.ig[i][j] = some ig → (s.groups[i]).greenMark = true →
      (s.groups[i]).lastGreenOff = some off → off + 100 * ig ≤ x
  redAmber : ∀ (j : Group) (e : Nat), (s.groups[j]).redAmberTimer = some e → (s.groups[j]).greenRelease = some e
  redAmberAspect : ∀ g : Group, (s.groups[g]).redAmberTimer ≠ none → (s.groups[g]).aspect = .redAmber
  amber    : ∀ g : Group, (s.groups[g]).amberTimer ≠ none → (s.groups[g]).aspect = .amber
  marked   : ∀ i : Group, (s.groups[i]).greenMark = true → (s.groups[i]).aspect = .green ∨ (s.groups[i]).lastGreenOff ≠ none
  startRed : s.mode.mode = .startRed → ∀ i : Group, (s.groups[i]).greenMark = false

end Sys2Proof.Machine
end

