-- ==== Sys2Proof/Certificates/Slice0/Obligations.lean ====
section
/-! DEFINITION. The statements for the provers. In the statements about an event, t is the state at the event's time, s.elapseTo e for a timer that runs out at e: s with time carried on to e and nothing else changed, which is the model's choice of how time passes (log 2); u is the state in which the event's own block has acted; t.cascade u is what all blocks make of it by the end of the event, and an equation u = (t with some fields of u) says the frame: every field not named is as it was. -/

open Sys2Proof Sys2Proof.Machine

/-! ### The step -/

/-- A step takes the command at the front of the queue and is its meaning on the state with the rest of the queue. -/
def Obligations.StepRunsFrontCommand : Prop :=
  ∀ (c : Instr) (rest : List Instr) (s : State), s.pending = c :: rest → step s = exec c { s with pending := rest }

/-- The model's choice (log 1): what a step does on an empty queue, phase by phase of a start. -/
def Obligations.StepOnEmptyQueue : Prop :=
  ∀ s : State, s.pending = [] →
    (s.power.phase = .off → step s = .next s)
    ∧ (∀ e, s.power.phase = .reference → s.meas.refEnd = some e →
        step s = .next (if e ≤ s.now then s else s.elapseTo (s.now + 1)))
    ∧ (s.power.phase = .reading → step s = .next (s.elapseTo (s.now + 1)))
    ∧ (∀ c, s.power.phase = .running → s.firstDue = some c →
        step s = exec c { s with freeUses := s.freeUses + 1 })
    ∧ (s.power.phase = .running → s.firstDue = none → s.clock.toMinute ≠ 1 →
        step s = .next (s.elapseTo (s.now + 1)))
    ∧ (s.power.phase = .running → s.firstDue = none → s.clock.toMinute = 1 → step s = exec .clockMinuteChange s)

/-- R172, R180: right after reset the mode is UNCONFIGURED, every coil is de-energized, no job stands in the table, the reference conversion runs, and the link takes no request. -/
def Obligations.ResetState : Prop :=
  State.reset.mode.mode = .unconfigured ∧ (∀ c : Chan, (State.reset.relays[c]).coil = false)
    ∧ State.reset.smc.coil = false ∧ State.reset.ftr.coil = false ∧ State.reset.link.jobs = []
    ∧ State.reset.link.nextJob = 1 ∧ State.reset.meas.conv = .reference ∧ State.reset.meas.refEnd = some 20
    ∧ State.reset.listening = false ∧ State.reset.pending = []

/-! ### Invariants -/

/-- The bounds, the conflict law and the intergreen law hold at reset. -/
def Obligations.InvariantsAtReset : Prop :=
  State.reset.Sound ∧ State.reset.ev = .none ∧ State.reset.Lawful ∧ State.reset.Timed

/-- Every step keeps the bounds of the tables and queues (R147, R154, R155, R163, R176, R180, R181, R184), whatever command it runs and whatever time brings; and whatever the blocks pass one another within an event is spent at its end (the model's own field). -/
def Obligations.SoundKept : Prop :=
  ∀ s t : State, step s = .next t → (s.Sound → t.Sound) ∧ (s.ev = .none → t.ev = .none)

/-- Every step keeps the conflict law: no two groups whose intergreen entry is not NONE have green commanded together (R11). -/
def Obligations.LawfulKept : Prop :=
  ∀ s t : State, s.Lawful → step s = .next t →
    t.Lawful ∧ ∀ i j : Group, i ≠ j → (t.groups[i]).aspect = .green → (t.groups[j]).aspect = .green →
      t.work.ig[i][j] = none

/-- Every step keeps what the intergreen times rest on, and a group that has become GREEN in it has, of every group that conflicts with it and has been green since START_RED, the intergreen behind the last green-off (R20, R21). -/
def Obligations.IntergreenKept : Prop :=
  ∀ s t : State, s.Lawful → s.Timed → step s = .next t →
    t.Timed ∧ ∀ (i j : Group) (ig : Nat), i ≠ j → (s.groups[j]).aspect ≠ .green → (t.groups[j]).aspect = .green →
      t.work.ig[i][j] = some ig → (t.groups[i]).greenMark = true →
      ∃ off, (t.groups[i]).lastGreenOff = some off ∧ off + 100 * ig ≤ t.now

/-- R9: outside RUNNING and SHUTDOWN each group takes the aspect of Table 1-5 in the event in which the mode is entered and keeps it while the mode lasts, its amber and red-amber timers stopped, its green-release time none and its pending-green flag clear: every step of a lawful state keeps this. -/
def Obligations.ModeAspectsKept : Prop :=
  State.reset.ByMode ∧ ∀ s t : State, s.Lawful → s.ByMode → step s = .next t → t.ByMode

/-- R16: GREEN_UNAVAILABLE is present on a group while the load relay of its green channel is in FAILED_OPEN, and absent otherwise: it is so at reset, and every step keeps it so. -/
def Obligations.GreenUnavailableKept : Prop :=
  State.reset.GreensAvailable ∧ ∀ s t : State, s.GreensAvailable → step s = .next t → t.GreensAvailable

/-! ### The end of an event -/

/-- What the blocks make of an event together leaves time, the configuration, the plan set being edited, the time-of-day table, the detectors and the mains monitor as the event left them, and adds notices at the end of their queue only; at the end of every event the switch controller has been given the aspects then in force (R5). -/
def Obligations.EventFrame : Prop :=
  (∀ before after : State,
    let t := before.spread after
    t.power = after.power ∧ t.now = after.now ∧ t.clock = after.clock ∧ t.edit = after.edit ∧ t.work = after.work
      ∧ t.tod = after.tod ∧ t.staging = after.staging ∧ t.dets = after.dets ∧ t.occupied = after.occupied
      ∧ t.mains = after.mains ∧ t.freeUses = after.freeUses ∧ t.pending = after.pending
      ∧ t.link.queue = after.link.queue ∧ t.link.slot = after.link.slot ∧ t.link.tx = after.link.tx
      ∧ t.store.writing = after.store.writing ∧ ∃ l, t.link.notices = after.link.notices ++ l)
  ∧ (∀ (before after : State) (g : Group),
    (before.cascade after).handed[g] = ((before.cascade after).groups[g]).aspect)

/-- The end of an event, field by field: the idle converter is granted the chosen request, the idle store begins the oldest write, and the free transmitter takes a busy TAG, else the reply, else the oldest notice; what the blocks passed one another is cleared, and nothing else changes (R108, R112, R181, R182, R184). That the write begins as the end of the event is the model's choice (log 1), as is that the blocks hold nothing while they are written (log 11); that an image under write holds generation 0 is read from R184 (log 43). -/
def Obligations.EventEnd : Prop :=
  ∀ s : State,
    s.close = { s with meas := s.close.meas, store := s.close.store, link := s.close.link, ev := .none }
    ∧ (s.meas.queue ≠ [] → ∃ r, chooseReq s.meas.queue = some r)
    ∧ ((s.meas.conv ≠ .idle ∨ s.meas.queue = []) → s.close.meas = s.meas)
    ∧ (∀ r, s.meas.conv = .idle → chooseReq s.meas.queue = some r →
        s.close.meas = { s.meas with
          queue := s.meas.queue.erase r, range := some r.range, current := some r
          conv := if s.ev.boundary = true then .firstHalf else .armed
          dip := if s.ev.boundary = true then decide (s.mains.state = .dip) else s.meas.dip })
    ∧ (∀ f, s.link.tx = some f → s.close.link = s.link)
    ∧ (s.link.tx = none → s.link.busy = [] → s.link.slot = none → s.link.notices = [] → s.close.link = s.link)
    ∧ (∀ b bs, s.link.tx = none → s.link.busy = b :: bs →
        s.close.link = { s.link with tx := some (.busy b), busy := bs })
    ∧ (∀ r, s.link.tx = none → s.link.busy = [] → s.link.slot = some r →
        s.close.link = { s.link with tx := some (.reply r) })
    ∧ (∀ n ns, s.link.tx = none → s.link.busy = [] → s.link.slot = none → s.link.notices = n :: ns →
        s.close.link = { s.link with tx := some (.notice n s.link.lost), notices := ns, lost := false })
    ∧ ((s.store.writing ≠ none ∨ s.store.queue = []) → s.close.store = s.store)
    ∧ (∀ k ks, s.store.writing = none → s.store.queue = k :: ks →
        s.close.store = { (s.store.setBlocks k none).setImage k ⟨0, false⟩ with
          queue := ks
          writing := some
            { image := k, content := s.imageContent k
              generation := if (s.store.image k).generation = 65535 then 1 else (s.store.image k).generation + 1
              forCommit := (k = .config && s.hasJob .commitConfig) || (k = .plans && s.hasJob .commitPlans) } })
    ∧ s.imageContent .config = .config ⟨if s.hasJob .commitConfig = true then s.edit else s.work, s.tod⟩
    ∧ s.imageContent .plans = .plans s.staging
    ∧ s.imageContent .survey = .survey ⟨Vector.ofFn fun c => (s.cores[c]).hist, s.survey.passNo⟩
    ∧ (∀ (k x : ImageKind), x ≠ k →
        ((s.store.setBlocks k none).setImage k ⟨0, false⟩).image x = s.store.image x
        ∧ ((s.store.setBlocks k none).setImage k ⟨0, false⟩).blocks x = s.store.blocks x
        ∧ ((s.store.setBlocks k none).setImage k ⟨0, false⟩).image k = ⟨0, false⟩
        ∧ ((s.store.setBlocks k none).setImage k ⟨0, false⟩).blocks k = none)

/-! ### The link (spec/11) -/

/-- The receiver, given the bytes of a frame one after another, yields that frame's request and is hunting again; a frame of another KIND, or one whose CRC bytes are not the CRC of its body, yields nothing (R174, R175). -/
def Obligations.ReceiverReadsFrames : Prop :=
  ∀ (k : Link) (now : Nat) (kind tag code : Byte) (payload : List Byte), k.rx = none → payload.length ≤ 240 →
    ((k.characters now (encodeFrame 1 tag code payload)).2 = [.frame tag code payload]
      ∧ (k.characters now (encodeFrame 1 tag code payload)).1 = { k with rx := none, rxTimer := none })
    ∧ (kind ≠ 1 → (k.characters now (encodeFrame kind tag code payload)).2 = []
      ∧ (k.characters now (encodeFrame kind tag code payload)).1 = { k with rx := none, rxTimer := none })
    ∧ (∀ a b : Byte, [a, b] ≠ crcBytes (crc16 (frameBody kind tag code payload)) →
      (k.characters now (sync :: (frameBody kind tag code payload ++ [a, b]))).2 = []
      ∧ (k.characters now (sync :: (frameBody kind tag code payload ++ [a, b]))).1
          = { k with rx := none, rxTimer := none })

/-- BYTE_RECEIVED and INTER_BYTE_TIMEOUT while the link listens (R175, R176): a framing error drops the frame; while hunting only A5 hex begins one; while collecting, a byte is added, or drops the frame, or completes it, and a request it completes is received, and the oldest request waiting is then taken where the reply slot is empty, while a frame of another KIND than a request is dropped at its last byte; at the inter-byte expiry the frame is dropped. While the link does not listen a byte does nothing. That each byte starts the 20 ms from its own time, so that the expiry stands at the 21st millisecond, and that a framing error while hunting leaves it so, are read from R175 by inference (log 38). -/
def Obligations.ReceiverEvents : Prop :=
  (∀ (b : Byte) (fe : Bool) (s : State),
    (s.listening = false → exec (.byteReceived b fe) s = .next s)
    ∧ (s.listening = true → exec (.byteReceived b true) s
        = .next (State.close { s with link := { s.link with rx := none, rxTimer := none } }))
    ∧ (s.listening = true → s.link.rx = none → b ≠ 0xA5#8 → exec (.byteReceived b false) s = .next s.close)
    ∧ (s.listening = true → s.link.rx = none → exec (.byteReceived 0xA5#8 false) s
        = .next (State.close { s with link := { s.link with rx := some [], rxTimer := some (s.now + 21) } }))
    ∧ (s.listening = true → s.link.rx = some [] → 240 < b.toNat → exec (.byteReceived b false) s
        = .next (State.close { s with link := { s.link with rx := none, rxTimer := none } }))
    ∧ (∀ l x, s.listening = true → s.link.rx = some l → collect (l ++ [b]) = .more x →
        exec (.byteReceived b false) s
          = .next (State.close { s with link := { s.link with rx := some x, rxTimer := some (s.now + 21) } }))
    ∧ (∀ l, s.listening = true → s.link.rx = some l → collect (l ++ [b]) = .discard →
        exec (.byteReceived b false) s
          = .next (State.close { s with link := { s.link with rx := none, rxTimer := none } }))
    ∧ (∀ l tag code payload, s.takes → s.link.rx = some l → collect (l ++ [b]) = .whole 1 tag code payload →
        exec (.byteReceived b false) s
          = .next (State.serveReceived { s with link := { s.link with rx := none, rxTimer := none } }
              (.frame tag code payload)))
    ∧ (∀ l tag code payload, s.listening = true → s.link.rx = some l → collect (l ++ [b]) = .whole 1 tag code payload →
        let u := State.receive { s with link := { s.link with rx := none, rxTimer := none } } (.frame tag code payload)
        (s.link.slot ≠ none → exec (.byteReceived b false) s = .next u.close)
        ∧ (∀ r rs, s.link.slot = none → u.link.queue = r :: rs →
            exec (.byteReceived b false) s = .next (State.serveReceived { u with link := { u.link with queue := rs } } r)))
    ∧ (∀ l kind tag code payload, s.listening = true → s.link.rx = some l →
        collect (l ++ [b]) = .whole kind tag code payload → kind ≠ 1 →
        exec (.byteReceived b false) s
          = .next (State.close { s with link := { s.link with rx := none, rxTimer := none } })))
  ∧ (∀ (s : State) (e : Nat), s.link.rxTimer = some e →
    exec .interByteTimeout s
      = .next (State.close { s.elapseTo e with link := { s.link with rx := none, rxTimer := none } }))

/-- A request frame that has been taken (R174, R177): a CODE that names no request is answered UNKNOWN_REQUEST and a field-less request with a payload REFUSED_VALUE, with no other effect; a field-less request without payload has the effect of its command. A request with fields is the command that its payload spells, and has that command's effect: each field is a number most significant byte first, or a name whose code the number is, as shown for SET_GROUP, SET_CLOCK, CANCEL_JOB and a STAGE item; a payload of another length than the fields need, and a PLAN_WRITE item outside the five kinds, are answered REFUSED_VALUE (R30). Where the fields stand in the payload and the codes of names are free values (log 10). -/
def Obligations.FrameTaken : Prop :=
  (∀ (s : State) (tag code : Byte) (payload : List Byte),
    (code = 0 ∨ 32 < code.toNat →
      s.serveReceived (.frame tag code payload) = s.replied tag .unknownRequest .empty)
    ∧ (∀ i, plainRequest tag code.toNat = some i → payload ≠ [] →
      s.serveReceived (.frame tag code payload) = s.replied tag .refusedValue .empty)
    ∧ (∀ i, plainRequest tag code.toNat = some i → s.takes → exec i s = .next (s.serveReceived (.frame tag code [])))
    ∧ (1 ≤ code.toNat → code.toNat ≤ 32 → plainRequest tag code.toNat = none →
      (requestFields tag payload code.toNat).elim
        (s.serveReceived (.frame tag code payload) = s.replied tag .refusedValue .empty)
        fun i => requestCode i = code.toNat ∧ requestTag i = tag
          ∧ (s.takes → exec i s = .next (s.serveReceived (.frame tag code payload)))))
  ∧ (∀ (a b : List Byte) (n x : Nat), x < 256 ^ n →
    readBits (a ++ bigEndian n x ++ b) (8 * a.length) (8 * n) = some x)
  ∧ (∀ (payload : List Byte) (l : List (Option (Nat × Nat))), (∀ o w, some (o, w) ∈ l → o + w ≤ 8 * payload.length) →
    readPlaces payload l = some (l.map fun x => x.bind fun y => readBits payload y.1 y.2))
  ∧ (∀ (payload : List Byte) (l : List (Option (Nat × Nat))) (o w : Nat), some (o, w) ∈ l → 8 * payload.length < o + w →
    readPlaces payload l = none)
  ∧ (∀ (n : Nat) (form : String) (payload : List Byte), readForm n form payload
    = (Config.requestPlaces n form payload.length).elim [] fun l => (readPlaces payload l).getD [])
  ∧ (∀ (tag : Byte) (read : FormReader) (n : Nat), n ≠ 21 → (∀ form, read form = []) → requestOf tag read n = none)
  ∧ (∀ (tag : Byte) (read : FormReader),
    (∀ n, read "" = [some n] → requestOf tag read 24 = some (.cancelJob tag n))
    ∧ (∀ w h m x, read "" = [some w, some h, some m, some x] → requestOf tag read 15 = some (.setClock tag w h m x))
    ∧ (∀ g a ra lr la lg rm x, read "" = [some g, some x, some a, some ra, some lr, some la, some lg, some rm] →
      ∃ type : Option GroupType, requestOf tag read 2 = some (.setGroup tag g ⟨type, a, ra, lr, la, lg, rm⟩)
      ∧ (∀ y, type = some y → Config.nameCode (.groupType y) = x)
      ∧ (type = none → ∀ y, Config.nameCode (.groupType y) ≠ x))
    ∧ (∀ st l gs, read "" = [some (Config.nameCode (.word "STAGE"))] → read "STAGE" = some st :: l.map some →
      setIn "groups" 16 l = some gs → requestOf tag read 10 = some (.planWriteStage tag st gs))
    ∧ (∀ x, read "" = [some x] →
      (∀ w ∈ ["STAGE", "RECORD", "POOL_LENGTH", "ENTRY", "COPY"], Config.nameCode (.word w) ≠ x) →
      requestOf tag read 10 = none))

/-- REQUEST_TAKEN and FRAME_TRANSMITTED (R176, R182): with the reply slot empty the oldest request leaves the queue and is taken; a busy answer or a notice that has left frees the transmitter alone, a reply frees the slot too, and where the slot is then empty the oldest request waiting is taken. -/
def Obligations.QueueServed : Prop :=
  ∀ (s : State) (r : Received) (rs : List Received),
    (s.power.phase = .running → s.link.slot = none → s.link.queue = r :: rs →
      exec .requestTaken s = .next (State.serveReceived { s with link := { s.link with queue := rs } } r))
    ∧ (∀ x, s.link.tx = some (.reply x) → x.restarts = false → s.link.queue = [] →
      exec .frameTransmitted s = .next (State.close { s with link := { s.link with tx := none, slot := none } }))
    ∧ (∀ x, s.link.tx = some (.reply x) → x.restarts = false → s.link.queue = r :: rs →
      exec .frameTransmitted s
        = .next (State.serveReceived { s with link := { s.link with tx := none, slot := none, queue := rs } } r))
    ∧ (((∃ y, s.link.tx = some (.busy y)) ∨ ∃ n b, s.link.tx = some (.notice n b)) →
      ((s.link.slot ≠ none ∨ s.link.queue = []) →
        exec .frameTransmitted s = .next (State.close { s with link := { s.link with tx := none } }))
      ∧ (s.link.slot = none → s.link.queue = r :: rs →
        exec .frameTransmitted s
          = .next (State.serveReceived { s with link := { s.link with tx := none, queue := rs } } r)))

/-- The link's tables: a request received joins the queue of 4, else its TAG the busy list of 4, else it is discarded; a notice joins the queue of 16 or sets the lost flag; a job entered takes the next job number, which then becomes the first after it, 1 after 255, that no job in the table has, and a job that ends leaves it with a JOB_DONE notice; the codes of replies and notices, the KIND of each frame sent, and its bytes from SYNC to CRC: a payload holds the value of each of its fields once, most significant byte first, as shown for the fields of an IN_PROGRESS reply, of JOB_DONE and of MODE_CHANGED; the order and the widths of the fields and the codes of names are free (log 10), and that MODE_CHANGED carries its cause field, as NONE, also where no cause stands is the model's choice (log 34) (R174, R176, R180, R181). -/
def Obligations.LinkTables : Prop :=
  (∀ (s : State) (r : Received),
    (s.link.queue.length < 4 → s.receive r = { s with link := { s.link with queue := s.link.queue ++ [r] } })
    ∧ (4 ≤ s.link.queue.length → s.link.busy.length < 4 →
        s.receive r = { s with link := { s.link with busy := s.link.busy ++ [r.tag] } })
    ∧ (4 ≤ s.link.queue.length → 4 ≤ s.link.busy.length → s.receive r = s))
  ∧ (∀ (s : State) (n : Notice),
    (s.link.notices.length < 16 → s.notify n = { s with link := { s.link with notices := s.link.notices ++ [n] } })
    ∧ (16 ≤ s.link.notices.length → s.notify n = { s with link := { s.link with lost := true } }))
  ∧ (∀ (s : State) (k : JobKind) (limit : Timer) (r : JobResult) (items : JobItems),
    ((s.addJob k limit).link.jobs = s.link.jobs ++ [⟨s.link.nextJob, k, limit, []⟩])
    ∧ (s.link.jobs.length ≤ 3 → 1 ≤ s.link.nextJob → s.link.nextJob ≤ 255 →
      let n := (s.addJob k limit).link.nextJob
      let after (x : Nat) : Nat := if x = 255 then 1 else x + 1
      1 ≤ n ∧ n ≤ 255 ∧ (∀ j ∈ (s.addJob k limit).link.jobs, j.number ≠ n)
        ∧ ∃ i : Nat, n = after^[i + 1] s.link.nextJob
          ∧ ∀ m < i, ∃ j ∈ (s.addJob k limit).link.jobs, j.number = after^[m + 1] s.link.nextJob)
    ∧ (∀ j, s.job? k = some j →
      s.endJob k r items
        = State.notify { s with link := { s.link with jobs := s.link.jobs.filter (·.kind ≠ k) } }
            (.jobDone j.number k r items)))
  ∧ ([Status.ok, .inProgress, .refusedMode, .refusedValue, .refusedBusy, .unknownRequest, .linkBusy].map statusCode
      = [0, 1, 2, 3, 4, 5, 6]
    ∧ (∀ t, (TxFrame.busy t).header = (2, t, 6)) ∧ (∀ r : Reply, (TxFrame.reply r).header = (2, r.tag, statusCode r.status))
    ∧ (∀ n b, (TxFrame.notice n b).header = (3, 0, noticeCode n))
    ∧ (∀ code mode config plans survey restart clock,
        noticeCode (.started code mode config plans survey restart clock) = 1)
    ∧ (∀ old new target cause style, noticeCode (.modeChanged old new target cause style) = 2)
    ∧ (∀ plan source cause generation, noticeCode (.planChanged plan source cause generation) = 3)
    ∧ (∀ key severity tag time count held, noticeCode (.alarmRaised key severity tag time count held) = 4)
    ∧ (∀ key time, noticeCode (.alarmCleared key time) = 5)
    ∧ (∀ number kind result items, noticeCode (.jobDone number kind result items) = 6)
    ∧ (∀ t, (TxFrame.busy t).bytes = encodeFrame 2 t 6 [])
    ∧ (∀ f : TxFrame, f.payload.length ≤ 240
      ∧ f.bytes = encodeFrame (BitVec.ofNat 8 f.header.1) f.header.2.1 (BitVec.ofNat 8 f.header.2.2) f.payload))
  ∧ ((∀ r : Reply, (TxFrame.reply r).payload = r.body.payload.bytes)
    ∧ (∀ n lost, (TxFrame.notice n lost).payload = (n.payload lost).bytes)
    ∧ (∀ p : Payload, (p.laidOut.map Prod.snd).Perm (p.fields.map fun f => f.2.value)
      ∧ (∀ y ∈ p.laidOut, y.2 < 2 ^ y.1)
      ∧ ∀ l : List (Nat × Nat), p.laidOut = l.map (fun y => (8 * y.1, y.2)) →
          p.bytes = (l.flatMap fun y => bigEndian y.1 y.2).take 240)
    ∧ (∀ n x : Nat, bigEndian (n + 1) x = bigEndian n (x / 256) ++ [BitVec.ofNat 8 x])
    ∧ (∀ n, (ReplyBody.jobNumber n).payload.fields = [("job number", .number n)])
    ∧ (∀ n k lost, ((Notice.jobDone n k .ok .none).payload lost).fields
        = [("job number", .number n), ("job kind", .name (.jobKind k)), ("result", .name (.word "OK")), ("lost", .name (.flag lost))])
    ∧ ∀ old new lost, ((Notice.modeChanged old new none .none none).payload lost).fields
        = [("old mode", .name (.mode old)), ("new mode", .name (.mode new)), ("cause", .name (.cause .none)), ("lost", .name (.flag lost))])

/-- Every request command, in every state (R176; that a command arrives whole is the model's choice, log 13): discarded while the link does not listen, received where the queue or the slot is not empty, and otherwise taken in its own event: acted on and answered once. -/
def Obligations.RequestArrives : Prop :=
  ∀ (i : Instr) (s : State), requestCode i ≠ 0 →
    (s.listening = false → exec i s = .next s)
    ∧ (s.listening = true → (s.link.queue ≠ [] ∨ s.link.slot ≠ none) →
        exec i s = .next ((s.receive (.command i)).close))
    ∧ (s.takes → ∃ t st b, State.act i s = (t, st, b)
        ∧ exec i s = .next ((t.putReply ⟨requestTag i, st, b, isRestart i⟩).close))

/-- R177: a request refused, with any of the four refusals, changes no state. -/
def Obligations.RefusedChangesNothing : Prop :=
  ∀ (i : Instr) (s t : State) (st : Status) (b : ReplyBody), State.act i s = (t, st, b) →
    st ≠ .ok → st ≠ .inProgress → t = s

/-! ### Configuration requests -/

/-- SET_GROUP with fields in their ranges, taken where the edit copy may be written, replaces the record of the group in the edit copy, lamp counts of unused channels as 0 and Rmin as 1 where the red is not used, and is answered OK with the record; any field outside its range is answered REFUSED_VALUE (R2). -/
def Obligations.SetGroup : Prop :=
  ∀ (tag : Byte) (g : Nat) (f : GroupFields) (s : State), s.takes →
    (∀ (i : Group) (t : GroupType), g = i.val + 1 → f.type = some t → s.editable →
      30 ≤ f.amber → f.amber ≤ 50 → f.redAmber ≤ 30 →
      (typeUses t 0 = true → 1 ≤ f.lampsRed ∧ f.lampsRed ≤ 4 ∧ 1 ≤ f.rmin ∧ f.rmin ≤ f.lampsRed) →
      (typeUses t 1 = true → 1 ≤ f.lampsAmber ∧ f.lampsAmber ≤ 4) →
      (typeUses t 2 = true → 1 ≤ f.lampsGreen ∧ f.lampsGreen ≤ 4) →
      let cfg : GroupCfg :=
        { type := t, amber := f.amber, redAmber := f.redAmber
          lampsRed := if typeUses t 0 then f.lampsRed else 0
          lampsAmber := if typeUses t 1 then f.lampsAmber else 0
          lampsGreen := if typeUses t 2 then f.lampsGreen else 0
          rmin := if typeUses t 0 then f.rmin else 1 }
      exec (.setGroup tag g f) s
        = .next (State.replied { s with edit := { s.edit with groups := s.edit.groups.set i cfg } } tag .ok (.group cfg)))
    ∧ ((g < 1 ∨ 16 < g ∨ f.type = none ∨ f.amber < 30 ∨ 50 < f.amber ∨ 30 < f.redAmber
        ∨ (∃ t, f.type = some t ∧ ((typeUses t 0 = true ∧ (f.lampsRed < 1 ∨ 4 < f.lampsRed ∨ f.rmin < 1 ∨ f.lampsRed < f.rmin))
          ∨ (typeUses t 1 = true ∧ (f.lampsAmber < 1 ∨ 4 < f.lampsAmber))
          ∨ (typeUses t 2 = true ∧ (f.lampsGreen < 1 ∨ 4 < f.lampsGreen))))) →
      exec (.setGroup tag g f) s = .next (s.replied tag .refusedValue .empty))

/-- SET_INTERGREEN writes one ordered entry, SET_CORE the record of a core, SET_RESPONSE the entry of a pattern or the six junction settings, each in the edit copy; a field outside its range is answered REFUSED_VALUE (R10, R138, R161, R165). -/
def Obligations.SetIntergreenCoreResponse : Prop :=
  (∀ (tag : Byte) (a b : Nat) (v : Option Nat) (s : State), s.takes →
    (∀ i j : Group, a = i.val + 1 → b = j.val + 1 → s.editable → (∀ x, v = some x → 10 ≤ x ∧ x ≤ 300) →
      exec (.setIntergreen tag a b v) s
        = .next (State.replied
            { s with edit := { s.edit with ig := s.edit.ig.set i (s.edit.ig[i].set j v) } } tag .ok .empty))
    ∧ ((a < 1 ∨ 16 < a ∨ b < 1 ∨ 16 < b ∨ ∃ x, v = some x ∧ (x < 10 ∨ 300 < x)) →
      exec (.setIntergreen tag a b v) s = .next (s.replied tag .refusedValue .empty)))
  ∧ (∀ (tag : Byte) (s : State) (k cable number : Nat) (role : RoleField), s.takes →
    (∀ (i : CoreId) (r : Role), k = i.val + 1 → s.editable → 1 ≤ cable → cable ≤ 8 → 1 ≤ number → number ≤ 16 →
      ((∃ c : Chan, role = .load (c.val + 1) ∧ r = .load c) ∨ (role = .common ∧ r = .common)
        ∨ (role = .spare ∧ r = .spare) ∨ (role = .unused ∧ r = .unused)) →
      exec (.setCore tag k cable number role) s
        = .next (State.replied { s with edit := { s.edit with cores := s.edit.cores.set i ⟨cable, number, r⟩ } } tag .ok
            (.core ⟨cable, number, r⟩)))
    ∧ ((k < 1 ∨ 64 < k ∨ cable < 1 ∨ 8 < cable ∨ number < 1 ∨ 16 < number ∨ role = .other
        ∨ ∃ c, role = .load c ∧ (c < 1 ∨ 48 < c)) →
      exec (.setCore tag k cable number role) s = .next (s.replied tag .refusedValue .empty)))
  ∧ (∀ (tag : Byte) (s : State), s.takes →
    (∀ (p : Fin 32) (r : Response) (imm : Bool), s.editable → (p = 0 → r = .none) →
      exec (.setResponse tag p.val (some r) imm) s
        = .next (State.replied { s with edit := { s.edit with resp := s.edit.resp.set p ⟨r, imm⟩ } } tag .ok .empty))
    ∧ (∀ (p : Nat) (r : Option Response) (imm : Bool), (32 ≤ p ∨ r = none ∨ (p = 0 ∧ r ≠ some .none)) →
      exec (.setResponse tag p r imm) s = .next (s.replied tag .refusedValue .empty))
    ∧ (∀ (f : JunctionFields) (d y : Display) (a : Bool), s.editable → f.standbyDisplay = some d →
      f.failsafeStyle = some y → f.autoStart = some a → 50 ≤ f.startFlash → f.startFlash ≤ 600 →
      30 ≤ f.startRed → f.startRed ≤ 100 → 20 ≤ f.endRed → f.endRed ≤ 100 →
      exec (.setResponseJunction tag f) s
        = .next (State.replied
            { s with edit := { s.edit with junction := ⟨d, y, a, f.startFlash, f.startRed, f.endRed⟩ } } tag .ok .empty))
    ∧ (∀ f : JunctionFields, (f.standbyDisplay = none ∨ f.failsafeStyle = none ∨ f.autoStart = none
        ∨ f.startFlash < 50 ∨ 600 < f.startFlash ∨ f.startRed < 30 ∨ 100 < f.startRed ∨ f.endRed < 20 ∨ 100 < f.endRed) →
      exec (.setResponseJunction tag f) s = .next (s.replied tag .refusedValue .empty)))

/-- SET_CHANNEL of a channel writes its lamp type, nominal current and limits into the edit copy; where the lamp type or the nominal current differs, Iref takes the nominal current and the learned mark is cleared, and the leak threshold is kept; a value outside its range is answered REFUSED_VALUE. SET_CHANNEL of SMC or FTR writes its two limits alone (R87, R117). -/
def Obligations.SetChannel : Prop :=
  ∀ (tag : Byte) (s : State), s.takes →
    (∀ (c : Chan) (f : ChannelFields) (lamp : LampType), s.editable → f.lamp = some lamp →
      20 ≤ f.nominal → f.nominal ≤ 3000 → 10 ≤ f.operateLimit → f.operateLimit ≤ 200 →
      10 ≤ f.releaseLimit → f.releaseLimit ≤ 200 →
      let old := s.edit.channels[c]
      let keep := lamp = old.lamp ∧ f.nominal = old.nominal
      let new : ChannelCfg :=
        { lamp := lamp, nominal := f.nominal, iref := if keep then old.iref else f.nominal
          learned := if keep then old.learned else false, leak := old.leak
          limits := ⟨f.operateLimit, f.releaseLimit⟩ }
      exec (.setChannel tag (c.val + 1) f) s
        = .next (State.replied { s with edit := { s.edit with channels := s.edit.channels.set c new } } tag .ok
            (.channel new)))
    ∧ (∀ (c : Nat) (f : ChannelFields), (c < 1 ∨ 48 < c ∨ f.lamp = none ∨ f.nominal < 20 ∨ 3000 < f.nominal
        ∨ f.operateLimit < 10 ∨ 200 < f.operateLimit ∨ f.releaseLimit < 10 ∨ 200 < f.releaseLimit) →
      exec (.setChannel tag c f) s = .next (s.replied tag .refusedValue .empty))
    ∧ (∀ (r : Supply) (op rel : Nat), s.editable → 10 ≤ op → op ≤ 200 → 10 ≤ rel → rel ≤ 200 →
      exec (.setChannelSupply tag r op rel) s
        = .next (State.replied
            { s with edit := { s.edit with
                smc := if r = .smc then ⟨op, rel⟩ else s.edit.smc
                ftr := if r = .ftr then ⟨op, rel⟩ else s.edit.ftr } } tag .ok (.supply ⟨op, rel⟩)))
    ∧ (∀ (r : Supply) (op rel : Nat), (op < 10 ∨ 200 < op ∨ rel < 10 ∨ 200 < rel) →
      exec (.setChannelSupply tag r op rel) s = .next (s.replied tag .refusedValue .empty))

/-- A write of the edit copy with a field outside its range is answered REFUSED_VALUE; one with every field in its range is answered REFUSED_MODE outside UNCONFIGURED and STANDBY, and in them REFUSED_BUSY while a COMMIT_CONFIG job stands in the table; nothing else changes (R2, R177). -/
def Obligations.EditRefused : Prop :=
  ∀ (i : Instr) (s : State), writesEdit i = true → s.takes →
    (¬ fieldsInRange i → exec i s = .next (s.replied (requestTag i) .refusedValue .empty))
    ∧ (fieldsInRange i → s.mode.mode ≠ .unconfigured → s.mode.mode ≠ .standby →
      exec i s = .next (s.replied (requestTag i) .refusedMode .empty))
    ∧ (fieldsInRange i → (s.mode.mode = .unconfigured ∨ s.mode.mode = .standby) → s.hasJob .commitConfig = true →
      exec i s = .next (s.replied (requestTag i) .refusedBusy .empty))

/-- The validation of a COMMIT_CONFIG passes exactly where every check of Table 1-6 and both core checks hold; that of a COMMIT_PLANS exactly where every check of Table 2-5 holds. Otherwise the result is that of the first failing item: check by check in their order, within a check in ascending numbers, and the checks of a plan and of its records plan by plan (R12, R40, R138, R179). -/
def Obligations.Validations : Prop :=
  (∀ cfg : Settings, cfg.validate = none ↔
    (∃ g : Group, cfg.groups[g].type ≠ .unused)
    ∧ (∀ i : Group, cfg.ig[i][i] = none)
    ∧ (∀ i j : Group, i < j → (cfg.ig[i][j] = none ↔ cfg.ig[j][i] = none))
    ∧ (∀ i j : Group, (cfg.groups[i].type = .unused ∨ cfg.groups[j].type = .unused) → cfg.ig[i][j] = none)
    ∧ (∀ (i j : Group) (t : Nat), cfg.groups[i].type = .vehicle → cfg.ig[i][j] = some t → cfg.groups[i].amber ≤ t)
    ∧ (∀ k l : CoreId, k ≠ l → cfg.cores[k].role ≠ .unused → cfg.cores[l].role ≠ .unused →
        cfg.cores[k].cable = cfg.cores[l].cable → cfg.cores[k].number ≠ cfg.cores[l].number)
    ∧ (∀ (k : CoreId) (c : Chan), cfg.cores[k].role = .load c → cfg.used c = true))
  ∧ (∀ (ps : PlanSet) (cfg : Settings), ps.validate cfg = none ↔
    (∀ (st : Fin 16) (g : Group), ps.stages[st].groups[g] = true → cfg.groups[g].type ≠ .unused)
    ∧ (∀ (st : Fin 16) (i j : Group), i < j → ps.stages[st].groups[i] = true → ps.stages[st].groups[j] = true →
        cfg.ig[i][j] = none)
    ∧ (∃ e, ps.dir[(0 : Fin 16)] = some e ∧ e.valid = true)
    ∧ (∀ (p : Fin 16) (e : PlanEntry), ps.dir[p] = some e → e.valid = true →
        e.first + e.count - 1 ≤ ps.pool.length ∧ e.start ≤ e.count
        ∧ ∀ i, i < e.count → ∃ r, ps.pool[e.first + i - 1]? = some r ∧ (e.kind = .fixed → 50 ≤ r.min)
            ∧ ∃ st, r.stage = some st ∧ ∃ g : Group, ps.stages[st].groups[g] = true))
  ∧ (∀ (cfg : Settings) (r : JobResult), cfg.validate = some r ↔
    ∃ a, cfg.Fails a r ∧ ∀ b q, cfg.Fails b q → ¬ b < a)
  ∧ (∀ (ps : PlanSet) (cfg : Settings) (r : JobResult), ps.validate cfg = some r ↔
    ∃ a, ps.Fails cfg a r ∧ ∀ b q, ps.Fails cfg b q → ¬ b < a)

/-- COMMIT_CONFIG taken where the edit copy may be written, and COMMIT_PLANS in every mode, enter their job, are answered IN_PROGRESS with its number, and either place a store request or, at the first failing item, end the job with it; elsewhere, or with such a job in the table, they are refused (R39, R179). -/
def Obligations.CommitRequests : Prop :=
  (∀ (tag : Byte) (s : State), s.takes →
    (s.editable → s.edit.validate = none →
      exec (.commitConfig tag) s
        = .next (State.replied ((s.addJob .commitConfig none).placeStore .config) tag .inProgress
            (.jobNumber s.link.nextJob)))
    ∧ (∀ r, s.editable → s.edit.validate = some r →
      exec (.commitConfig tag) s
        = .next (State.replied
            (State.notify { s with link := { s.link with nextJob := nextNumber (s.link.jobs ++ [⟨s.link.nextJob, .commitConfig, none, []⟩]) 5 s.link.nextJob } }
              (.jobDone s.link.nextJob .commitConfig r .none)) tag .inProgress (.jobNumber s.link.nextJob)))
    ∧ (s.mode.mode ≠ .unconfigured → s.mode.mode ≠ .standby →
      exec (.commitConfig tag) s = .next (s.replied tag .refusedMode .empty))
    ∧ ((s.mode.mode = .unconfigured ∨ s.mode.mode = .standby) → s.hasJob .commitConfig = true →
      exec (.commitConfig tag) s = .next (s.replied tag .refusedBusy .empty)))
  ∧ (∀ (tag : Byte) (s : State), s.takes →
    (s.hasJob .commitPlans = false → s.staging.validate s.work = none →
      exec (.commitPlans tag) s
        = .next (State.replied ((s.addJob .commitPlans none).placeStore .plans) tag .inProgress
            (.jobNumber s.link.nextJob)))
    ∧ (∀ r, s.hasJob .commitPlans = false → s.staging.validate s.work = some r →
      exec (.commitPlans tag) s
        = .next (State.replied ((s.addJob .commitPlans none).endJob .commitPlans r .none) tag .inProgress
            (.jobNumber s.link.nextJob)))
    ∧ (s.hasJob .commitPlans = true → exec (.commitPlans tag) s = .next (s.replied tag .refusedBusy .empty)))

/-- SET_DETECTOR, in every mode, writes its settings, debounce clamped to 20 to 250 ms and the limits to 255 min and 72 h, into both copies, places a CONFIG store request but in UNCONFIGURED, and acts on the detector: one now DISABLED is CLEAR with its timers stopped and its fault ended, one just enabled starts CLEAR with its quiet timer and, where its raw input is active, its debounce timer, one still enabled keeps its state, with its limits, its demands and the occupancy judged anew, STUCK or QUIET at once where a new limit has passed (R74, R84); a detector, kind, stage or extend stage outside its values, or more than four demand stages, is answered REFUSED_VALUE. -/
def Obligations.SetDetector : Prop :=
  ∀ (tag : Byte) (s : State) (d : Nat) (f : DetectorFields), s.takes →
    (∀ (i : Det) (k : DetKind) (e : Option (Fin 16)), d = i.val + 1 → f.kind = some k → f.demands.length ≤ 4 →
      (∀ n ∈ f.demands, 1 ≤ n ∧ n ≤ 16) → f.extend = e.map (fun x => x.val + 1) →
      ∃ x : DetCfg, x.kind = k ∧ x.extend = e ∧ x.debounce = max 20 (min 250 f.debounce)
        ∧ x.stuckOn = min 255 f.stuckOn ∧ x.quiet = min 72 f.quiet
        ∧ (∀ st : Fin 16, x.demands[st] = true ↔ st.val + 1 ∈ f.demands)
        ∧ exec (.setDetector tag d f) s
            = .next (State.replied (s.spread ((State.placeConfig
                { s with work := { s.work with dets := s.work.dets.set i x }
                         edit := { s.edit with dets := s.edit.dets.set i x } }).applyDetector i s.work.dets[i]))
                tag .ok (.detector x)))
    ∧ (∀ (i : Det) (old : DetCfg),
      let new := s.work.dets[i]
      let r := s.dets[i]
      let u := s.applyDetector i old
      u.work = s.work ∧ u.edit = s.edit ∧ (∀ x : Det, x ≠ i → u.dets[x] = s.dets[x])
      ∧ (new.kind = .disabled →
        u.dets[i] = { r with
          accepted := false, state := .clear, debounce := none, stuckStart := none, quietStart := none }
        ∧ u.engine.demands = s.engine.demands
        ∧ (r.state = .stuck → (⟨.detector i, .detectorStuck⟩ : Cond) ∉ u.faults.confirmed)
        ∧ (r.state = .quiet → (⟨.detector i, .detectorQuiet⟩ : Cond) ∉ u.faults.confirmed)
        ∧ (∀ st : Fin 16, old.extend = some st → (u.occupied[st] = true ↔ ∃ x : Det,
            s.work.dets[x].kind = .presence ∧ s.work.dets[x].extend = some st ∧ (u.dets[x]).state = .active)))
      ∧ (new.kind ≠ .disabled → old.kind = .disabled →
        u = { s with dets := u.dets }
        ∧ u.dets[i] = { r with
          accepted := false, state := .clear, quietStart := if new.quiet = 0 then none else some s.now
          debounce := if r.raw = true then some (r.debounce.getD (s.now + new.debounce)) else none })
      ∧ (new.kind ≠ .disabled → old.kind ≠ .disabled →
        let stuck := if new.stuckOn = 0 then none else if old.stuckOn = 0 ∧ r.state = .active then some s.now else r.stuckStart
        let quiet := if new.quiet = 0 then none else if old.quiet = 0 ∧ r.state = .clear then some s.now else r.quietStart
        let toStuck := r.state = .active ∧ ∃ b, stuck = some b ∧ b + 60000 * new.stuckOn ≤ s.now
        let toQuiet := r.state = .clear ∧ ∃ b, quiet = some b ∧ b + 3600000 * new.quiet ≤ s.now
        (toStuck → u.dets[i] = { r with state := .stuck, stuckStart := none, quietStart := quiet }
          ∧ (⟨.detector i, .detectorStuck⟩ : Cond) ∈ u.faults.confirmed)
        ∧ (toQuiet → u.dets[i] = { r with state := .quiet, stuckStart := stuck, quietStart := none }
          ∧ (⟨.detector i, .detectorQuiet⟩ : Cond) ∈ u.faults.confirmed)
        ∧ (¬ toStuck → ¬ toQuiet → u.dets[i] = { r with stuckStart := stuck, quietStart := quiet }
          ∧ u.faults = s.faults)
        ∧ (∀ st : Fin 16, u.engine.demands[st] = true ↔ (s.engine.demands[st] = true
            ∨ (new.demands[st] = true ∧ s.engine.inForce ≠ st.val + 1
              ∧ (toStuck ∨ toQuiet ∨ (old.demands ≠ new.demands ∧ (r.state = .stuck ∨ r.state = .quiet))))))
        ∧ (∀ st : Fin 16, (old.extend = some st ∨ new.extend = some st) → (u.occupied[st] = true ↔ ∃ x : Det,
            s.work.dets[x].kind = .presence ∧ s.work.dets[x].extend = some st ∧ (u.dets[x]).state = .active))))
    ∧ ((d < 1 ∨ 32 < d ∨ f.kind = none ∨ 4 < f.demands.length ∨ (∃ n ∈ f.demands, n < 1 ∨ 16 < n)
        ∨ ∃ n, f.extend = some n ∧ (n < 1 ∨ 16 < n)) →
      exec (.setDetector tag d f) s = .next (s.replied tag .refusedValue .empty))

/-- SET_THRESHOLDS, in every mode, writes the values it carries, each clamped to its range and the low threshold to the warn threshold then applied, into both copies of the configuration, and places a CONFIG store request but in UNCONFIGURED; a channel outside 1 to 48 is answered REFUSED_VALUE; a leak threshold in mA is applied within 5 to 200 mA (R118, R139, R157). -/
def Obligations.SetThresholds : Prop :=
  (leakWritten .typeDefault = .typeDefault ∧ ∀ x, leakWritten (.milliamps x) = .milliamps (max 5 (min 200 x)))
  ∧ ∀ (tag : Byte) (s : State) (f : ThresholdFields), s.takes →
    (∀ (cs : List Chan) (l : Option LeakThreshold),
      ((f.leak = none ∧ cs = [] ∧ l = none)
        ∨ (∃ x, f.leak = some (.all, x) ∧ cs = allChans ∧ l = some (leakWritten x))
        ∨ (∃ (c : Chan) (x : LeakThreshold), f.leak = some (.one (c.val + 1), x) ∧ cs = [c] ∧ l = some (leakWritten x))) →
      ∃ t : State,
        exec (.setThresholds tag f) s
          = .next (State.replied (if s.mode.mode = .unconfigured then t else t.placeStore .config) tag .ok
              (.thresholds l t.work.thr))
        ∧ t = { s with work := t.work, edit := t.edit }
        ∧ t.work = { s.work with channels := t.work.channels, thr := t.work.thr }
        ∧ t.edit = { s.edit with channels := t.edit.channels, thr := t.edit.thr }
        ∧ (∀ c : Chan, t.work.channels[c]
            = if c ∈ cs then { s.work.channels[c] with leak := l.getD s.work.channels[c].leak } else s.work.channels[c])
        ∧ (∀ c : Chan, t.edit.channels[c]
            = if c ∈ cs then { s.edit.channels[c] with leak := l.getD s.edit.channels[c].leak } else s.edit.channels[c])
        ∧ t.work.thr.warn = (f.warn.map fun x => max 500 (min 20000 x)).getD s.work.thr.warn
        ∧ t.work.thr.low = max 100 (min t.work.thr.warn (f.low.getD s.work.thr.low))
        ∧ t.work.thr.hours = (f.hours.map fun x => max 1 (min 168 x)).getD s.work.thr.hours
        ∧ t.work.thr.lampK = (f.lampK.map fun x => max 2 (min 8 x)).getD s.work.thr.lampK
        ∧ t.work.thr.cableK = (f.cableK.map fun x => max 2 (min 8 x)).getD s.work.thr.cableK
        ∧ t.work.thr.holdMin = (f.holdMin.map fun x => max 1 (min 120 x)).getD s.work.thr.holdMin
        ∧ t.edit.thr.warn = (f.warn.map fun x => max 500 (min 20000 x)).getD s.edit.thr.warn
        ∧ t.edit.thr.low = max 100 (min t.edit.thr.warn (f.low.getD s.edit.thr.low))
        ∧ t.edit.thr.hours = (f.hours.map fun x => max 1 (min 168 x)).getD s.edit.thr.hours
        ∧ t.edit.thr.lampK = (f.lampK.map fun x => max 2 (min 8 x)).getD s.edit.thr.lampK
        ∧ t.edit.thr.cableK = (f.cableK.map fun x => max 2 (min 8 x)).getD s.edit.thr.cableK
        ∧ t.edit.thr.holdMin = (f.holdMin.map fun x => max 1 (min 120 x)).getD s.edit.thr.holdMin)
    ∧ (∀ c x, f.leak = some (.one c, x) → (c < 1 ∨ 48 < c) →
      exec (.setThresholds tag f) s = .next (s.replied tag .refusedValue .empty))

/-! ### The plan set (spec/02) -/

/-- R31: a STAGE item whose number lies in 1 to 16 replaces the stage definition in the staging copy by the set carried, whatever groups it names, and an empty set makes the stage undefined; a number outside 1 to 16 is refused. -/
def Obligations.StageItem : Prop :=
  ∀ (tag : Byte) (st : Nat) (gs : GroupSet) (s : State), s.takes →
    (∀ i : Fin 16, st = i.val + 1 → s.hasJob .commitPlans = false →
      exec (.planWriteStage tag st gs) s
        = .next (State.replied { s with staging := { s.staging with stages := s.staging.stages.set i ⟨gs, false⟩ } } tag .ok
            (.stageItem i gs))
      ∧ ((∀ g : Group, gs[g] = false) → (StageDef.defined ⟨gs, false⟩) = false))
    ∧ ((st < 1 ∨ 16 < st) → exec (.planWriteStage tag st gs) s = .next (s.replied tag .refusedValue .empty))

/-- The five items of PLAN_WRITE, taken with no COMMIT_PLANS job in the table, write the staging copy and nothing else, and return the item; one that fails a check is answered REFUSED_VALUE, one that passes REFUSED_BUSY while a COMMIT_PLANS job stands in the table (R30 to R34). That the reply to a COPY item holds the whole plan set copied is the model's choice (log 51). -/
def Obligations.PlanWrites : Prop :=
  (∀ (tag : Byte) (s : State), s.takes → s.hasJob .commitPlans = false →
    (∀ (st : Fin 16) (gs : GroupSet), exec (.planWriteStage tag (st.val + 1) gs) s
      = .next (State.replied { s with staging := { s.staging with stages := s.staging.stages.set st ⟨gs, false⟩ } } tag .ok
          (.stageItem st gs)))
    ∧ (∀ (p : Nat) (f : RecordFields) (st : Fin 16) (m : CallMode), 1 ≤ p → p ≤ s.staging.pool.length + 1 → p ≤ 192 →
      f.stage = st.val + 1 → f.mode = some m → 50 ≤ f.min → f.min ≤ 1200 → f.min ≤ f.max → f.max ≤ 2400 → f.gap ≤ 100 →
      let r : StageRecord := ⟨some st, m, f.min, f.max, f.gap⟩
      exec (.planWriteRecord tag p f) s
        = .next (State.replied { s with staging := { s.staging with
            pool := if p ≤ s.staging.pool.length then s.staging.pool.set (p - 1) r else s.staging.pool ++ [r] } } tag .ok
            (.recordItem p r)))
    ∧ (∀ n : Nat, n ≤ 192 → exec (.planWritePoolLength tag n) s
      = .next (State.replied { s with staging := { s.staging with
          pool := s.staging.pool.take n ++ List.replicate (n - s.staging.pool.length) ⟨none, .always, 0, 0, 0⟩ } } tag .ok
          (.poolLength n)))
    ∧ (∀ p : Fin 16, exec (.planWriteEntry tag (p.val + 1) none) s
      = .next (State.replied { s with staging := { s.staging with dir := s.staging.dir.set p none } } tag .ok
          (.entryItem p none)))
    ∧ (∀ (p : Fin 16) (f : EntryFields) (k : PlanKind), f.kind = some k → 1 ≤ f.tag → f.tag ≤ 255 → 1 ≤ f.first →
      f.first ≤ 192 → 1 ≤ f.count → f.count ≤ 12 → 1 ≤ f.start → f.start ≤ 12 →
      let e : PlanEntry := ⟨f.valid, k, f.tag, f.first, f.count, f.start⟩
      exec (.planWriteEntry tag (p.val + 1) (some f)) s
        = .next (State.replied { s with staging := { s.staging with dir := s.staging.dir.set p (some e) } } tag .ok
            (.entryItem p (some e))))
    ∧ (exec (.planWriteCopy tag (some .inUse)) s
        = .next (State.replied { s with staging := s.inUse.dropVoids } tag .ok (.planSet s.inUse.dropVoids)))
    ∧ (∀ q, s.pendingSet = some q → exec (.planWriteCopy tag (some .pending)) s
        = .next (State.replied { s with staging := q.set.dropVoids } tag .ok (.planSet q.set.dropVoids)))
    ∧ (exec (.planWriteCopy tag (some .empty)) s
        = .next (State.replied { s with staging := PlanSet.empty } tag .ok (.planSet .empty))))
  ∧ (∀ (tag : Byte) (s : State), s.takes →
    (∀ (st : Nat) (gs : GroupSet), (st < 1 ∨ 16 < st) →
      exec (.planWriteStage tag st gs) s = .next (s.replied tag .refusedValue .empty))
    ∧ (∀ (p : Nat) (f : RecordFields), (p < 1 ∨ s.staging.pool.length + 1 < p ∨ 192 < p ∨ f.stage < 1 ∨ 16 < f.stage
        ∨ f.mode = none ∨ f.min < 50 ∨ 1200 < f.min ∨ f.max < f.min ∨ 2400 < f.max ∨ 100 < f.gap) →
      exec (.planWriteRecord tag p f) s = .next (s.replied tag .refusedValue .empty))
    ∧ (∀ n : Nat, 192 < n → exec (.planWritePoolLength tag n) s = .next (s.replied tag .refusedValue .empty))
    ∧ (∀ (p : Nat) (f : Option EntryFields), (p < 1 ∨ 16 < p ∨ ∃ x, f = some x ∧ (x.kind = none ∨ x.tag < 1
        ∨ 255 < x.tag ∨ x.first < 1 ∨ 192 < x.first ∨ x.count < 1 ∨ 12 < x.count ∨ x.start < 1 ∨ 12 < x.start)) →
      exec (.planWriteEntry tag p f) s = .next (s.replied tag .refusedValue .empty))
    ∧ (exec (.planWriteCopy tag none) s = .next (s.replied tag .refusedValue .empty))
    ∧ (s.pendingSet = none → exec (.planWriteCopy tag (some .pending)) s = .next (s.replied tag .refusedValue .empty))
    ∧ (s.hasJob .commitPlans = true →
      (∀ (st : Fin 16) (gs : GroupSet),
        exec (.planWriteStage tag (st.val + 1) gs) s = .next (s.replied tag .refusedBusy .empty))
      ∧ (∀ n : Nat, n ≤ 192 → exec (.planWritePoolLength tag n) s = .next (s.replied tag .refusedBusy .empty))
      ∧ (∀ (p : Nat) (f : RecordFields) (st : Fin 16) (m : CallMode), 1 ≤ p → p ≤ s.staging.pool.length + 1 → p ≤ 192 →
        f.stage = st.val + 1 → f.mode = some m → 50 ≤ f.min → f.min ≤ 1200 → f.min ≤ f.max → f.max ≤ 2400 → f.gap ≤ 100 →
        exec (.planWriteRecord tag p f) s = .next (s.replied tag .refusedBusy .empty))
      ∧ (∀ p : Fin 16, exec (.planWriteEntry tag (p.val + 1) none) s = .next (s.replied tag .refusedBusy .empty))
      ∧ (∀ (p : Fin 16) (f : EntryFields) (k : PlanKind), f.kind = some k → 1 ≤ f.tag → f.tag ≤ 255 → 1 ≤ f.first →
        f.first ≤ 192 → 1 ≤ f.count → f.count ≤ 12 → 1 ≤ f.start → f.start ≤ 12 →
        exec (.planWriteEntry tag (p.val + 1) (some f)) s = .next (s.replied tag .refusedBusy .empty))
      ∧ (∀ q, s.pendingSet = some q →
        exec (.planWriteCopy tag (some .pending)) s = .next (s.replied tag .refusedBusy .empty))
      ∧ exec (.planWriteCopy tag (some .empty)) s = .next (s.replied tag .refusedBusy .empty)
      ∧ exec (.planWriteCopy tag (some .inUse)) s = .next (s.replied tag .refusedBusy .empty)))

/-- The translation of a plan reference, step by step: which step fails first names the fault kind; and the resolution of one record of the pool: none beyond the pool, of a blank record, or where its stage definition is void or names no group, else the record with the groups of its stage (R24, R26, R35, R36). -/
def Obligations.Translation : Prop :=
  (∀ (ps : PlanSet) (n : Nat),
    (ps.pool[n - 1]? = none → ps.resolveRecord n = none)
    ∧ (∀ r, ps.pool[n - 1]? = some r →
      (r.stage = none → ps.resolveRecord n = none)
      ∧ (∀ st, r.stage = some st →
        ((ps.stages[st].void = true ∨ ∀ g : Group, ps.stages[st].groups[g] = false) → ps.resolveRecord n = none)
        ∧ (ps.stages[st].void = false → (∃ g : Group, ps.stages[st].groups[g] = true) →
          ps.resolveRecord n = some ⟨st, r.mode, r.min, r.max, r.gap, ps.stages[st].groups⟩))))
  ∧ ∀ (ps : PlanSet) (ref : PlanRef),
    ((ref.plan < 1 ∨ 16 < ref.plan) → ps.translate ref = .error .planAbsent)
    ∧ (∀ p : Fin 16, ref.plan = p.val + 1 →
      (ps.dir[p] = none → ps.translate ref = .error .planAbsent)
      ∧ (∀ e, ps.dir[p] = some e →
        (e.valid = false → ps.translate ref = .error .planInvalid)
        ∧ (e.valid = true → ref.tag ≠ 0 → ref.tag ≠ e.tag → ps.translate ref = .error .planTagMismatch)
        ∧ (e.valid = true → (ref.tag = 0 ∨ ref.tag = e.tag) →
          ((ps.pool.length < e.first + e.count - 1 ∨ e.count < e.start) → ps.translate ref = .error .stageTranslation)
          ∧ (e.first + e.count - 1 ≤ ps.pool.length → e.start ≤ e.count →
            ((∃ i, i < e.count ∧ ps.resolveRecord (e.first + i) = none) → ps.translate ref = .error .stageTranslation)
            ∧ ((∀ i, i < e.count → ps.resolveRecord (e.first + i) ≠ none) →
              ∃ l, ps.translate ref = .ok ⟨ref, ref.plan, e.tag, e.kind, e.start, l⟩ ∧ l.length = e.count
                ∧ ∀ i, i < e.count → l[i]? = ps.resolveRecord (e.first + i))))))

/-- READ_PLAN, of every copy and item, is answered and changes nothing: from the named copy a plan with its resolved records, field by field, or its fault kind, the directory, a stage or a record; with the pending copy absent, that it is absent (R45; that the ranges are checked first and that such a reply is OK is read from R45 and R177, log 39); a stage, a record, a plan or a tag outside its range, a record beyond the pool, and a copy or an item of no known name are answered REFUSED_VALUE. That the group set of a stage goes with each record that names it is the model's choice (log 10). -/
def Obligations.ReadPlan : Prop :=
  ∀ (tag : Byte) (s : State), s.takes →
    (∀ (copy : PlanCopy) (ps : PlanSet),
      ((copy = .inUse ∧ ps = s.inUse) ∨ (copy = .staging ∧ ps = s.staging)
        ∨ (copy = .pending ∧ ∃ q, s.pendingSet = some q ∧ ps = q.set)) →
      (∀ ref p, ref.plan ≤ 255 → ref.tag ≤ 255 → ps.translate ref = .ok p →
        exec (.readPlan tag (some copy) (.plan ref)) s = .next (s.replied tag .ok (.resolved p)))
      ∧ (∀ ref k, ref.plan ≤ 255 → ref.tag ≤ 255 → ps.translate ref = .error k →
        exec (.readPlan tag (some copy) (.plan ref)) s = .next (s.replied tag .ok (.translationFault k)))
      ∧ exec (.readPlan tag (some copy) .directory) s
          = .next (s.replied tag .ok (.directory ⟨ps.dir, ps.pool.length,
              if copy = .inUse then some ps.usable else none, if copy = .inUse then some s.pendingSet.isSome else none⟩))
      ∧ (∀ st : Fin 16, exec (.readPlan tag (some copy) (.stage (st.val + 1))) s
          = .next (s.replied tag .ok (.stageView ps.stages[st].groups
              (if copy = .staging then none else some ps.stages[st].void))))
      ∧ (∀ n r, 1 ≤ n → n ≤ 192 → ps.pool[n - 1]? = some r →
        exec (.readPlan tag (some copy) (.record n)) s = .next (s.replied tag .ok (.recordView r)))
      ∧ (∀ n, ps.pool.length < n →
        exec (.readPlan tag (some copy) (.record n)) s = .next (s.replied tag .refusedValue .empty)))
    ∧ (∀ p : ResolvedPlan, (ReplyBody.resolved p).payload.fields
        = [("plan number", .number p.number), ("entry tag", .number p.tag), ("kind", .name (.planKind p.kind)),
            ("start index", .number p.start)]
          ++ p.records.flatMap fun r =>
            [("stage", .number (r.stage.val + 1)), ("call mode", .name (.callMode r.mode)), ("minimum green", .number r.min),
              ("maximum green", .number r.max), ("gap", .number r.gap)] ++ setOf "groups" r.groups)
    ∧ (∀ item : PlanItem, s.pendingSet = none →
      ((∃ ref, item = .plan ref ∧ ref.plan ≤ 255 ∧ ref.tag ≤ 255) ∨ item = .directory
        ∨ (∃ n, item = .stage n ∧ 1 ≤ n ∧ n ≤ 16) ∨ (∃ n, item = .record n ∧ 1 ≤ n ∧ n ≤ 192)) →
      exec (.readPlan tag (some .pending) item) s = .next (s.replied tag .ok .copyAbsent))
    ∧ (∀ (copy : Option PlanCopy) (item : PlanItem),
      (copy = none ∨ item = .other ∨ (∃ ref, item = .plan ref ∧ (255 < ref.plan ∨ 255 < ref.tag))
        ∨ (∃ n, item = .stage n ∧ (n < 1 ∨ 16 < n)) ∨ (∃ n, item = .record n ∧ (n < 1 ∨ 192 < n))) →
      exec (.readPlan tag copy item) s = .next (s.replied tag .refusedValue .empty))

/-! ### Time of day and clock (spec/03) -/

/-- The effective entry of a time-of-day table is one of its entries, and none has occurred more recently; TOD_WRITE, TOD_DELETE and SET_CLOCK, in every mode, change the table or the clock and have the table evaluated, or are answered REFUSED_VALUE, a TOD_WRITE with the reason: a field outside its range, an empty day mask, a full table, an overlap, the first of these where several apply (the model's choice, log 76); SET_CLOCK sets the milliseconds to 0 (the model's choice, log 4); CLOCK_MINUTE_CHANGE runs time and the clock on to its next full minute (the model's choice, log 2) and has the table evaluated; an evaluation stores the effective entry as the table result and applies it where it has changed, or where CLEAR_OVERRIDE has asked for it, and does nothing while the clock is invalid; a result is applied by source, mode and action as R70 gives (R68 to R71). That a TOD_DELETE ALL of an empty table is OK and does nothing more is the model's choice (log 46). -/
def Obligations.TimeTable : Prop :=
  (∀ (now : Nat) (l : List TodEntry),
    (l = [] → effectiveEntry now l = none)
    ∧ (∀ e, effectiveEntry now l = some e → e ∈ l ∧ ∃ a, e.age now = some a ∧ ∀ x ∈ l, ∀ b, x.age now = some b → a ≤ b)
    ∧ (∀ x ∈ l, (∃ d : Fin 7, x.days[d] = true) → (effectiveEntry now l).isSome = true))
  ∧ (∀ (tag : Byte) (s : State), s.takes →
    (∀ (days : DaySet) (h m : Nat) (a : TodAction), h ≤ 23 → m ≤ 59 → (∀ r, a = .plan r → r.plan ≤ 255 ∧ r.tag ≤ 255) →
      (∃ d : Fin 7, days[d] = true) → s.tod.length < 32 →
      (∀ e ∈ s.tod, e.hour = h → e.minute = m → ∀ d : Fin 7, ¬ (e.days[d] = true ∧ days[d] = true)) →
      exec (.todWrite tag (some days) h m (some a)) s
        = .next (State.replied (s.spread ((State.placeConfig { s with tod := insertTod ⟨days, h, m, a⟩ s.tod }).evaluateTable
            false)) tag .ok .empty))
    ∧ (∀ (days : Option DaySet) (h m : Nat) (a : Option TodAction),
      (days = none ∨ 23 < h ∨ 59 < m ∨ a = none ∨ ∃ r, a = some (.plan r) ∧ (255 < r.plan ∨ 255 < r.tag)) →
      exec (.todWrite tag days h m a) s = .next (s.replied tag .refusedValue (.todRefused .fieldRange)))
    ∧ (∀ (days : DaySet) (h m : Nat) (a : TodAction), h ≤ 23 → m ≤ 59 → (∀ r, a = .plan r → r.plan ≤ 255 ∧ r.tag ≤ 255) →
      ((∀ d : Fin 7, days[d] = false) →
        exec (.todWrite tag (some days) h m (some a)) s = .next (s.replied tag .refusedValue (.todRefused .emptyMask)))
      ∧ ((∃ d : Fin 7, days[d] = true) → 32 ≤ s.tod.length →
        exec (.todWrite tag (some days) h m (some a)) s = .next (s.replied tag .refusedValue (.todRefused .tableFull)))
      ∧ (s.tod.length < 32 →
        (∃ e ∈ s.tod, e.hour = h ∧ e.minute = m ∧ ∃ d : Fin 7, e.days[d] = true ∧ days[d] = true) →
        exec (.todWrite tag (some days) h m (some a)) s = .next (s.replied tag .refusedValue (.todRefused .overlap))))
    ∧ (∀ (days : DaySet) (h m : Nat) (l : List TodEntry), l = s.tod.filter (fun e => ¬ (e.hour = h ∧ e.minute = m ∧ e.days = days)) →
      l ≠ s.tod → exec (.todDelete tag (.entry days h m)) s
        = .next (State.replied (s.spread ((State.placeConfig { s with tod := l }).evaluateTable false)) tag .ok .empty))
    ∧ (∀ (days : DaySet) (h m : Nat), (∀ e ∈ s.tod, ¬ (e.hour = h ∧ e.minute = m ∧ e.days = days)) →
      exec (.todDelete tag (.entry days h m)) s = .next (s.replied tag .refusedValue .empty))
    ∧ (s.tod ≠ [] → exec (.todDelete tag .all) s
        = .next (State.replied (s.spread ((State.placeConfig { s with tod := [] }).evaluateTable false)) tag .ok .empty))
    ∧ (s.tod = [] → exec (.todDelete tag .all) s = .next (s.replied tag .ok .empty))
    ∧ (∀ w h m x, 1 ≤ w → w ≤ 7 → h ≤ 23 → m ≤ 59 → x ≤ 59 →
      exec (.setClock tag w h m x) s
        = .next (State.replied (s.spread ((State.endCond { s with clock := ⟨w, h, m, x, 0, true⟩ }
            ⟨.junction, .clockInvalid⟩).evaluateTable false)) tag .ok .empty))
    ∧ (∀ w h m x, (w < 1 ∨ 7 < w ∨ 23 < h ∨ 59 < m ∨ 59 < x) →
      exec (.setClock tag w h m x) s = .next (s.replied tag .refusedValue .empty)))
  ∧ (∀ s : State,
    (s.power.phase = .running →
      let t := s.elapseTo (s.now + s.clock.toMinute)
      exec .clockMinuteChange s = .next (t.cascade (t.evaluateTable false)))
    ∧ (s.clock.Sound →
      let t := s.elapseTo (s.now + s.clock.toMinute)
      t.clock.second = 0 ∧ t.clock.milli = 0 ∧ t.now ≤ s.now + 60000 ∧ t.clock.valid = s.clock.valid)
    ∧ (s.clock.valid = false → s.evaluateTable false = s)
    ∧ (s.clock.valid = true →
      (s.evaluateTable false).engine.tableResult = effectiveEntry s.clock.secondOfWeek s.tod)
    ∧ (s.clock.valid = true → effectiveEntry s.clock.secondOfWeek s.tod = s.engine.tableResult →
      s.evaluateTable false = s)
    ∧ (s.clock.valid = true → ∀ always : Bool,
      (always = true ∨ effectiveEntry s.clock.secondOfWeek s.tod ≠ s.engine.tableResult) →
      s.evaluateTable always
        = State.applyResult { s with engine := { s.engine with
            tableResult := effectiveEntry s.clock.secondOfWeek s.tod } })
    ∧ (s.engine.tableResult = none → s.engine.tableAction = .base)
    ∧ (∀ x, s.engine.tableResult = some x → s.engine.tableAction = x.action)
    ∧ (s.engine.source = .linkOverride → s.applyResult = s)
    ∧ (s.engine.source = .timeTable →
      (s.mode.mode = .running → s.engine.tableAction = .flash →
        s.applyResult = State.ask { s with
          engine := { s.engine with change := s.engine.change.filter fun c => c.origin ≠ .timeTable } } .flash)
      ∧ (∀ r, s.mode.mode = .running →
        (s.engine.tableAction = .plan r ∨ (s.engine.tableAction = .base ∧ r = ⟨1, 0⟩)) →
        s.applyResult
          = State.mark { s with engine := { s.engine with change := some ⟨r, .boundary, .timeTable⟩ } })
      ∧ (s.mode.mode = .partFlash → s.engine.tableAction ≠ .flash →
        s.applyResult = s.ask .planRequest)
      ∧ (s.mode.mode = .partFlash → s.engine.tableAction = .flash → s.applyResult = s)
      ∧ (s.mode.mode ≠ .running → s.mode.mode ≠ .partFlash → s.applyResult = s)))

/-! ### Control requests and jobs -/

/-- START is taken in STANDBY with a usable plan set, no active junction-level response, bring-up code OK and no COMMIT_CONFIG job; RESUME in FAILSAFE with no active junction-level response, fewer than 3 lockouts, a cause other than BRING_UP, a usable plan set and no COMMIT_CONFIG job; each enters START_FLASH; otherwise it is answered REFUSED_MODE, or REFUSED_BUSY where the job alone bars it (R167, R171). -/
def Obligations.StartAndResume : Prop :=
  (∀ (tag : Byte) (s : State), s.takes →
    (s.mode.mode ≠ .standby → exec (.start tag) s = .next (s.replied tag .refusedMode .empty))
    ∧ (s.mode.mode = .standby → (s.inUse.usable = false ∨ s.mode.responseActive = true ∨ s.mode.bringUp ≠ .ok) →
      exec (.start tag) s = .next (s.replied tag .refusedMode .empty))
    ∧ (s.mode.mode = .standby → s.inUse.usable = true → s.mode.responseActive = false → s.mode.bringUp = .ok →
      (s.hasJob .commitConfig = true → exec (.start tag) s = .next (s.replied tag .refusedBusy .empty))
      ∧ (s.hasJob .commitConfig = false → ∃ u : State,
        exec (.start tag) s = .next (State.replied (s.spread u) tag .ok .empty)
          ∧ u.mode.mode = .startFlash ∧ u.mode.timer = some (s.now + 100 * s.work.junction.startFlash)
          ∧ (∀ g : Group, (u.groups[g]).aspect
              = if s.work.groups[g].type = .vehicle then .flashAmber else .dark))))
  ∧ (∀ (tag : Byte) (s : State), s.takes →
    (s.mode.mode ≠ .failsafe → exec (.resume tag) s = .next (s.replied tag .refusedMode .empty))
    ∧ (s.mode.mode = .failsafe → (s.mode.responseActive = true ∨ 3 ≤ s.lockouts ∨ s.mode.cause = .bringUp
        ∨ s.inUse.usable = false) →
      exec (.resume tag) s = .next (s.replied tag .refusedMode .empty))
    ∧ (s.mode.mode = .failsafe → s.mode.responseActive = false → s.lockouts < 3 → s.mode.cause ≠ .bringUp →
      s.inUse.usable = true →
      (s.hasJob .commitConfig = true → exec (.resume tag) s = .next (s.replied tag .refusedBusy .empty))
      ∧ (s.hasJob .commitConfig = false → ∃ u : State,
        exec (.resume tag) s = .next (State.replied (s.spread u) tag .ok .empty)
          ∧ u.mode.mode = .startFlash ∧ u.mode.cause = .none
          ∧ u.mode.timer = some (s.now + 100 * s.work.junction.startFlash))))

/-- STOP, mode by mode (R167). That a SHUTDOWN whose target it changes keeps a LEARN job until the target is entered is the model's choice (log 58). -/
def Obligations.StopRequest : Prop :=
  ∀ (tag : Byte) (s : State), s.takes →
    ((s.mode.mode = .unconfigured ∨ s.mode.mode = .failsafe) →
      exec (.stop tag) s = .next (s.replied tag .refusedMode .empty))
    ∧ (s.mode.mode = .running → ∃ u : State,
      exec (.stop tag) s = .next (State.replied (s.spread u) tag .ok .empty)
        ∧ u.mode.mode = .shutdown ∧ u.mode.target = some .standby ∧ u.engine.state = .off ∧ u.engine.plan = none
        ∧ (∀ g : Group, (u.groups[g]).aspect ≠ .green)
        ∧ ∀ g : Group, (s.groups[g]).aspect = .green → (s.work.groups[g].type = .vehicle ∨ s.work.groups[g].type = .arrow) →
            (u.groups[g]).aspect = .amber ∧ (u.groups[g]).amberTimer = some (s.now + 100 * s.work.groups[g].amber))
    ∧ (s.mode.mode = .shutdown → s.mode.target = some .partFlash →
      exec (.stop tag) s = .next (State.replied { s with mode := { s.mode with target := some .standby } } tag .ok .empty))
    ∧ (s.mode.mode = .shutdown → s.mode.target ≠ some .partFlash →
      exec (.stop tag) s = .next (s.replied tag .ok .empty))
    ∧ ((s.mode.mode = .startFlash ∨ s.mode.mode = .startRed ∨ s.mode.mode = .partFlash) → ∃ u : State,
      exec (.stop tag) s = .next (State.replied (s.spread u) tag .ok .empty)
        ∧ u.mode.mode = .standby ∧ u.mode.timer = none)
    ∧ (s.mode.mode = .mainsOut →
      exec (.stop tag) s = .next (State.replied { s with mode := { s.mode with returnMode := .standby } } tag .ok .empty))
    ∧ (s.mode.mode = .standby → exec (.stop tag) s = .next (s.replied tag .ok .empty))

/-- SELECT_PLAN and CLEAR_OVERRIDE, refused in UNCONFIGURED: the override is set and, in RUNNING, becomes the pending change, in PART_FLASH a plan request; clearing returns to the time table, discards a pending change of the link and applies the table again. DEMAND enters every stage of its list that is not in force and answers with the demand set as it stands after the request (R60, R63, R67, R85); that this is the set which all blocks have left of the event is read from R85 and R176 by inference (log 37). -/
def Obligations.PlanAndDemand : Prop :=
  (∀ (tag : Byte) (s : State) (ref : PlanRef) (w : Timing), s.takes → ref.plan ≤ 255 → ref.tag ≤ 255 →
    (exec (.selectPlan tag ref none) s = .next (s.replied tag .refusedValue .empty))
    ∧ (s.mode.mode = .unconfigured →
      exec (.selectPlan tag ref (some w)) s = .next (s.replied tag .refusedMode .empty)
        ∧ exec (.clearOverride tag) s = .next (s.replied tag .refusedMode .empty))
    ∧ (s.mode.mode = .running → exec (.selectPlan tag ref (some w)) s
        = .next (State.replied (s.spread { s with engine := { s.engine with
            source := .linkOverride, override := some ref, change := some ⟨ref, w, .link⟩ } }) tag .ok .empty))
    ∧ (s.mode.mode = .partFlash → exec (.selectPlan tag ref (some w)) s
        = .next (State.replied (s.spread (State.ask { s with engine := { s.engine with
            source := .linkOverride, override := some ref } } .planRequest)) tag .ok .empty))
    ∧ (s.mode.mode ≠ .unconfigured → s.mode.mode ≠ .running → s.mode.mode ≠ .partFlash →
      exec (.selectPlan tag ref (some w)) s
        = .next (State.replied { s with engine := { s.engine with
            source := .linkOverride, override := some ref } } tag .ok .empty))
    ∧ (s.mode.mode ≠ .unconfigured → exec (.clearOverride tag) s
        = .next (State.replied (s.spread (State.evaluateTable { s with engine := { s.engine with
            source := .timeTable, override := none
            change := s.engine.change.filter fun c => c.origin ≠ .link } } true)) tag .ok .empty)))
  ∧ (∀ (tag : Byte) (s : State) (l : List Nat), s.takes →
    (l ≠ [] → l.length ≤ 16 → (∀ n ∈ l, 1 ≤ n ∧ n ≤ 16) → ∃ u : State,
      exec (.demand tag l) s = .next (State.replied (s.spread u) tag .ok (.demandSet (s.spread u).engine.demands))
        ∧ u = { s with engine := { s.engine with demands := u.engine.demands }, ev := u.ev }
        ∧ ∀ st : Fin 16, u.engine.demands[st] = true
            ↔ (s.engine.demands[st] = true ∨ (st.val + 1 ∈ l ∧ s.engine.inForce ≠ st.val + 1)))
    ∧ ((l = [] ∨ 16 < l.length ∨ ∃ n ∈ l, n < 1 ∨ 16 < n) →
      exec (.demand tag l) s = .next (s.replied tag .refusedValue .empty)))

/-- LEARN in RUNNING enters its job with a limit of 30 minutes and puts every used channel that is NOMINAL into LEARNING; SURVEY_NOW, in every mode, enters its job and begins a full pass, or ends HALTED at once where the surveyor is halted; CANCEL_JOB ends a LEARN or SURVEY_NOW job CANCELLED, with its JOB_DONE notice; elsewhere, or with such a job in the table, they are refused (R132, R134, R142, R149, R150, R180). The numbers of a SURVEY_NOW that ends HALTED at once, and of one that CANCEL_JOB ends, are those of the marks then standing (read from R150 by inference, log 42). -/
def Obligations.JobRequests : Prop :=
  (∀ (tag : Byte) (s : State), s.takes →
    (s.mode.mode ≠ .running → exec (.learn tag) s = .next (s.replied tag .refusedMode .empty))
    ∧ (s.mode.mode = .running → s.hasJob .learn = true →
      exec (.learn tag) s = .next (s.replied tag .refusedBusy .empty))
    ∧ (s.mode.mode = .running → s.hasJob .learn = false → ∃ u : State,
      exec (.learn tag) s
        = .next (State.replied (if u.anyLearning then u else u.endJob .learn .ok (.unlearned [])) tag .inProgress
            (.jobNumber s.link.nextJob))
      ∧ u.link = (s.addJob .learn (some (s.now + 1800000))).link
      ∧ u = { s with lamps := u.lamps, link := u.link }
      ∧ ∀ c : Chan, u.lamps[c]
          = if s.work.used c = true ∧ s.work.channels[c].learned = false ∧ (s.lamps[c]).learning = false then
              { s.lamps[c] with learning := true, learnSet := [], learnPeriods := 0, addedInPeriod := false }
            else s.lamps[c]))
  ∧ (∀ (tag : Byte) (s : State), s.takes →
    (s.hasJob .surveyNow = true → exec (.surveyNow tag) s = .next (s.replied tag .refusedBusy .empty))
    ∧ (s.hasJob .surveyNow = false → s.survey.halted = true →
      exec (.surveyNow tag) s
        = .next (State.replied ((s.addJob .surveyNow none).endJob .surveyNow .halted s.tally) tag .inProgress
            (.jobNumber s.link.nextJob)))
    ∧ (s.hasJob .surveyNow = false → s.survey.halted = false → ∃ u : State,
      exec (.surveyNow tag) s
        = .next (State.replied (u.wantSelection.selections 3) tag .inProgress (.jobNumber s.link.nextJob))
      ∧ u = { s with link := (s.addJob .surveyNow none).link, cores := u.cores, survey := u.survey }
      ∧ u.survey = { s.survey with
          active := true, full := true
          passNo := if s.survey.passNo = 65535 then 1 else s.survey.passNo + 1
          interval := some (s.now + 3600000 * s.work.thr.hours), window := some (s.now + 14400000), startHeld := false }
      ∧ ∀ k : CoreId, u.cores[k] = if s.work.cores[k].role = .unused then { s.cores[k] with mark := .none }
          else { s.cores[k] with mark := .due, abandons := 0 }))
  ∧ (∀ (tag : Byte) (s : State) (n : Nat), s.takes →
    ((∀ j ∈ s.link.jobs, j.number ≠ n) → exec (.cancelJob tag n) s = .next (s.replied tag .refusedValue .empty))
    ∧ (∀ j, s.link.jobs.find? (·.number = n) = some j →
      ((j.kind = .commitPlans ∨ j.kind = .commitConfig) →
        exec (.cancelJob tag n) s = .next (s.replied tag .refusedBusy .empty))
      ∧ (j.kind = .learn → ∃ u : State,
        exec (.cancelJob tag n) s = .next (State.replied u tag .ok .empty)
          ∧ u.hasJob .learn = false ∧ u = { s with lamps := u.lamps, link := u.link }
          ∧ u.link = (s.endJob .learn .cancelled (.unlearned s.unlearned)).link
          ∧ ∀ c : Chan, u.lamps[c] = if (s.lamps[c]).learning = true then
              { s.lamps[c] with learning := false, learnSet := [], learnPeriods := 0, addedInPeriod := false }
            else s.lamps[c])
      ∧ (j.kind = .surveyNow → ∃ u : State,
        exec (.cancelJob tag n) s = .next (State.replied u tag .ok .empty)
          ∧ u.hasJob .surveyNow = false ∧ u.survey = { s.survey with full := false }
          ∧ u.link = (s.endJob .surveyNow .cancelled s.tally).link
          ∧ u = { s with link := u.link, survey := u.survey })))

/-! ### Reading requests -/

/-- What IDENTIFY, READ_GROUP, READ_CHANNEL, READ_CORE, READ_DETECTOR and READ_ALARMS answer, and the numbers and copies they refuse; a READ_DETECTOR with the clear mark sets the count to 0 and nothing else; which item of the state each field of these answers shows, a timer by its remaining time; every request that only reads changes nothing but the reply and what the end of an event does (R23, R86, R103, R116, R136, R152, R164, R178). That a READ_CORE naming no copy is answered for WORKING (log 21) and that page 0 is refused (log 40) are the model's choices. -/
def Obligations.ReadAnswers : Prop :=
  (∀ (tag : Byte) (s : State), s.takes →
    (exec (.identify tag) s = .next (s.replied tag .ok (.identity "RSC-16" 1 s.power.rate s.mode.mode s.store.config
        s.store.plans s.store.survey)))
    ∧ (∀ g : Group, exec (.readGroup tag (g.val + 1) (some .edit)) s
        = .next (s.replied tag .ok (.groupCopy s.edit.groups[g] s.edit.ig[g] (s.edit.ig.map fun row => row[g]) none)))
    ∧ (∀ g : Group, exec (.readGroup tag (g.val + 1) (some .working)) s
        = .next (s.replied tag .ok (.groupCopy s.work.groups[g] s.work.ig[g] (s.work.ig.map fun row => row[g])
            (some (s.groupView g)))))
    ∧ (∀ c : Chan, exec (.readChannel tag (.channel (c.val + 1))) s
        = .next (s.replied tag .ok (.readChannel (s.relayView c) (s.lampView c))))
    ∧ (exec (.readChannel tag (.supply .smc)) s = .next (s.replied tag .ok (.readSupply .smc (s.supplyView s.smc s.work.smc))))
    ∧ (exec (.readChannel tag (.supply .ftr)) s = .next (s.replied tag .ok (.readSupply .ftr (s.supplyView s.ftr s.work.ftr))))
    ∧ (∀ k : CoreId, exec (.readCore tag (k.val + 1) (some (some .edit))) s
        = .next (s.replied tag .ok (.core s.edit.cores[k])))
    ∧ (∀ k : CoreId, exec (.readCore tag (k.val + 1) (some (some .working))) s
        = .next (s.replied tag .ok (.readCore (s.coreView k))))
    ∧ (∀ k : CoreId, exec (.readCore tag (k.val + 1) none) s = .next (s.replied tag .ok (.readCore (s.coreView k))))
    ∧ (∀ d : Det, exec (.readDetector tag (d.val + 1) false) s = .next (s.replied tag .ok (.readDetector (s.detView d))))
    ∧ (∀ d : Det, exec (.readDetector tag (d.val + 1) true) s
        = .next (State.replied (s.updDet d fun r => { r with count := 0 }) tag .ok (.readDetector (s.detView d))))
    ∧ (∀ p : Nat, 1 ≤ p → exec (.readAlarms tag p) s
        = .next (s.replied tag .ok (.alarms ((s.faults.alarms.drop (8 * (p - 1))).take 8) s.faults.alarms.length
            s.faults.listFull)))
    ∧ (exec (.readAlarms tag 0) s = .next (s.replied tag .refusedValue .empty))
    ∧ (∀ n, exec (.readGroup tag n none) s = .next (s.replied tag .refusedValue .empty))
    ∧ (∀ n, exec (.readCore tag n (some none)) s = .next (s.replied tag .refusedValue .empty))
    ∧ (∀ n b, (n < 1 ∨ 16 < n) → exec (.readGroup tag n b) s = .next (s.replied tag .refusedValue .empty))
    ∧ (∀ n, (n < 1 ∨ 48 < n) → exec (.readChannel tag (.channel n)) s = .next (s.replied tag .refusedValue .empty))
    ∧ (∀ n b, (n < 1 ∨ 64 < n) → exec (.readCore tag n b) s = .next (s.replied tag .refusedValue .empty))
    ∧ (∀ n b, (n < 1 ∨ 32 < n) → exec (.readDetector tag n b) s = .next (s.replied tag .refusedValue .empty)))
  ∧ (∀ (s : State) (e : Nat), s.remaining (some e) = some (e - s.now) ∧ s.remaining none = none)
  ∧ (∀ (s : State) (g : Group),
    let r := s.groups[g]
    s.groupView g
      = { aspect := r.aspect, conflictRedOut := r.conflictRedOut, hold := r.hold, greenUnavailable := r.greenUnavailable
          pendingGreen := r.pendingGreen, amber := s.remaining r.amberTimer, redAmber := s.remaining r.redAmberTimer
          greenRelease := r.greenRelease, lastGreenOff := r.lastGreenOff, greenMark := r.greenMark })
  ∧ (∀ (s : State) (c : Chan),
    let r := s.relays[c]
    let l := s.lamps[c]
    let x := s.work.channels[c]
    s.relayView c
      = { state := r.state, origin := r.origin, coil := r.coil, proof := r.proof, held := r.held
          wait := s.remaining r.waitTimer, operate := s.remaining r.opTimer, release := s.remaining r.relTimer
          gen := r.gen, darkSince := r.darkSince, limits := x.limits }
    ∧ s.lampView c
      = { used := s.work.used c, lamps := s.work.lampCount c
          rmin := if (colourOf c).val = 0 then some s.work.groups[groupOf c].rmin else none
          lamp := x.lamp, nominal := x.nominal, iref := x.iref, learned := x.learned, learnState := s.learnState c
          leak := x.leakApplied, typeDefault := decide (x.leak = .typeDefault), lampsLit := l.lampsLit, last := l.last
          lit := l.lit, settle := s.remaining l.settle, repeatTimer := s.remaining l.repeatTimer
          dark := s.remaining l.dark, discard := l.flashDiscard, litCount := l.litCount, darkCount := l.darkCount
          learning := if l.learning = true then some (l.learnSet, l.learnPeriods) else none }
    ∧ (∀ n, x.leak = .milliamps n → x.leakApplied = n)
    ∧ (x.leak = .typeDefault → x.lamp = .incandescent → x.leakApplied = 30)
    ∧ (x.leak = .typeDefault → x.lamp = .led → x.leakApplied = 10)
    ∧ (l.learning = true → s.learnState c = .learning)
    ∧ (l.learning = false → x.learned = true → s.learnState c = .learned)
    ∧ (l.learning = false → x.learned = false → s.learnState c = .nominal))
  ∧ (∀ (s : State) (r : SupplyRelay) (l : Limits),
    s.supplyView r l
      = { state := r.state, coil := r.coil, proof := r.proof, held := r.held, operate := s.remaining r.opTimer
          release := s.remaining r.relTimer, limits := l })
  ∧ (∀ (s : State) (k : CoreId),
    let r := s.cores[k]
    (s.coreView k).cfg = s.work.cores[k] ∧ (s.coreView k).hist = r.hist ∧ (s.coreView k).mark = r.mark
    ∧ (s.coreView k).abandons = r.abandons ∧ (s.coreView k).test = r.test
    ∧ (s.survey.underTest = some k →
      (s.coreView k).charge = s.remaining s.survey.charge ∧ (s.coreView k).release = s.remaining s.survey.release
      ∧ (r.test = .measureX16 → (s.coreView k).range = some .leakX16)
      ∧ (r.test = .measureX1 → (s.coreView k).range = some .leakX1)
      ∧ (r.test ≠ .measureX16 → r.test ≠ .measureX1 → (s.coreView k).range = none))
    ∧ (s.survey.underTest ≠ some k →
      (s.coreView k).charge = none ∧ (s.coreView k).release = none ∧ (s.coreView k).range = none))
  ∧ (∀ (s : State) (d : Det),
    let r := s.dets[d]
    let x := s.work.dets[d]
    (s.detView d).cfg = x ∧ (s.detView d).raw = r.raw ∧ (s.detView d).accepted = r.accepted
    ∧ (s.detView d).state = r.state ∧ (s.detView d).debounce = s.remaining r.debounce
    ∧ (s.detView d).stuckFor = (r.stuckStart.map fun e => s.now - e)
    ∧ (s.detView d).quietFor = (r.quietStart.map fun e => s.now - e) ∧ (s.detView d).count = r.count
    ∧ (∀ st, x.kind = .presence → x.extend = some st → (s.detView d).occupied = some s.occupied[st])
    ∧ ((x.kind ≠ .presence ∨ x.extend = none) → (s.detView d).occupied = none))
  ∧ (∀ (i : Instr) (s : State), onlyReads i = true → s.takes →
    ∃ st b, exec i s = .next (s.replied (requestTag i) st b))

/-- READ_STATUS answers each part from the state, which item each of its fields shows being given one by one, a timer by its remaining time; the STORE part alone uses up a free value (log 8), its other items as the store controller holds them; a part of no known name, and page 0 of the FAULT part (the model's choice, log 40), is answered REFUSED_VALUE (R72, R103, R115, R152, R164, R178). The gaining groups are those sorted as gaining at the decision of the change under way that wait for their green or have been given it, which is read from R56 to R58 by inference (log 68). The model's choices are that the dip mark shown before a conversion's first half cycle is that of the conversion before (log 55), and that the requests, TAGs and notices of the LINK part are given by their numbers (log 63). -/
def Obligations.ReadStatus : Prop :=
  (∀ s : State,
    s.modeView
      = { mode := s.mode.mode, cause := s.mode.cause, style := s.mode.style, target := s.mode.target
          returnMode := s.mode.returnMode, timer := s.remaining s.mode.timer, bringUp := s.mode.bringUp
          responseActive := s.mode.responseActive }
    ∧ s.outputView
      = { smc := s.smc.state, smcProof := s.smc.proof, ftr := s.ftr.state, ftrProof := s.ftr.proof
          flashBus := s.flashBus, groups := s.monitor.map fun m => (m.proven, m.lastEnd), lockouts := s.lockouts }
    ∧ s.linkView
      = { queued := s.link.queue.length, busy := s.link.busy.length, notices := s.link.notices.length
          lost := s.link.lost, jobs := s.link.jobs.map fun j => (j.number, j.kind), nextJob := s.link.nextJob }
    ∧ (∀ r : Suspicion, s.suspicionView r
      = { key := r.key, level := r.level, count := r.count, start := r.start, hold := s.remaining r.hold }))
  ∧ (∀ s : State,
    let e := s.engine
    let v := s.sequenceView
    v = { state := e.state, plan := v.plan, record := e.record, stage := e.stage, prevStage := v.prevStage
          gaining := v.gaining, green := s.remaining e.greenTimer, maximum := s.remaining e.maxTimer
          gap := s.remaining e.gapTimer, gapped := e.gapped, demands := e.demands, source := e.source
          override := e.override, tableResult := e.tableResult, change := e.change
          clock := ⟨s.clock.weekday, s.clock.hour, s.clock.minute, s.clock.second⟩, clockValid := s.clock.valid }
    ∧ (e.plan = none → v.plan = none)
    ∧ (∀ q, e.plan = some q → v.plan = some ⟨q.number, q.tag, q.kind⟩)
    ∧ (e.state = .changing → v.prevStage = e.prevStage ∧ ∀ g : Group, v.gaining[g] = true ↔
        e.gaining[g] = true ∧ ((s.groups[g]).pendingGreen = true ∨ (s.groups[g]).aspect = .green))
    ∧ (e.state ≠ .changing → v.prevStage = none ∧ ∀ g : Group, v.gaining[g] = false))
  ∧ (∀ s : State,
    let v := s.measView
    v = { conv := s.meas.conv, range := s.meas.range, requester := v.requester, current := s.meas.current.map fun r => r.subject, dip := s.meas.dip
          lampQueued := v.lampQueued, leakQueued := v.leakQueued, refCount := s.meas.refCount, mains := s.mains.state
          lossTimer := s.remaining s.mains.lossTimer, returnTimer := s.remaining s.mains.returnTimer
          level := s.mains.level, dips := s.mains.dips, losses := s.mains.losses }
    ∧ (s.meas.current = none → v.requester = none)
    ∧ (∀ r c, s.meas.current = some r → (r.subject = .lit c ∨ r.subject = .dark c) → v.requester = some .lampProver)
    ∧ (∀ r k, s.meas.current = some r → r.subject = .leak k → v.requester = some .surveyor)
    ∧ v.lampQueued = (s.meas.queue.filter fun r => match r.subject with
        | .lit _ => true
        | .dark _ => true
        | .leak _ => false).length
    ∧ ((∀ r ∈ s.meas.queue, ∀ k, r.subject ≠ .leak k) → v.leakQueued = none)
    ∧ (∀ l₁ r l₂ k, s.meas.queue = l₁ ++ r :: l₂ → (∀ x ∈ l₁, ∀ j, x.subject ≠ .leak j) → r.subject = .leak k →
        v.leakQueued = some (k, r.range)))
  ∧ (∀ s : State,
    let x := s.survey
    let v := s.surveyView
    v = { active := x.active, full := x.full, passNo := x.passNo, window := s.remaining x.window
          interval := s.remaining x.interval, eligibility := s.remaining x.eligibility, charge := s.remaining x.charge
          release := s.remaining x.release, startHeld := x.startHeld, halted := x.halted, underTest := x.underTest
          waiting := v.waiting, warn := s.work.thr.warn, low := s.work.thr.low, hours := s.work.thr.hours }
    ∧ ((∀ k : CoreId, (s.cores[k]).test ≠ .waitEligible) → v.waiting = none)
    ∧ (∀ k : CoreId, (s.cores[k]).test = .waitEligible → (∀ j : CoreId, j < k → (s.cores[j]).test ≠ .waitEligible) →
        v.waiting = some k))
  ∧ ∀ (tag : Byte) (s : State) (p : Nat), s.takes →
    exec (.readStatus tag .mode p) s = .next (s.replied tag .ok (.modeStatus s.modeView))
    ∧ exec (.readStatus tag .sequence p) s = .next (s.replied tag .ok (.sequenceStatus s.sequenceView))
    ∧ exec (.readStatus tag .output p) s = .next (s.replied tag .ok (.outputStatus s.outputView))
    ∧ exec (.readStatus tag .measurement p) s = .next (s.replied tag .ok (.measStatus s.measView))
    ∧ exec (.readStatus tag .survey p) s = .next (s.replied tag .ok (.surveyStatus s.surveyView))
    ∧ (1 ≤ p → exec (.readStatus tag .fault p) s
        = .next (s.replied tag .ok (.faultStatus (((s.faults.suspicions.drop (8 * (p - 1))).take 8).map s.suspicionView)
            (Vector.ofFn fun g => (s.faults.patterns[g], s.faults.responses[g])) s.mode.responseActive)))
    ∧ exec (.readStatus tag .fault 0) s = .next (s.replied tag .refusedValue .empty)
    ∧ exec (.readStatus tag .link p) s = .next (s.replied tag .ok (.linkStatus s.linkView))
    ∧ (∃ v : StoreView, exec (.readStatus tag .store p) s
          = .next (State.replied { s with freeUses := s.freeUses + 1 } tag .ok (.storeStatus v))
        ∧ v.config = s.store.config ∧ v.plans = s.store.plans ∧ v.survey = s.store.survey ∧ v.queue = s.store.queue
        ∧ v.writing.map (·.1) = s.store.writing.map (·.image))
    ∧ exec (.readStatus tag .other p) s = .next (s.replied tag .refusedValue .empty)

/-- ACK_ALARMS removes every CLEARED record, keeps the ACTIVE ones in their order, clears the list-full indication and answers with the number removed; RESTART is answered OK, and from then on every byte is discarded (R164, R175, R185). -/
def Obligations.AckAndRestart : Prop :=
  ∀ (tag : Byte) (s : State), s.takes →
    exec (.ackAlarms tag) s
      = .next (State.replied { s with faults := { s.faults with
          alarms := s.faults.alarms.filter (·.active), listFull := false } } tag .ok
          (.removed (s.faults.alarms.length - (s.faults.alarms.filter (·.active)).length)))
    ∧ exec (.restart tag) s
      = .next (State.close (State.putReply { s with link := { s.link with restarting := true, rx := none, rxTimer := none } }
          ⟨tag, .ok, .empty, true⟩))
    ∧ ∀ t, exec (.restart tag) s = .next t → t.listening = false

/-! ### Power and start (spec/10) -/

/-- POWER_ON, POWER_LOSS and the reply of a RESTART: every block takes its start value, the coils are de-energized and the jobs dropped; the blocks of the store stay, a write in progress leaves its image cut; the calendar clock comes up invalid but keeps its reading across a RESTART. REFERENCE_CONVERSION_END, at the end of its 20 ms, holds the count, reads every proof and leaves the converter IDLE; the check passes from 51381 to 53477 (R71, R105, R172, R185). A request that stands queued then is granted at the end of that event (R108). The values that the spec states no start value for are the model's: power and the straps (log 3), the milliseconds (log 4), the proofs and raw inputs before they are read (log 5), the failsafe style (log 6), the count and the level not yet measured (log 64), the bring-up code before the start event (log 75); that a RESTART takes the straps last read at a POWER_ON is presumed (log 62). -/
def Obligations.PowerAndRestart : Prop :=
  (∀ (s : State) (rate : LineRate),
    (s.power.phase = .off → ∃ t, exec (.powerOn rate) s = .next t
      ∧ t.power.phase = .reference ∧ t.power.rate = rate ∧ t.power.cause = .powerOn ∧ t.now = 0
      ∧ t.clock = ⟨1, 0, 0, 0, 0, false⟩ ∧ t.mode.mode = .unconfigured ∧ t.meas.conv = .reference
      ∧ t.meas.refEnd = some 20 ∧ t.link = Link.default ∧ t.store = s.store.cut ∧ t.pending = s.pending
      ∧ t = { State.reset with power := t.power, store := s.store.cut, freeUses := s.freeUses, pending := s.pending })
    ∧ (∃ t, exec .powerLoss s = .next t ∧ t.power.phase = .off ∧ t.store = s.store.cut ∧ t.link.jobs = []
      ∧ (∀ c : Chan, (t.relays[c]).coil = false)
      ∧ t = { State.unpowered with power := t.power, store := s.store.cut, freeUses := s.freeUses, pending := s.pending })
    ∧ (∀ r, s.link.tx = some (.reply r) → r.restarts = true → ∃ t, exec .frameTransmitted s = .next t
      ∧ t.power.phase = .reference ∧ t.power.cause = .restart ∧ t.power.rate = s.power.strap ∧ t.clock = s.clock
      ∧ t = { State.reset with power := t.power, clock := s.clock, store := s.store.cut, freeUses := s.freeUses
                               pending := s.pending })
    ∧ (s.store.cut.nvConfig = s.store.nvConfig ∧ s.store.cut.nvPlans = s.store.nvPlans
      ∧ s.store.cut.nvSurvey = s.store.nvSurvey ∧ s.store.cut.queue = [] ∧ s.store.cut.writing = none))
  ∧ (∀ (s : State) (count : BitVec 16) (loads : Vector Bool 48) (smc ftr line : Bool) (e : Nat),
    (s.power.phase = .reference → s.meas.refEnd = some e → ∃ t,
      exec (.referenceConversionEnd count loads smc ftr line) s = .next t
      ∧ t.power.phase = .reading ∧ (s.meas.queue = [] → t.meas.conv = .idle)
      ∧ (∀ r, chooseReq s.meas.queue = some r → t.meas.current = some r
          ∧ t.meas.conv = if s.ev.boundary = true then .firstHalf else .armed)
      ∧ t.meas.refCount = count
      ∧ t.meas.refEnd = none
      ∧ (∀ c : Chan, t.relays[c] = { s.relays[c] with proof := loads[c] })
      ∧ t.smc = { s.smc with proof := smc } ∧ t.ftr = { s.ftr with proof := ftr } ∧ t.survey.lineClosed = line
      ∧ (t.power.proofFault = true ↔ (∃ c : Chan, loads[c] = true) ∨ smc = true ∨ ftr = true)
      ∧ t.power.lineFault = line)
    ∧ (referenceOk count = true ↔ 51381 ≤ count.toNat ∧ count.toNat ≤ 53477))

/-- START_EVENT on a controller in its bring-up: the phase is RUNNING, the configuration, the time-of-day table and the staging copy take the valid images or their defaults, and so does the set in use, with its void marks (R4, R28, R68, R173); an image is valid where its kind, its length and its CRC-32 agree, over bytes whose layout is free (log 11), and so is every image a write has left (R183, R184); the bring-up code is that of the first failing check of Table 10-4 (R172). On a controller that nothing has happened to since its start began, STARTED, with the code and the start mode, is the first frame sent; the start mode stands where CONFIG is invalid, UNCONFIGURED, and where a check fails, FAILSAFE with cause BRING_UP; with no check failing and no restored condition that could make a junction request it is STANDBY, left for START_FLASH at once where auto-start is on and the set in use is usable (R173). -/
def Obligations.StartEvent : Prop :=
  ∀ (s : State) (answers : Bool) (raw : Vector Bool 32),
    (s.power.phase = .reading → ∃ t, exec (.startEvent answers raw) s = .next t ∧ t.power.phase = .running
      ∧ t.now = s.now ∧ t.clock = s.clock
      ∧ t.staging = ((plansOf (readImage answers .plans s.store.nvPlans)).getD .empty).dropVoids
      ∧ t.tod = ((configOf (readImage answers .config s.store.nvConfig)).map (·.tod)).getD []
      ∧ t.edit = ((configOf (readImage answers .config s.store.nvConfig)).map (·.settings)).getD .default
      ∧ t.work = t.edit
      ∧ (s.pendingSet = none →
        t.inUse = ((plansOf (readImage answers .plans s.store.nvPlans)).getD .empty).dropVoids.setVoids t.work)
      ∧ (∀ d : Det, (t.dets[d]).raw = raw[d])
      ∧ t.mode.bringUp = (s.failedChecks answers).head?.getD .ok
      ∧ (s.Fresh →
        let config := (readImage answers .config s.store.nvConfig).isSome
        let code := (s.failedChecks answers).head?.getD .ok
        (∃ lost, t.link.tx = some (.notice (.started code (startMode config code) config
          (readImage answers .plans s.store.nvPlans).isSome (readImage answers .survey s.store.nvSurvey).isSome
          (decide (s.power.cause = .restart)) s.clock.valid) lost))
        ∧ (startMode config code ≠ .standby → t.mode.mode = startMode config code)
        ∧ (startMode config code = .failsafe → t.mode.cause = .bringUp)
        ∧ ((∀ v, surveyOf (readImage answers .survey s.store.nvSurvey) = some v →
              ∀ k : CoreId, (v.cores[k]).level ≠ .low ∧ (v.cores[k]).level ≠ .earthFault) →
          startMode config code = .standby →
          t.mode.mode = if t.work.junction.autoStart = true ∧ t.inUse.usable = true then .startFlash else .standby)))
    ∧ (∀ (k : ImageKind) (x : Stored), (readImage false k (some x) = none ∧ readImage answers k none = none)
        ∧ (x.kind = k.code → imageOverhead + x.length ≤ k.capacity →
            x.crc = crc32 (imageHeader x.kind x.generation x.length ++ contentBytes k x.content) →
            readImage true k (some x) = some x)
        ∧ ((x.kind ≠ k.code ∨ k.capacity < imageOverhead + x.length
            ∨ x.crc ≠ crc32 (imageHeader x.kind x.generation x.length ++ contentBytes k x.content)) →
            readImage true k (some x) = none))
    ∧ (∀ (k : ImageKind) (g : Nat) (c : ImageContent),
        readImage true k (some (Stored.form k g c)) = some (Stored.form k g c))
    ∧ ((s.failedChecks answers).head?.getD .ok =
        if referenceOk s.meas.refCount = false then .converterFault
        else if s.power.proofFault = true then .relayProofFault
        else if s.power.lineFault = true then .crosspointProofFault
        else if answers = false then .storeFault else .ok)
    ∧ (∀ code, startMode false code = .unconfigured ∧ startMode true code = if code = .ok then .standby else .failsafe)

/-! ### Groups and the sequence engine (spec/01, spec/03) -/

/-- AMBER_TIMER_EXPIRY: the group shows RED, an ARROW group DARK; a gaining group whose green-release time has come is given green in the same event, unless it has lost its last inhibit reason in it (R18), and one whose red-amber start has come shows RED_AMBER until its green-release time. RED_AMBER_START_REACHED, RED_AMBER_TIMER_EXPIRY and GREEN_RELEASE_TIME_REACHED: a gaining group in RED shows RED_AMBER, or GREEN where that time has come too; at the red-amber timer, and at the green-release time of a group other than VEHICLE, the group is given green. No other group changes (R7, R8, R21, R22). The red-amber start held beside a gaining group is the model's own item (log 47), and that its green-release time is none once it is given green is read from R23 by inference (log 48). -/
def Obligations.GroupTimers : Prop :=
  (∀ (g : Group) (s : State) (e : Nat), (s.groups[g]).amberTimer = some e →
    let t := s.elapseTo e
    let a : Aspect := if s.work.groups[g].type = .arrow then .dark else .red
    let r : GroupRun := { s.groups[g] with aspect := a, amberTimer := none }
    ∃ u : State, exec (.amberTimerExpiry g) s = .next (t.cascade u)
      ∧ u = { t with groups := u.groups, ev := u.ev } ∧ (∀ h : Group, h ≠ g → u.groups[h] = s.groups[h])
      ∧ (r.pendingGreen = false → u.groups[g] = r)
      ∧ (∀ x, r.pendingGreen = true → r.greenRelease = some x → x ≤ t.now →
          u.groups[g] = if g ∈ s.ev.freed then r else r.given)
      ∧ (∀ x y, r.pendingGreen = true → r.greenRelease = some x → t.now < x → a = .red → r.redAmberStart = some y →
          y ≤ t.now → u.groups[g] = { r with aspect := .redAmber, redAmberTimer := some x })
      ∧ (∀ x, r.pendingGreen = true → r.greenRelease = some x → t.now < x →
          (a = .dark ∨ r.redAmberStart = none ∨ ∃ y, r.redAmberStart = some y ∧ t.now < y) → u.groups[g] = r))
  ∧ (∀ (g : Group) (s : State) (e x : Nat), (s.groups[g]).greenRelease = some x →
    let t := s.elapseTo e
    ((s.groups[g]).pendingGreen = true → (s.groups[g]).aspect = .red → (s.groups[g]).redAmberStart = some e → ∃ u : State,
      exec (.redAmberStartReached g) s = .next (t.cascade u)
        ∧ u = { t with groups := u.groups, ev := u.ev } ∧ (∀ h : Group, h ≠ g → u.groups[h] = s.groups[h])
        ∧ (x ≤ t.now → u.groups[g] = if g ∈ s.ev.freed then s.groups[g] else (s.groups[g]).given)
        ∧ (t.now < x → u.groups[g] = { s.groups[g] with aspect := .redAmber, redAmberTimer := some x }))
    ∧ ((s.groups[g]).redAmberTimer = some e → ∃ u : State,
      exec (.redAmberTimerExpiry g) s = .next (t.cascade u)
        ∧ u = { t with groups := u.groups, ev := u.ev } ∧ (∀ h : Group, h ≠ g → u.groups[h] = s.groups[h])
        ∧ u.groups[g] = (s.groups[g]).given)
    ∧ ((s.groups[g]).pendingGreen = true → (s.groups[g]).aspect ≠ .amber → s.work.groups[g].type ≠ .vehicle → x = e →
      ∃ u : State, exec (.greenReleaseTimeReached g) s = .next (t.cascade u)
        ∧ u = { t with groups := u.groups, ev := u.ev } ∧ (∀ h : Group, h ≠ g → u.groups[h] = s.groups[h])
        ∧ u.groups[g] = (s.groups[g]).given))

/-- The green-release time computed at a decision is no earlier than the decision, no earlier than the intergreen after the last green-off of every conflicting group that carries the mark, and no later than the latest of these and of the group's own amber expiry (R21). -/
def Obligations.ReleaseTime : Prop :=
  ∀ (s : State) (j : Group),
    s.now ≤ s.releaseTime j
    ∧ (∀ (i : Group) (ig off : Nat), s.work.ig[i][j] = some ig → (s.groups[i]).lastGreenOff = some off →
        (s.groups[i]).greenMark = true → off + 100 * ig ≤ s.releaseTime j)
    ∧ (∀ a, (s.groups[j]).aspect = .amber → (s.groups[j]).amberTimer = some a → a ≤ s.releaseTime j)
    ∧ (s.releaseTime j = s.now
      ∨ (∃ (i : Group) (ig off : Nat), s.work.ig[i][j] = some ig ∧ (s.groups[i]).lastGreenOff = some off
          ∧ (s.groups[i]).greenMark = true ∧ s.releaseTime j = off + 100 * ig)
      ∨ ((s.groups[j]).aspect = .amber ∧ (s.groups[j]).amberTimer = some (s.releaseTime j)))

/-- GREEN_TIMER_EXPIRY, MAXIMUM_TIMER_EXPIRY and GAP_TIMER_EXPIRY stop their timer, and the last sets the gapped mark, before the engine decides; with its green timer run out, a FIXED plan takes a decision, an ACTUATED plan takes one at max-out and at gap-out, starts the maximum timer where an opposing record first exists, and with no opposing record and no max-out rests in green with no change; an opposing record is one that qualifies and names another stage than the current one; a PROMPT change is taken once the green timer has run out, the green period ended, its notice queued and a decision taken where its translation succeeds, its failure reported otherwise; where the last green of the stage has been ended by an inhibit reason a decision is taken at once. In RESTING and ALL_RED the decision of an occasion is taken first, and then a PROMPT change in the same way, also where no plan is current; an engine that is barred from decisions or has no current plan takes none (R37, R48 to R51, R55, R59, R61, R64, R66). That a PROMPT change that fails with no plan current has P1 translated instead is read from R37 by inference (log 54), and that a max-out takes with it a green timer that runs out in the same millisecond is read from R51 (log 30). -/
def Obligations.GreenPeriods : Prop :=
  (∀ (s : State) (e : Nat),
    let t := s.elapseTo e
    (s.engine.greenTimer = some e →
      exec .greenTimerExpiry s = .next (t.cascade { t with engine := { t.engine with greenTimer := none } }))
    ∧ (s.engine.gapTimer = some e →
      exec .gapTimerExpiry s = .next (t.cascade { t with engine := { t.engine with gapTimer := none, gapped := true } }))
    ∧ (s.engine.maxTimer = some e → ∃ u : State, exec .maximumTimerExpiry s = .next (t.cascade u)
      ∧ u = { t with engine := { t.engine with maxTimer := none, greenTimer := u.engine.greenTimer }
                     ev := { t.ev with maxOut := true } }
      ∧ (∀ x, s.engine.greenTimer = some x → u.engine.greenTimer = if t.now < x then some x else none)
      ∧ (s.engine.greenTimer = none → u.engine.greenTimer = none)))
  ∧ (∀ s : State, s.workGreen true = s.stopTimers.takeDecision)
  ∧ (∀ s : State, s.engine.state = .green →
    let t := s.dropInhibited
    let shown (x : State) : Prop :=
      ∃ g : Group, (s.stageGroups (s.engine.stage.getD 0))[g] = true ∧ (x.groups[g]).aspect = .green
    (shown s → ¬ shown t → s.engineWork = t.stopTimers.takeDecision)
    ∧ ((¬ shown s ∨ shown t) → s.engineWork = t.workGreen false))
  ∧ (∀ s : State, s.opposing = true ↔ ∃ p r, s.engine.plan = some p ∧ r ∈ p.records ∧ s.qualifies r = true
      ∧ s.engine.stage ≠ some (r.stage.val + 1))
  ∧ (∀ (s : State) (p : ResolvedPlan), s.engine.plan = some p →
    (s.engine.greenTimer = none → ∀ c, s.engine.change = some c → c.timing = .boundary) →
    (p.kind = .fixed → s.engine.greenTimer = none → s.workGreen false = s.stopTimers.takeDecision)
    ∧ (p.kind = .fixed → s.engine.greenTimer ≠ none → s.workGreen false = s)
    ∧ (p.kind = .actuated → s.engine.greenTimer = none →
        (s.ev.maxOut = true ∨ (s.engine.gapped = true ∧ s.opposing = true)) →
        s.workGreen false = s.stopTimers.takeDecision)
    ∧ (p.kind = .actuated → s.opposing = false → (s.engine.greenTimer ≠ none ∨ s.ev.maxOut = false) →
        s.workGreen false = s)
    ∧ (p.kind = .actuated → s.ev.maxOut = false → s.opposing = true →
        (s.engine.greenTimer ≠ none ∨ s.engine.gapped = false) →
        (s.engine.maxTimer ≠ none → s.workGreen false = s)
        ∧ (∀ i r, s.engine.maxTimer = none → s.engine.record = some i → p.records[i - 1]? = some r →
          s.workGreen false = { s with engine := { s.engine with maxTimer := some (s.now + 100 * r.max) } })))
  ∧ (∀ (s : State) (c : PendingChange), s.engine.change = some c → c.timing = .prompt → s.engine.greenTimer = none →
    s.workGreen false = if s.takePrompt.2 = true then s.takePrompt.1 else s.takePrompt.1.workGreen false)
  ∧ (∀ (s : State) (c : PendingChange), s.engine.change = some c → c.timing = .prompt →
    s.PromptTaken s.takePrompt.1 c
    ∧ (s.takePrompt.2 = true ↔ (∃ q, s.inUse.translate c.ref = .ok q)
        ∨ (s.engine.plan = none ∧ ∃ q, s.inUse.translate ⟨1, 0⟩ = .ok q)))
  ∧ (∀ s : State, (s.engine.barred = true ∨ s.engine.plan = none) → s.takeDecision = s)
  ∧ (∀ (s : State) (ended : Bool),
    let u : State := { s with ev := { s.ev with occasion := false } }
    let v := if ended = true ∨ s.ev.occasion = true then u.takeDecision else u
    (v.engine.state ≠ .resting → v.engine.state ≠ .allRed → s.workIdle ended = v)
    ∧ ((∀ c, v.engine.change = some c → c.timing = .boundary) → s.workIdle ended = v)
    ∧ ((v.engine.state = .resting ∨ v.engine.state = .allRed) → (∃ c, v.engine.change = some c ∧ c.timing = .prompt) →
        s.workIdle ended = v.takePrompt.1))
  ∧ (∀ s : State, (s.engine.state = .resting ∨ s.engine.state = .allRed) →
    let t := s.dropInhibited
    let shown (x : State) : Prop :=
      ∃ g : Group, (s.stageGroups (s.engine.stage.getD 0))[g] = true ∧ (x.groups[g]).aspect = .green
    (shown s → ¬ shown t → s.engineWork = t.workIdle true)
    ∧ ((¬ shown s ∨ shown t) → s.engineWork = t.workIdle false))

/-- A record qualifies where it is ALWAYS or its stage is demanded, and some group of its stage may be given green. A decision, of an engine not barred from it, examines the records of the current plan from the one after the current record, or from the start index where none is current, to the last, and takes the first that qualifies. Where none of these does it passes to record 1 and crosses the plan boundary: a pending set is adopted, else a pending change is translated; where this has made a plan current that plan is scanned from its start index, otherwise the scan goes on to the record it began after. The record taken begins a new green period of the stage in force or a change toward its stage, which ends the greens outside it and sets the green-release time and red-amber start of each gaining group, a group whose time has come taken on in the event (but for one that lost its last inhibit reason in it, R18 as read by inference, log 66); with no record taken the engine rests while a group of the stage is GREEN and goes to ALL_RED otherwise (R19, R21, R22, R44, R47, R49, R52, R53, R54, R56, R60, R65). Where an adoption leaves no plan that translates, none is current (log 15), and where it defines the stage in force anew its groups are those of the new definition (log 84): the model's choices. -/
def Obligations.Decision : Prop :=
  (∀ (s : State) (r : ResolvedRecord), s.qualifies r = true ↔
    (r.mode = .always ∨ s.engine.demands[r.stage] = true)
    ∧ ∃ g : Group, r.groups[g] = true ∧ s.work.groups[g].type ≠ .unused ∧ (s.groups[g]).conflictRedOut = false
        ∧ (s.groups[g]).hold = false ∧ (s.groups[g]).greenUnavailable = false)
  ∧ ∀ (s : State) (p : ResolvedPlan) (first last : Nat), s.engine.plan = some p → s.engine.barred = false →
    ((∃ cur, s.engine.record = some cur ∧ first = cur + 1 ∧ last = cur)
      ∨ (s.engine.record = none ∧ first = p.start ∧ last = p.start - 1)) →
    (∀ i r, s.firstOf p first i r → s.Takes s.takeDecision i r)
    ∧ ((∀ i r, ¬ s.firstOf p first i r) →
      (last = 0 → s.TakesNone s.takeDecision)
      ∧ (1 ≤ last →
        let v := s.crossBoundary.1
        (s.crossBoundary.2 = false →
          (∀ i r, i ≤ last → v.firstOf p 1 i r → v.Takes s.takeDecision i r)
          ∧ ((∀ i r, i ≤ last → ¬ v.firstOf p 1 i r) → v.TakesNone s.takeDecision))
        ∧ (∀ q, s.crossBoundary.2 = true → v.engine.plan = some q →
          (∀ i r, v.firstOf q q.start i r → v.Takes s.takeDecision i r)
          ∧ ((∀ i r, ¬ v.firstOf q q.start i r) →
            (∀ i r, i < q.start → v.firstOf q 1 i r → v.Takes s.takeDecision i r)
            ∧ ((∀ i r, i < q.start → ¬ v.firstOf q 1 i r) → v.TakesNone s.takeDecision)))
        ∧ (s.crossBoundary.2 = true → v.engine.plan = none → v.TakesNone s.takeDecision)
        ∧ (s.pendingSet = none → s.engine.change = none → s.crossBoundary = (s, false))
        ∧ (∀ c, s.pendingSet = none → s.engine.change = some c → v.engine.change = none
          ∧ (∀ q, s.inUse.translate c.ref = .ok q →
              s.crossBoundary.2 = true ∧ v.engine.plan = some q ∧ v.engine.record = none)
          ∧ (∀ k, s.inUse.translate c.ref = .error k →
              s.crossBoundary.2 = false ∧ v.engine.plan = some p ∧ v.engine.record = s.engine.record))
        ∧ (∀ x, s.pendingSet = some x → s.crossBoundary.2 = true ∧ v.pendingSet = none
          ∧ v.inUse = x.set.setVoids s.work ∧ v.engine.change = none ∧ v.engine.record = none
          ∧ ∀ q, v.inUse.translate ((s.engine.change.map PendingChange.ref).getD p.ref) = .ok q →
              v.engine.plan = some q)))

/-- CONFLICT_RED_OUT stands, once judged, on exactly the groups that conflict with a group whose RED_OUT is confirmed, and a confirmation or an end of RED_OUT judges it in its own event; a group whose first reason has arrived has its green ended, or ceases to be gaining; one whose last reason is removed has become green-eligible, which is an occasion for a decision in RESTING and ALL_RED, and nothing the sequence engine does in that event gives it green (that R18 goes before R56 here is read by inference, log 66); the pattern number of a group is the sum of its five flags, CABLE from the cores that serve it; a changed pattern takes its response from the table, sets or removes HOLD, and makes a junction request where the response is junction-level and greater than before (R14, R15, R17, R18, R160, R162). -/
def Obligations.InhibitReasons : Prop :=
  (∀ (s : State) (g : Group), ∃ r a gr d c : Bool,
    s.patternOf g = r.toNat + 2 * a.toNat + 4 * gr.toNat + 8 * d.toNat + 16 * c.toNat
    ∧ (r = true ↔ (⟨.group g, .redOut⟩ : Cond) ∈ s.faults.confirmed)
    ∧ (a = true ↔ (⟨.channel (chanOf g 1), .lampOut⟩ : Cond) ∈ s.faults.confirmed)
    ∧ (gr = true ↔ (⟨.channel (chanOf g 2), .lampOut⟩ : Cond) ∈ s.faults.confirmed)
    ∧ (d = true ↔ ∃ k : Fin 3, (⟨.channel (chanOf g k), .darkCurrent⟩ : Cond) ∈ s.faults.confirmed)
    ∧ (c = true ↔ ∃ k : CoreId,
        ((⟨.core k, .insulationLow⟩ : Cond) ∈ s.faults.confirmed ∨ (⟨.core k, .earthFault⟩ : Cond) ∈ s.faults.confirmed)
        ∧ ((∃ x, s.work.cores[k].role = .load x ∧ groupOf x = g)
          ∨ (s.work.cores[k].role = .common ∧ ∃ (l : CoreId) (x : Chan), s.work.cores[l].role = .load x ∧ groupOf x = g
              ∧ s.work.cores[l].cable = s.work.cores[k].cable))))
  ∧ (∀ (s : State) (j i : Group),
    ((s.judgeConflictRedOut.groups[j]).conflictRedOut = true ↔
      ∃ i : Group, s.work.ig[i][j] ≠ none ∧ (⟨.group i, .redOut⟩ : Cond) ∈ s.faults.confirmed)
    ∧ (s.work.ig[i][j] ≠ none → (⟨.group i, .redOut⟩ : Cond) ∉ s.faults.confirmed →
      ((s.confirm ⟨.group i, .redOut⟩ .normal).groups[j]).conflictRedOut = true)
    ∧ (⟨.group i, .redOut⟩ ∈ s.faults.confirmed →
      (∀ h : Group, h ≠ i → s.work.ig[h][j] ≠ none → (⟨.group h, .redOut⟩ : Cond) ∉ s.faults.confirmed) →
      ((s.endCond ⟨.group i, .redOut⟩).groups[j]).conflictRedOut = false))
  ∧ (∀ (s : State) (g : Group),
    ((s.groups[g]).inhibited = true → (s.dropInhibited.groups[g]).aspect ≠ .green
      ∧ (s.dropInhibited.groups[g]).pendingGreen = false
      ∧ ((s.groups[g]).aspect = .green → (s.work.groups[g].type = .vehicle ∨ s.work.groups[g].type = .arrow) →
          (s.groups[g]).pendingGreen = false →
          (s.dropInhibited.groups[g]).aspect = .amber
          ∧ (s.dropInhibited.groups[g]).amberTimer = some (s.now + 100 * s.work.groups[g].amber)
          ∧ (s.dropInhibited.groups[g]).lastGreenOff = some s.now))
    ∧ ((s.groups[g]).inhibited = false → s.dropInhibited.groups[g] = s.groups[g]))
  ∧ (∀ (s : State) (g : Group) (f : GroupRun → GroupRun), (s.groups[g]).inhibited = true → (f s.groups[g]).inhibited = false →
    let t := s.inhibit g f
    t = { s with groups := s.groups.set g (f s.groups[g]), ev := t.ev } ∧ g ∈ t.ev.freed
    ∧ (t.ev.occasion = true ↔ s.ev.occasion = true ∨ s.engine.state = .resting ∨ s.engine.state = .allRed))
  ∧ (∀ (s : State) (g : Group), g ∈ s.ev.freed → (s.groups[g]).aspect ≠ .green →
    (s.engineWork.groups[g]).aspect ≠ .green ∧ g ∈ s.engineWork.ev.freed)
  ∧ (∀ (s : State) (g : Group),
    (s.patternOf g = s.faults.patterns[g] → s.reform g = s)
    ∧ (s.patternOf g ≠ s.faults.patterns[g] → s.patternOf g < 32 →
      let e := s.work.respOf (s.patternOf g)
      (s.reform g).faults.patterns[g] = s.patternOf g ∧ (s.reform g).faults.responses[g] = e.response
      ∧ ((s.reform g).groups[g]).hold = decide (e.response = .holdGroup)
      ∧ (s.reform g).ev.modeReqs = s.ev.modeReqs ++
          (if (e.response = .junctionFlash ∨ e.response = .junctionDark)
              ∧ responseRank (s.faults.responses[g]) < responseRank e.response
            then [.junction (decide (e.response = .junctionDark)) e.immediate] else [])))

/-! ### Modes (spec/10) -/

/-- The entry of a mode but RUNNING and SHUTDOWN (R9, R94, R166; Tables 1-5, 10-2): every group takes the aspect of its type and stands with its timers stopped and not pending; the SMC is sent its open or close command and the FTR its to-flash or to-normal command (shown where neither relay has failed: a failed FTR may open the SMC, R97, and START_FLASH resets both). At entry to START_FLASH every failed load relay enters RELEASED, its conditions ended and their records CLEARED, its dark timer started and GREEN_UNAVAILABLE removed where a green leaves FAILED_OPEN; one whose proof is closed fails closed again as welded, and one that failed by a crosspoint whose proof line is closed stays with its record; a failed SMC or FTR is reset too, before its command, and fails again where its proof is closed (R94, R96, R97, R128); that a reset ends both relay conditions, whichever stood, and that a held command does not outlast a failure, are read from the spec by inference (logs 35, 88). At entry to FAILSAFE and MAINS_OUT every load relay is sent a release command; the mode controller's timer is as Table 10-2 gives, and that its target is none outside SHUTDOWN is the model's choice (log 61). -/
def Obligations.ModeEntry : Prop :=
  ∀ (s : State) (m : Mode), m ≠ .running → m ≠ .shutdown →
    (s.enterMode m).mode.mode = m ∧ (s.enterMode m).mode.target = none
    ∧ (s.enterMode m).mode.timer = (match m with
        | .startFlash => some (s.now + 100 * s.work.junction.startFlash)
        | .startRed => some (s.now + 100 * s.work.junction.startRed)
        | _ => none)
    ∧ (s.smc.state ≠ .failed → s.ftr.state ≠ .failed →
      ((m = .unconfigured ∨ m = .mainsOut ∨ (m = .standby ∧ s.work.junction.standbyDisplay = .dark)
          ∨ (m = .failsafe ∧ s.mode.style = .dark)) → (s.enterMode m).smc = s.smcOpen.smc)
      ∧ ((m = .startFlash ∨ m = .startRed ∨ m = .partFlash ∨ (m = .standby ∧ s.work.junction.standbyDisplay = .flash)
          ∨ (m = .failsafe ∧ s.mode.style = .flash)) → (s.enterMode m).smc = s.smcClose.smc)
      ∧ (s.enterMode m).ftr = if m = .startRed then s.ftrToNormal.ftr else s.ftrToFlash.ftr)
    ∧ ((m = .failsafe ∨ m = .mainsOut) → ∀ c : Chan,
      (s.enterMode m).relays[c] = (s.release c).relays[c]
      ∧ (((s.relays[c]).state = .operated ∨ (s.relays[c]).state = .operating) →
        (s.enterMode m).relays[c] = { s.relays[c] with
          state := .releasing, coil := false, opTimer := none, darkSince := none, gen := (s.relays[c]).gen + 1
          relTimer := some (s.now + s.work.channels[c].limits.release) }))
    ∧ (m = .startFlash →
      let u := s.enterMode m
      (∀ c : Chan,
        let r := s.relays[c]
        let failed : Prop := r.state = .failedOpen ∨ r.state = .failedClosed
        let stays : Prop := r.origin = .crosspoint ∧ s.survey.lineClosed = true
        let noOperate : Cond := ⟨.channel c, .relayNoOperate⟩
        let welded : Cond := ⟨.channel c, .relayWelded⟩
        ((¬ failed ∨ stays) → u.relays[c] = r)
        ∧ (failed → ¬ stays → noOperate ∉ u.faults.confirmed
          ∧ (r.proof = false → u.relays[c] = { r with state := .released, origin := .none, darkSince := some s.now }
            ∧ welded ∉ u.faults.confirmed
            ∧ (∀ x, x = noOperate ∨ x = welded → x ∈ s.faults.confirmed →
                ∀ a ∈ u.faults.alarms, a.key = x → a.active = false)
            ∧ (s.work.used c = true → (u.lamps[c]).dark = some (s.now + 500)))
          ∧ (r.proof = true → u.relays[c] = { r with
                state := .failedClosed, held := false, waitCore := none, waitTimer := none, gen := r.gen + 1
                origin := .welded, darkSince := none }
            ∧ welded ∈ u.faults.confirmed)
          ∧ ∀ g : Group, c = chanOf g 2 → r.state = .failedOpen → (u.groups[g]).greenUnavailable = false))
      ∧ (∀ k : CoreId, (⟨.core k, .matrixFault⟩ : Cond) ∈ s.faults.confirmed →
          (⟨.core k, .matrixFault⟩ : Cond) ∈ u.faults.confirmed
          ∧ ∀ a ∈ s.faults.alarms, a.key = ⟨.core k, .matrixFault⟩ → a.active = true → a ∈ u.faults.alarms)
      ∧ (s.smc.state = .failed → (⟨.supply .smc, .relayNoOperate⟩ : Cond) ∉ u.faults.confirmed
        ∧ (s.smc.proof = false → (s.ftr.state = .failed → s.ftr.proof = false) →
          u.smc = { s.smc with
              state := .operating, coil := true, held := false, opTimer := some (s.now + s.work.smc.operate) }
            ∧ (⟨.supply .smc, .supplyCutFailed⟩ : Cond) ∉ u.faults.confirmed)
        ∧ (s.smc.proof = true →
          u.smc = { s.smc with state := .failed, coil := false, held := false, opTimer := none, relTimer := none }
            ∧ (⟨.supply .smc, .supplyCutFailed⟩ : Cond) ∈ u.faults.confirmed))
      ∧ (s.ftr.state = .failed → (⟨.supply .ftr, .relayNoOperate⟩ : Cond) ∉ u.faults.confirmed
        ∧ (s.ftr.proof = false → u.ftr = { s.ftr with state := .rest, coil := false }
            ∧ (⟨.supply .ftr, .relayWelded⟩ : Cond) ∉ u.faults.confirmed)
        ∧ (s.ftr.proof = true →
          u.ftr = { s.ftr with state := .failed, coil := false, held := false, opTimer := none, relTimer := none }
            ∧ (⟨.supply .ftr, .relayWelded⟩ : Cond) ∈ u.faults.confirmed)))
    ∧ ∀ g : Group,
      (modeAspect m s.work.junction.standbyDisplay s.mode.style s.work.groups[g].type
          = some ((s.enterMode m).groups[g]).aspect)
      ∧ ((s.enterMode m).groups[g]).amberTimer = none ∧ ((s.enterMode m).groups[g]).redAmberTimer = none
      ∧ ((s.enterMode m).groups[g]).greenRelease = none ∧ ((s.enterMode m).groups[g]).pendingGreen = false

/-- START_FLASH_EXPIRY, START_RED_EXPIRY and END_RED_EXPIRY: START_RED is entered with the SMC proven closed, its timer started and every green mark and green-off time cleared; RUNNING with both supply relays in place, where the engine stands in ALL_RED and is barred from decisions if neither its reference nor the base reference translates; FAILSAFE otherwise, with cause SUPPLY_NOT_READY where none stood; a SHUTDOWN ends in its target, one toward PART_FLASH in START_RED where the flashing is no longer asked for (R20, R61, R167, R168, R170). That the target is none once SHUTDOWN has been left is the model's choice (log 61). -/
def Obligations.ModeTimers : Prop :=
  ∀ (s : State) (e : Nat), s.mode.timer = some e →
    let t := s.elapseTo e
    (s.mode.mode = .startFlash → s.smc.state = .operated → ∃ u : State, exec .startFlashExpiry s = .next (t.cascade u)
      ∧ u.mode.mode = .startRed ∧ u.mode.timer = some (t.now + 100 * s.work.junction.startRed)
      ∧ u.mode.cause = s.mode.cause
      ∧ ∀ g : Group, (u.groups[g]).greenMark = false ∧ (u.groups[g]).lastGreenOff = none ∧ (u.monitor[g]).lastEnd = none
          ∧ (u.groups[g]).aspect
              = if s.work.groups[g].type = .vehicle ∨ s.work.groups[g].type = .pedestrian then .red else .dark)
    ∧ (s.mode.mode = .startFlash → s.smc.state ≠ .operated → ∃ u : State,
      exec .startFlashExpiry s = .next (t.cascade u) ∧ u.mode.mode = .failsafe ∧ u.mode.timer = none
      ∧ u.mode.cause = (if s.mode.cause = .none then .supplyNotReady else s.mode.cause)
      ∧ u.mode.style = s.work.junction.failsafeStyle)
    ∧ (s.mode.mode = .startRed → s.smc.state = .operated → s.ftr.state = .operated → ∃ u : State,
      exec .startRedExpiry s = .next (t.cascade u) ∧ u.mode.mode = .running ∧ u.mode.timer = none
      ∧ u.mode.target = none ∧ u.mode.cause = s.mode.cause
      ∧ (∀ k k', s.pendingSet = none → s.inUse.translate s.entryRef = .error k → s.inUse.translate ⟨1, 0⟩ = .error k' →
          u.engine = { s.engine with state := .allRed, stage := some 0, record := none, barred := true }))
    ∧ (s.mode.mode = .startRed → (s.smc.state ≠ .operated ∨ s.ftr.state ≠ .operated) → ∃ u : State,
      exec .startRedExpiry s = .next (t.cascade u) ∧ u.mode.mode = .failsafe
      ∧ u.mode.cause = (if s.mode.cause = .none then .supplyNotReady else s.mode.cause))
    ∧ (s.mode.mode = .shutdown → s.mode.target = some .standby → ∃ u : State,
      exec .endRedExpiry s = .next (t.cascade u) ∧ u.mode.mode = .standby ∧ u.mode.timer = none ∧ u.mode.target = none)
    ∧ (s.mode.mode = .shutdown → s.mode.target = some .failsafe → ∃ u : State,
      exec .endRedExpiry s = .next (t.cascade u) ∧ u.mode.mode = .failsafe
      ∧ u.mode.cause = (if s.mode.cause = .none then .faultResponse else s.mode.cause)
      ∧ u.mode.style = (if s.mode.darkMark = true then .dark else s.work.junction.failsafeStyle))
    ∧ (s.mode.mode = .shutdown → s.mode.target = some .partFlash → ∃ u : State,
      exec .endRedExpiry s = .next (t.cascade u)
      ∧ u.mode.mode = (if s.engine.source = .linkOverride ∨ (s.clock.valid = true ∧ s.engine.tableAction ≠ .flash)
          then .startRed else .partFlash))

/-! ### Detectors (spec/04) -/

/-- DETECTOR_RAW_CHANGE runs the debounce timer while the raw input differs from the accepted one; DEBOUNCE_TIMER_EXPIRY accepts an activation, which makes the detector ACTIVE, counts, and demands every stage of its set not in force, or a deactivation, which makes it CLEAR and demands nothing; STUCK_ON_TIMER_EXPIRY and QUIET_TIMER_EXPIRY make it STUCK or QUIET, confirm the fault at once and demand its stages (R76 to R78, R81, R82). -/
def Obligations.DetectorEvents : Prop :=
  (∀ (d : Det) (b : Bool) (s : State), s.power.phase = .running →
    ∃ u : State, exec (.detectorRawChange d b) s = .next u.close ∧ u = { s with dets := u.dets }
      ∧ (∀ x : Det, x ≠ d → u.dets[x] = s.dets[x])
      ∧ (s.work.dets[d].kind = .disabled → u.dets[d] = { s.dets[d] with raw := b })
      ∧ (s.work.dets[d].kind ≠ .disabled → b = (s.dets[d]).accepted →
          u.dets[d] = { s.dets[d] with raw := b, debounce := none })
      ∧ (s.work.dets[d].kind ≠ .disabled → b ≠ (s.dets[d]).accepted → (s.dets[d]).debounce = none →
          u.dets[d] = { s.dets[d] with raw := b, debounce := some (s.now + s.work.dets[d].debounce) })
      ∧ (s.work.dets[d].kind ≠ .disabled → b ≠ (s.dets[d]).accepted → (s.dets[d]).debounce ≠ none →
          u.dets[d] = { s.dets[d] with raw := b }))
  ∧ (∀ (d : Det) (s : State) (e : Nat), (s.dets[d]).debounce = some e →
    let t := s.elapseTo e
    ∃ u : State, exec (.debounceTimerExpiry d) s = .next (t.cascade u)
      ∧ (∀ x : Det, x ≠ d → u.dets[x] = s.dets[x])
      ∧ u.work = s.work ∧ u.edit = s.edit ∧ u.relays = s.relays ∧ u.engine.state = s.engine.state ∧ u.engine.plan = s.engine.plan
      ∧ ((s.dets[d]).raw = true → (s.dets[d]).accepted = false →
          u.dets[d] = { s.dets[d] with
            debounce := none, accepted := true, state := .active, count := min 65535 ((s.dets[d]).count + 1)
            quietStart := none, stuckStart := if s.work.dets[d].stuckOn = 0 then none else some t.now }
          ∧ (∀ st : Fin 16, u.engine.demands[st] = true
              ↔ (s.engine.demands[st] = true ∨ (s.work.dets[d].demands[st] = true ∧ s.engine.inForce ≠ st.val + 1)))
          ∧ ((s.dets[d]).state = .quiet → (⟨.detector d, .detectorQuiet⟩ : Cond) ∉ u.faults.confirmed))
      ∧ ((s.dets[d]).raw = false → (s.dets[d]).accepted = true →
          u.dets[d] = { s.dets[d] with
            debounce := none, accepted := false, state := .clear, stuckStart := none
            quietStart := if s.work.dets[d].quiet = 0 then none else some t.now }
          ∧ u.engine.demands = s.engine.demands
          ∧ ((s.dets[d]).state = .stuck → (⟨.detector d, .detectorStuck⟩ : Cond) ∉ u.faults.confirmed)))
  ∧ (∀ (d : Det) (s : State) (e : Nat),
    let t := s.elapseTo e
    (s.stuckDue d = some e → ∃ u : State, exec (.stuckOnTimerExpiry d) s = .next (t.cascade u)
      ∧ u.dets[d] = { s.dets[d] with state := .stuck, stuckStart := none }
      ∧ (∀ x : Det, x ≠ d → u.dets[x] = s.dets[x])
      ∧ (⟨.detector d, .detectorStuck⟩ : Cond) ∈ u.faults.confirmed
      ∧ (∀ st : Fin 16, u.engine.demands[st] = true
          ↔ (s.engine.demands[st] = true ∨ (s.work.dets[d].demands[st] = true ∧ s.engine.inForce ≠ st.val + 1))))
    ∧ (s.quietDue d = some e → ∃ u : State, exec (.quietTimerExpiry d) s = .next (t.cascade u)
      ∧ u.dets[d] = { s.dets[d] with state := .quiet, quietStart := none }
      ∧ (∀ x : Det, x ≠ d → u.dets[x] = s.dets[x]) ∧ u.occupied = s.occupied
      ∧ (⟨.detector d, .detectorQuiet⟩ : Cond) ∈ u.faults.confirmed
      ∧ (∀ st : Fin 16, u.engine.demands[st] = true
          ↔ (s.engine.demands[st] = true ∨ (s.work.dets[d].demands[st] = true ∧ s.engine.inForce ≠ st.val + 1)))))

/-- R78: at an accepted deactivation of a PRESENCE or PUSH detector the state becomes CLEAR, which from STUCK ends the fault, the stuck-on timer stops and the quiet timer starts from zero where its limit is not 0; the extend stage of a PRESENCE detector is judged again; no demand is entered and none removed. -/
def Obligations.AcceptedDeactivation : Prop :=
  ∀ (d : Det) (s : State) (e : Nat), (s.dets[d]).debounce = some e → s.work.dets[d].kind ≠ .disabled →
    (s.dets[d]).raw = false → (s.dets[d]).accepted = true →
    let t := s.elapseTo e
    ∃ u : State, exec (.debounceTimerExpiry d) s = .next (t.cascade u)
      ∧ u.dets[d] = { s.dets[d] with
          debounce := none, accepted := false, state := .clear, stuckStart := none
          quietStart := if s.work.dets[d].quiet = 0 then none else some t.now }
      ∧ (∀ x : Det, x ≠ d → u.dets[x] = s.dets[x])
      ∧ ((s.dets[d]).state = .stuck → (⟨.detector d, .detectorStuck⟩ : Cond) ∉ u.faults.confirmed)
      ∧ u.engine.demands = s.engine.demands
      ∧ (∀ st : Fin 16, s.work.dets[d].kind = .presence → s.work.dets[d].extend = some st →
          (u.occupied[st] = true ↔ ∃ x : Det, s.work.dets[x].kind = .presence ∧ s.work.dets[x].extend = some st
            ∧ (u.dets[x]).state = .active))
      ∧ (∀ st : Fin 16, s.work.dets[d].extend ≠ some st → u.occupied[st] = s.occupied[st])

/-! ### Relays and the output monitor (spec/05) -/

/-- The operate and release commands of a load relay in each of its states, outside FAILSAFE and MAINS_OUT, and the close, open, to-normal and to-flash commands of the supply relays in each of theirs (R88 to R92, R96, R97). -/
def Obligations.RelayCommands : Prop :=
  (∀ (s : State) (c : Chan),
    let r := s.relays[c]
    (s.mode.mode = .failsafe ∨ s.mode.mode = .mainsOut → s.operate c = s)
    ∧ (s.mode.mode ≠ .failsafe → s.mode.mode ≠ .mainsOut →
      (r.state = .released → r.held = false → s.testedCore c = none →
        (s.operate c).relays[c] = { r with
          state := .operating, coil := true, waitCore := none, waitTimer := none, darkSince := none
          opTimer := some (s.now + s.work.channels[c].limits.operate) })
      ∧ (∀ k, r.state = .released → r.held = false → s.testedCore c = some k →
        (s.operate c).relays[c] = { r with held := true, waitCore := some k, waitTimer := some (s.now + 20) }
        ∧ ((s.operate c).cores[k]).test = .releasing
        ∧ ((s.cores[k]).test ≠ .releasing → (s.operate c).survey.connected = none
            ∧ (s.operate c).survey.release = some (s.now + 20)))
      ∧ (r.state = .releasing → (s.operate c).relays[c] = { r with held := true })
      ∧ ((r.state = .operating ∨ r.state = .operated ∨ r.state = .failedOpen ∨ r.state = .failedClosed) →
        (s.operate c).relays = s.relays))
    ∧ ((r.state = .operating ∨ r.state = .operated) →
      (s.release c).relays[c] = { r with
        state := .releasing, coil := false, opTimer := none, gen := r.gen + 1, darkSince := none
        relTimer := some (s.now + s.work.channels[c].limits.release) })
    ∧ (r.state = .released → (s.release c).relays[c] = { r with held := false, waitCore := none, waitTimer := none })
    ∧ (r.state = .releasing → (s.release c).relays[c] = { r with held := false })
    ∧ ((r.state = .failedOpen ∨ r.state = .failedClosed) → s.release c = s)
    ∧ ∀ x : Chan, x ≠ c → (s.operate c).relays[x] = s.relays[x] ∧ (s.release c).relays[x] = s.relays[x])
  ∧ (∀ s : State,
    (s.smcClose.smc = match s.smc.state with
      | .rest => { s.smc with
          state := .operating, coil := true, held := false, opTimer := some (s.now + s.work.smc.operate) }
      | .releasing => { s.smc with held := true }
      | _ => s.smc)
    ∧ (s.smcOpen.smc = match s.smc.state with
      | .operating | .operated => { s.smc with
          state := .releasing, coil := false, opTimer := none, relTimer := some (s.now + s.work.smc.release) }
      | .releasing => { s.smc with held := false }
      | _ => s.smc)
    ∧ (s.ftrToNormal.ftr = match s.ftr.state with
      | .rest => { s.ftr with
          state := .operating, coil := true, held := false, opTimer := some (s.now + s.work.ftr.operate) }
      | .releasing => { s.ftr with held := true }
      | _ => s.ftr)
    ∧ (s.ftrToFlash.ftr = match s.ftr.state with
      | .operating | .operated => { s.ftr with
          state := .releasing, coil := false, opTimer := none, relTimer := some (s.now + s.work.ftr.release) }
      | .releasing => { s.ftr with held := false }
      | _ => s.ftr)
    ∧ (s.ftr.state = .failed → s.ftr.proof = true → s.ftrToFlash = s.smcOpen)
    ∧ (s.ftr.state = .failed → s.ftr.proof = false → s.ftrToFlash = s))

/-- The proofs and timers of a load relay in each of its states: OPERATING becomes OPERATED; a closure without a command fails it closed as welded; OPERATED without its proof has dropped and fails open; RELEASING becomes RELEASED; OPERATE_TIMER_EXPIRY fails it open, RELEASE_TIMER_EXPIRY fails it closed where the proof is closed, CROSSPOINT_WAIT_TIMER_EXPIRY fails it open, confirms MATRIX_FAULT on the core of the request and halts the surveyor; a repeated level changes nothing (read from the spec by inference, log 45). Where a relay enters RELEASED with its dark timer still running, the new start of a dark period ends no earlier one and changes no suspicion: the model's choice (log 72). A relay that enters RELEASED with an operate held takes it in the same event, at once or, with a test in progress on a core of its channel, after the crosspoint has opened (R89 to R92). With them the proving record of a used channel: a proven-on ends dark proving and begins a lit period with its settle timer; a release ends it; a relay that fails open ends both and is judged with no lamp lit, in a failed lit period that lasts while the aspect commands it, which sets its lit clearing count to 0 (R120, R122, R123, R127). -/
def Obligations.LoadRelayEvents : Prop :=
  (∀ (c : Chan) (s : State),
    let l := s.lamps[c]
    (s.work.used c = true → (s.relays[c]).state = .operating → (s.relays[c]).proof = false → s.power.phase = .running →
      ∃ u : State, exec (.loadProofClosed c) s = .next (s.cascade u)
        ∧ u.lamps[c] = { l with
            dark := none, flashDiscard := false, lit := .lit, addedInPeriod := false
            settle := some (s.now + if s.work.channels[c].lamp = .incandescent then 200 else 100) }
        ∧ u.meas = (s.withdraw (.dark c)).meas ∧ u.faults = ((s.darkEnd c).litStart c).faults)
    ∧ (l.lit = .lit → ((s.relays[c]).state = .operated ∨ (s.relays[c]).state = .operating) →
      let v := s.release c
      v.meas = (s.withdraw (.lit c)).meas ∧ v.faults = (s.litEnd c).faults
      ∧ (l.learning = false ∨ l.addedInPeriod = false → v.lamps[c] = { l with
          settle := none, repeatTimer := none, lit := .none, addedInPeriod := false })
      ∧ (l.learning = true → l.addedInPeriod = true → l.learnPeriods < 7 → v.lamps[c] = { l with
          settle := none, repeatTimer := none, lit := .none, addedInPeriod := false, learnPeriods := l.learnPeriods + 1 })
      ∧ (l.learning = true → l.addedInPeriod = true → 7 ≤ l.learnPeriods → v.lamps[c] = { l with
          settle := none, repeatTimer := none, lit := .none, addedInPeriod := false, learnPeriods := 0
          learning := false, learnSet := [] }))
    ∧ (s.work.used c = true → ∀ o : FailureOrigin,
      let v := s.failOpen c o
      let key : Cond := if colourOf c = 0 then ⟨.group (groupOf c), .redOut⟩ else ⟨.channel c, .lampOut⟩
      (v.lamps[c]).lampsLit = 0 ∧ (v.lamps[c]).last = none ∧ (v.lamps[c]).dark = none
      ∧ (v.lamps[c]).lit = (if s.commanded c = true then .failed else .none)
      ∧ (s.commanded c = true → (v.lamps[c]).repeatTimer = some (s.now + 1000))
      ∧ (s.commanded c = false → (v.lamps[c]).repeatTimer = none)
      ∧ (l.lit = .lit → (v.lamps[c]).settle = none)
      ∧ ((colourOf c = 0 → 0 < s.work.groups[groupOf c].rmin) → (v.lamps[c]).litCount = 0
          ∧ (key ∈ v.faults.confirmed ∨ ∃ r ∈ v.faults.suspicions, r.key = key))))
  ∧ (∀ (c : Chan) (s : State),
    let r := s.relays[c]
    (r.proof = true → exec (.loadProofClosed c) s = .next s)
    ∧ (r.proof = false → s.power.phase = .running → ∃ u : State, exec (.loadProofClosed c) s = .next (s.cascade u)
      ∧ (∀ x : Chan, x ≠ c → u.relays[x] = s.relays[x]) ∧ u.engine = s.engine ∧ u.smc = s.smc ∧ u.ftr = s.ftr
      ∧ (r.state = .operating → u.relays[c] = { r with
          proof := true, state := .operated, opTimer := none, gen := r.gen + 1, darkSince := none })
      ∧ ((r.state = .released ∨ r.state = .failedOpen) → u.relays[c] = { r with
            proof := true, state := .failedClosed, held := false, waitCore := none, waitTimer := none
            gen := r.gen + 1, origin := .welded, darkSince := none }
          ∧ (⟨.channel c, .relayWelded⟩ : Cond) ∈ u.faults.confirmed)
      ∧ ((r.state = .operated ∨ r.state = .releasing ∨ r.state = .failedClosed) →
          u.relays[c] = { r with proof := true } ∧ u.faults = s.faults)))
  ∧ (∀ (c : Chan) (s : State),
    let r := s.relays[c]
    (r.proof = false → exec (.loadProofOpened c) s = .next s)
    ∧ (r.proof = true → s.power.phase = .running → ∃ u : State, exec (.loadProofOpened c) s = .next (s.cascade u)
      ∧ (∀ x : Chan, x ≠ c → u.relays[x] = s.relays[x]) ∧ u.engine = s.engine ∧ u.smc = s.smc ∧ u.ftr = s.ftr
      ∧ (r.state = .operated → u.relays[c] = { r with
            proof := false, state := .failedOpen, coil := false, held := false, waitCore := none, waitTimer := none
            opTimer := none, relTimer := none, gen := r.gen + 1, origin := .dropped, darkSince := none }
          ∧ (⟨.channel c, .relayNoOperate⟩ : Cond) ∈ u.faults.confirmed)
      ∧ (r.state = .releasing → r.held = false → u.relays[c] = { r with
            proof := false, state := .released, relTimer := none, darkSince := some s.now } ∧ u.faults = s.faults)
      ∧ (r.state = .releasing → r.held = true → s.testedCore c = none → u.relays[c] = { r with
            proof := false, state := .operating, coil := true, held := false, waitCore := none, waitTimer := none
            relTimer := none, darkSince := none, opTimer := some (s.now + s.work.channels[c].limits.operate) })
      ∧ (∀ k, r.state = .releasing → r.held = true → s.testedCore c = some k → u.relays[c] = { r with
            proof := false, state := .released, held := true, waitCore := some k, waitTimer := some (s.now + 20)
            relTimer := none, darkSince := some s.now }
          ∧ (u.cores[k]).test = .releasing ∧ ((s.cores[k]).test ≠ .releasing → u.survey.connected = none))
      ∧ ((r.state = .released ∨ r.state = .operating ∨ r.state = .failedOpen ∨ r.state = .failedClosed) →
          u.relays[c] = { r with proof := false } ∧ u.faults = s.faults)))
  ∧ (∀ (c : Chan) (s : State) (e : Nat),
    let t := s.elapseTo e
    let r := s.relays[c]
    let failed : Relay := { r with
      state := .failedOpen, coil := false, held := false, waitCore := none, waitTimer := none, opTimer := none
      relTimer := none, darkSince := none }
    (r.opTimer = some e → ∃ u : State, exec (.operateTimerExpiry c) s = .next (t.cascade u)
      ∧ u.relays[c] = { failed with origin := .noOperate }
      ∧ (∀ x : Chan, x ≠ c → u.relays[x] = s.relays[x])
      ∧ (⟨.channel c, .relayNoOperate⟩ : Cond) ∈ u.faults.confirmed)
    ∧ (r.relTimer = some e → r.proof = true → ∃ u : State, exec (.releaseTimerExpiry c) s = .next (t.cascade u)
      ∧ u.relays[c] = { r with
          state := .failedClosed, held := false, relTimer := none, origin := .welded, darkSince := none }
      ∧ (∀ x : Chan, x ≠ c → u.relays[x] = s.relays[x])
      ∧ (⟨.channel c, .relayWelded⟩ : Cond) ∈ u.faults.confirmed)
    ∧ (r.relTimer = some e → r.proof = false → r.held = false → ∃ u : State,
      exec (.releaseTimerExpiry c) s = .next (t.cascade u)
      ∧ u.relays[c] = { r with state := .released, relTimer := none, darkSince := some t.now }
      ∧ (∀ x : Chan, x ≠ c → u.relays[x] = s.relays[x]) ∧ u.faults = s.faults)
    ∧ (r.relTimer = some e → r.proof = false → r.held = true → ∃ u : State,
      exec (.releaseTimerExpiry c) s = .next (t.cascade u) ∧ (∀ x : Chan, x ≠ c → u.relays[x] = s.relays[x])
      ∧ (s.testedCore c = none → u.relays[c] = { r with
            state := .operating, coil := true, held := false, waitCore := none, waitTimer := none, relTimer := none
            darkSince := none, opTimer := some (t.now + s.work.channels[c].limits.operate) })
      ∧ (∀ k, s.testedCore c = some k → u.relays[c] = { r with
            state := .released, held := true, waitCore := some k, waitTimer := some (t.now + 20), relTimer := none
            darkSince := some t.now }
          ∧ (u.cores[k]).test = .releasing ∧ ((s.cores[k]).test ≠ .releasing → u.survey.connected = none)))
    ∧ (∀ k, r.waitTimer = some e → r.waitCore = some k → ∃ u : State,
      exec (.crosspointWaitTimerExpiry c) s = .next (t.cascade u)
      ∧ u.relays[c] = { failed with origin := .crosspoint }
      ∧ (∀ x : Chan, x ≠ c → u.relays[x] = s.relays[x])
      ∧ (⟨.core k, .matrixFault⟩ : Cond) ∈ u.faults.confirmed
      ∧ u.survey.halted = true ∧ u.survey.connected = none ∧ u.survey.active = false))

/-- The proofs and timers of the SMC and of the FTR in each state: what each machine becomes, the fault confirmed where it fails, the flash bus live while the FTR is proven open and the SMC proven closed, and the fallback that opens the SMC where the FTR has failed in the NORMAL position (R96 to R98); a repeated level changes nothing (log 45), and a failing relay's held close or to-normal is cleared (log 88): both read from the spec by inference. -/
def Obligations.SupplyRelayEvents : Prop :=
  (∀ (s : State) (e : Nat),
    let t := s.elapseTo e
    let r := s.smc
    let failed : SupplyRelay := { r with state := .failed, coil := false, held := false, opTimer := none, relTimer := none }
    (r.proof = true → exec .smcProofClosed s = .next s) ∧ (r.proof = false → exec .smcProofOpened s = .next s)
    ∧ (r.proof = false → s.power.phase = .running → ∃ u : State, exec .smcProofClosed s = .next (s.cascade u)
      ∧ u.relays = s.relays ∧ u.ftr = s.ftr ∧ u.engine = s.engine
      ∧ u.flashBus = !s.ftr.proof
      ∧ (r.state = .operating → u.smc = { r with proof := true, state := .operated, opTimer := none })
      ∧ (r.state = .rest → u.smc = { failed with proof := true }
          ∧ (⟨.supply .smc, .supplyCutFailed⟩ : Cond) ∈ u.faults.confirmed)
      ∧ ((r.state = .operated ∨ r.state = .releasing ∨ r.state = .failed) → u.smc = { r with proof := true }))
    ∧ (r.proof = true → s.power.phase = .running → ∃ u : State, exec .smcProofOpened s = .next (s.cascade u)
      ∧ u.relays = s.relays ∧ u.ftr = s.ftr ∧ u.engine = s.engine ∧ u.flashBus = false
      ∧ (r.state = .operated → u.smc = { failed with proof := false }
          ∧ (⟨.supply .smc, .relayNoOperate⟩ : Cond) ∈ u.faults.confirmed)
      ∧ (r.state = .releasing → r.held = false → u.smc = { r with proof := false, state := .rest, relTimer := none })
      ∧ (r.state = .releasing → r.held = true → u.smc = { r with
          proof := false, state := .operating, coil := true, held := false, relTimer := none
          opTimer := some (s.now + s.work.smc.operate) })
      ∧ ((r.state = .rest ∨ r.state = .operating ∨ r.state = .failed) → u.smc = { r with proof := false }))
    ∧ (r.opTimer = some e → ∃ u : State, exec .smcOperateTimerExpiry s = .next (t.cascade u) ∧ u.smc = failed
      ∧ u.relays = s.relays ∧ (⟨.supply .smc, .relayNoOperate⟩ : Cond) ∈ u.faults.confirmed)
    ∧ (r.relTimer = some e → r.proof = true → ∃ u : State, exec .smcReleaseTimerExpiry s = .next (t.cascade u)
      ∧ u.smc = failed ∧ u.relays = s.relays ∧ (⟨.supply .smc, .supplyCutFailed⟩ : Cond) ∈ u.faults.confirmed
      ∧ u.ev.modeReqs = s.ev.modeReqs ++ [.supplyCut])
    ∧ (r.relTimer = some e → r.proof = false → r.held = false → ∃ u : State,
      exec .smcReleaseTimerExpiry s = .next (t.cascade u)
      ∧ u.smc = { r with state := .rest, relTimer := none } ∧ u.relays = s.relays ∧ u.faults = s.faults)
    ∧ (r.relTimer = some e → r.proof = false → r.held = true → ∃ u : State,
      exec .smcReleaseTimerExpiry s = .next (t.cascade u) ∧ u.relays = s.relays
      ∧ u.smc = { r with
          state := .operating, coil := true, held := false, relTimer := none
          opTimer := some (t.now + s.work.smc.operate) }))
  ∧ (∀ (s : State) (e : Nat),
    let t := s.elapseTo e
    let r := s.ftr
    let failed : SupplyRelay := { r with state := .failed, coil := false, held := false, opTimer := none, relTimer := none }
    (r.proof = true → exec .ftrProofClosed s = .next s) ∧ (r.proof = false → exec .ftrProofOpened s = .next s)
    ∧ (r.proof = false → s.power.phase = .running → ∃ u : State, exec .ftrProofClosed s = .next (s.cascade u)
      ∧ u.relays = s.relays ∧ u.engine = s.engine ∧ u.flashBus = false
      ∧ (r.state = .operating → u.ftr = { r with proof := true, state := .operated, opTimer := none } ∧ u.smc = s.smc)
      ∧ (r.state = .rest → u.ftr = { failed with proof := true }
          ∧ (⟨.supply .ftr, .relayWelded⟩ : Cond) ∈ u.faults.confirmed ∧ u.smc = s.smcOpen.smc)
      ∧ ((r.state = .operated ∨ r.state = .releasing ∨ r.state = .failed) → u.ftr = { r with proof := true } ∧ u.smc = s.smc))
    ∧ (r.proof = true → s.power.phase = .running → ∃ u : State, exec .ftrProofOpened s = .next (s.cascade u)
      ∧ u.relays = s.relays ∧ u.engine = s.engine ∧ u.smc = s.smc ∧ u.flashBus = s.smc.proof
      ∧ (r.state = .operated → u.ftr = { failed with proof := false }
          ∧ (⟨.supply .ftr, .relayNoOperate⟩ : Cond) ∈ u.faults.confirmed)
      ∧ (r.state = .releasing → r.held = false → u.ftr = { r with proof := false, state := .rest, relTimer := none })
      ∧ (r.state = .releasing → r.held = true → u.ftr = { r with
          proof := false, state := .operating, coil := true, held := false, relTimer := none
          opTimer := some (s.now + s.work.ftr.operate) })
      ∧ ((r.state = .rest ∨ r.state = .operating ∨ r.state = .failed) → u.ftr = { r with proof := false }))
    ∧ (r.opTimer = some e → ∃ u : State, exec .ftrOperateTimerExpiry s = .next (t.cascade u) ∧ u.ftr = failed
      ∧ u.relays = s.relays ∧ u.smc = s.smc ∧ (⟨.supply .ftr, .relayNoOperate⟩ : Cond) ∈ u.faults.confirmed)
    ∧ (r.relTimer = some e → r.proof = true → ∃ u : State, exec .ftrReleaseTimerExpiry s = .next (t.cascade u)
      ∧ u.ftr = failed ∧ u.smc = t.smcOpen.smc ∧ u.relays = s.relays
      ∧ (⟨.supply .ftr, .relayWelded⟩ : Cond) ∈ u.faults.confirmed)
    ∧ (r.relTimer = some e → r.proof = false → r.held = false → ∃ u : State,
      exec .ftrReleaseTimerExpiry s = .next (t.cascade u)
      ∧ u.ftr = { r with state := .rest, relTimer := none } ∧ u.smc = s.smc ∧ u.relays = s.relays ∧ u.faults = s.faults)
    ∧ (r.relTimer = some e → r.proof = false → r.held = true → ∃ u : State,
      exec .ftrReleaseTimerExpiry s = .next (t.cascade u) ∧ u.relays = s.relays
      ∧ u.ftr = { r with
          state := .operating, coil := true, held := false, relTimer := none
          opTimer := some (t.now + s.work.ftr.operate) }))

/-- The output monitor: contact evidence from the green relay (Table 5-3), proven-green from either evidence, and UNCOMMANDED_GREEN where a proven group does not show GREEN and its relay is not RELEASING, nor put there, from OPERATED or OPERATING, by the release command still to come in the event (R5: the commands of its net aspect change are given at its end; read from the spec by inference, log 9); a trip counts once, up to 255, and asks for FAILSAFE, but not in UNCONFIGURED or FAILSAFE; and a judgement as a whole: CONFLICT, UNCOMMANDED_GREEN and INTERGREEN_SHORT stand confirmed after it where they arise in it, or stood before and are not over, every other condition stands as it did, and what is newly found makes one trip (R99 to R102). That a CONFLICT is over too where a commit has removed the conflict is the model's choice (log 87). -/
def Obligations.OutputMonitor : Prop :=
  ∀ (s : State) (g : Group),
    let r := s.relays[chanOf g 2]
    (s.work.groups[g].type ≠ .unused →
      ((s.judgeProven g).contact = true ↔ r.state = .operated ∨ r.state = .failedClosed ∨ (r.state = .releasing ∧ r.proof = true))
      ∧ ((s.judgeProven g).proven = true ↔ (s.judgeProven g).contact = true ∨ (s.monitor[g]).darkCurrent = true)
      ∧ ((s.monitor[g]).proven = true → (s.judgeProven g).proven = false → (s.judgeProven g).lastEnd = some s.now)
      ∧ (((s.monitor[g]).proven = false ∨ (s.judgeProven g).proven = true) →
          (s.judgeProven g).lastEnd = (s.monitor[g]).lastEnd))
    ∧ (s.work.groups[g].type = .unused → (s.judgeProven g).proven = false)
    ∧ (s.uncommandedGreen g = true ↔
        (s.monitor[g]).proven = true ∧ (s.groups[g]).aspect ≠ .green ∧ r.state ≠ .releasing
          ∧ ¬ (s.handed[g] = .green ∧ (r.state = .operated ∨ r.state = .operating)))
    ∧ (s.conflictProven g = true ↔ ∃ i : Group, s.work.ig[i][g] ≠ none ∧ (s.monitor[i]).proven = true)
    ∧ (s.intergreenShort g = true ↔ ∃ (i : Group) (ig e : Nat), s.work.ig[i][g] = some ig ∧ (s.monitor[i]).lastEnd = some e
        ∧ (s.now : Int) - e < 100 * ig - s.work.channels[chanOf i 2].limits.release)
    ∧ ((s.mode.mode = .unconfigured ∨ s.mode.mode = .failsafe) → s.trip = s)
    ∧ (s.mode.mode ≠ .unconfigured → s.mode.mode ≠ .failsafe →
      s.trip.lockouts = min 255 (s.lockouts + 1) ∧ s.trip.ev.modeReqs = s.ev.modeReqs ++ [.trip])
    ∧ (let v := s.judgeMonitor
      v.monitor = Vector.ofFn s.judgeProven
      ∧ v = { s with monitor := v.monitor, faults := v.faults, link := v.link, lockouts := v.lockouts, ev := v.ev }
      ∧ (∀ k : Cond, k ∈ v.faults.confirmed ↔
          (∃ (j : Group) (x : Kind), k = ⟨.group j, x⟩ ∧ s.TripArises v.monitor j x)
          ∨ (k ∈ s.faults.confirmed ∧ ¬ ∃ (j : Group) (x : Kind), k = ⟨.group j, x⟩ ∧ s.TripOver v.monitor j x))
      ∧ ((∃ (j : Group) (x : Kind), s.TripArises v.monitor j x ∧ (⟨.group j, x⟩ : Cond) ∉ s.faults.confirmed) →
          s.mode.mode ≠ .unconfigured → s.mode.mode ≠ .failsafe →
          v.lockouts = min 255 (s.lockouts + 1) ∧ v.ev.modeReqs = s.ev.modeReqs ++ [.trip])
      ∧ ((s.mode.mode = .unconfigured ∨ s.mode.mode = .failsafe
            ∨ ∀ (j : Group) (x : Kind), s.TripArises v.monitor j x → (⟨.group j, x⟩ : Cond) ∈ s.faults.confirmed) →
          v.lockouts = s.lockouts ∧ v.ev.modeReqs = s.ev.modeReqs))

/-! ### Mains and converter (spec/06) -/

/-- The mains events. A boundary made by a crossing, or 15 ms after one, or 10 ms after one made so, is judged HIGH from 85 %, LOW from 50 %, else ABSENT (0 % without a crossing), changes the mains state as R110's table gives, and takes the converter one half cycle on; the second completes the conversion and hands its result over, a LIT or DARK one to the lamp prover and a LEAK one to the surveyor, DIPPED by its dip mark and STALE where its stamp is not the generation then held (for a LEAK result of a core changed meanwhile, the model's choice, log 57). The loss timer enters LOSS and takes the junction to MAINS_OUT; the return timer leaves it. CONVERTER_GRANT is the grant made at the end of every event (log 1), of the lamp request queued first, the lowest channel among equals, else of the LEAK request (R108 to R113, R169). -/
def Obligations.MainsEvents : Prop :=
  (∀ x : Nat, bandOfLevel x = if 85 ≤ x then .high else if 50 ≤ x then .low else .absent)
  ∧ (∀ (s : State) (r : MeasReq) (count : BitVec 16) (d : Bool),
    let v := s.resultOf r count d
    v = { subject := r.subject, range := r.range, count := count, stale := v.stale, dipped := d }
    ∧ (r.stamp = none → v.stale = false)
    ∧ (∀ g c, r.stamp = some g →
      (r.subject = .lit c ∨ r.subject = .dark c ∨ ∃ k, r.subject = .leak k ∧ s.work.cores[k].role = .load c) →
      (v.stale = true ↔ g ≠ (s.relays[c]).gen))
    ∧ (∀ g k, r.stamp = some g → r.subject = .leak k → (∀ c, s.work.cores[k].role ≠ .load c) → v.stale = true)
    ∧ (∀ c, (r.subject = .lit c ∨ r.subject = .dark c) → s.returnResult v = s.lampResult v)
    ∧ (∀ k, r.subject = .leak k → s.returnResult v = s.leakResult v))
  ∧ (∀ (m : Mains) (now : Nat),
    (m.state = .normal → m.judge .high now = m
      ∧ m.judge .low now = { m with state := .dip, dips := min 65535 (m.dips + 1) }
      ∧ m.judge .absent now = { m with state := .dip, dips := min 65535 (m.dips + 1), lossTimer := some (now + 200) })
    ∧ (m.state = .dip → m.judge .high now = { m with state := .normal, lossTimer := none }
      ∧ m.judge .low now = { m with lossTimer := none }
      ∧ (m.lossTimer = none → m.judge .absent now = { m with lossTimer := some (now + 200) })
      ∧ (m.lossTimer ≠ none → m.judge .absent now = m))
    ∧ (m.state = .loss → (m.returnTimer = none → m.judge .high now = { m with returnTimer := some (now + 2000) })
      ∧ (m.returnTimer ≠ none → m.judge .high now = m)
      ∧ m.judge .low now = { m with returnTimer := none } ∧ m.judge .absent now = { m with returnTimer := none }))
  ∧ (∀ (s : State) (level wait : Nat) (count : BitVec 16) (e : Nat), ∀ (i : Instr) (t : State),
    ((s.power.phase = .running ∧ i = .mainsZeroCrossing level count ∧ wait = 15 ∧ t = s)
      ∨ (s.mains.timeout = some e ∧ i = .boundaryTimeout count ∧ level = 0 ∧ wait = 10 ∧ t = s.elapseTo e)) →
    let m : Mains := { s.mains.judge (bandOfLevel level) t.now with level := level, timeout := some (t.now + wait) }
    let dip : Bool := decide (m.state = .dip)
    let v : State := { t with mains := m, ev := { t.ev with boundary := true } }
    ((s.meas.conv = .idle ∨ s.meas.conv = .reference) → exec i s = .next (t.cascade v))
    ∧ (s.meas.conv = .armed →
      exec i s = .next (t.cascade { v with meas := { s.meas with conv := .firstHalf, dip := dip } }))
    ∧ (s.meas.conv = .firstHalf →
      exec i s = .next (t.cascade { v with meas := { s.meas with conv := .secondHalf, dip := s.meas.dip || dip } }))
    ∧ (∀ r, s.meas.conv = .secondHalf → s.meas.current = some r →
      let d := s.meas.dip || dip
      exec i s = .next (t.cascade
        (State.returnResult { v with meas := { s.meas with conv := .idle, current := none, dip := d } }
          (s.resultOf r count d)))))
  ∧ (∀ (s : State) (e : Nat),
    let t := s.elapseTo e
    (s.mains.lossTimer = some e → ∃ u : State, exec .mainsLossTimerExpiry s = .next (t.cascade u)
      ∧ u.mains = { s.mains with
          state := .loss, lossTimer := none, returnTimer := none, losses := min 65535 (s.mains.losses + 1) }
      ∧ ((s.mode.mode = .startFlash ∨ s.mode.mode = .startRed ∨ s.mode.mode = .running ∨ s.mode.mode = .partFlash
            ∨ (s.mode.mode = .shutdown ∧ s.mode.target = some .partFlash)) →
          u.mode.mode = .mainsOut ∧ u.mode.returnMode = .startFlash)
      ∧ (s.mode.mode = .shutdown → s.mode.target = some .standby →
          u.mode.mode = .mainsOut ∧ u.mode.returnMode = .standby)
      ∧ (s.mode.mode = .shutdown → s.mode.target = some .failsafe → u.mode.mode = .failsafe)
      ∧ ((s.mode.mode = .unconfigured ∨ s.mode.mode = .standby ∨ s.mode.mode = .mainsOut ∨ s.mode.mode = .failsafe) →
          u = { t with mains := u.mains }))
    ∧ (s.mains.returnTimer = some e → ∃ u : State, exec .mainsReturnTimerExpiry s = .next (t.cascade u)
      ∧ u.mains = { s.mains with state := .normal, returnTimer := none }
      ∧ (s.mode.mode = .mainsOut → u.mode.mode = (match s.mode.returnMode with
          | .standby => Mode.standby
          | .startFlash => if s.mode.responseActive = true then .failsafe else .startFlash))
      ∧ (s.mode.mode ≠ .mainsOut → u = { t with mains := u.mains }))
    ∧ (s.power.phase = .running → exec .converterGrant s = .next s.close))
  ∧ (∀ (q : List MeasReq) (r : MeasReq), chooseReq q = some r → r ∈ q
    ∧ ∀ x ∈ q, x.subject.lamp = true → r.subject.lamp = true
        ∧ (r.queued < x.queued ∨ (r.queued = x.queued ∧ r.subject.chanNo ≤ x.subject.chanNo)))

/-! ### Lamp proving (spec/07) -/

/-- The lamp prover's timers: a settle timer places a LIT request and starts the repeat timer with 1.0 s; a repeat timer of an OPERATED relay does so again, of another stops, and of a failed lit period judges it once more with no lamp lit, the last reading none again (the model's choice, log 78); a dark timer of a RELEASED relay starts again with 5.0 s and places a DARK request, but for a vehicle amber while the flash bus is live; the LEARN time limit ends the job TIME_LIMIT with every channel out of LEARNING, its JOB_DONE listing those marked UNLEARNED before and those still LEARNING then (R121, R123, R128, R130, R134). -/
def Obligations.LampTimers : Prop :=
  ∀ (c : Chan) (s : State) (e : Nat),
    let t := s.elapseTo e
    let l := s.lamps[c]
    let range := lampRange s.work.channels[c].lamp
    (l.settle = some e → ∃ u : State, exec (.settleTimerExpiry c) s = .next (t.cascade u)
      ∧ u = { t with lamps := u.lamps, meas := (t.place (.lit c) range).meas }
      ∧ u.lamps[c] = { l with settle := none, repeatTimer := some (t.now + 1000) }
      ∧ ∀ x : Chan, x ≠ c → u.lamps[x] = s.lamps[x])
    ∧ (l.repeatTimer = some e → ∃ u : State, exec (.repeatTimerExpiry c) s = .next (t.cascade u)
      ∧ u.relays = s.relays ∧ u.groups.map (·.aspect) = s.groups.map (·.aspect)
      ∧ (l.lit ≠ .failed → (s.relays[c]).state = .operated →
          u = { t with lamps := u.lamps, meas := (t.place (.lit c) range).meas }
          ∧ u.lamps[c] = { l with repeatTimer := some (t.now + 1000) })
      ∧ (l.lit ≠ .failed → (s.relays[c]).state ≠ .operated →
          u = { t with lamps := u.lamps } ∧ u.lamps[c] = { l with repeatTimer := none })
      ∧ (l.lit = .failed → (u.lamps[c]).repeatTimer = some (t.now + 1000) ∧ (u.lamps[c]).lampsLit = 0
          ∧ (u.lamps[c]).last = none ∧ u.meas = s.meas)
      ∧ ∀ x : Chan, x ≠ c → u.lamps[x] = s.lamps[x])
    ∧ (l.dark = some e → ∃ u : State, exec (.darkTimerExpiry c) s = .next (t.cascade u)
      ∧ u = { t with lamps := u.lamps, meas := u.meas } ∧ (∀ x : Chan, x ≠ c → u.lamps[x] = s.lamps[x])
      ∧ ((s.relays[c]).state ≠ .released → u.lamps[c] = { l with dark := none } ∧ u.meas = s.meas)
      ∧ ((s.relays[c]).state = .released → u.lamps[c] = { l with dark := some (t.now + 5000) }
          ∧ (s.vehicleAmber c = true → s.flashBus = true → u.meas = s.meas)
          ∧ ((s.vehicleAmber c = false ∨ s.flashBus = false) → u.meas = (t.place (.dark c) range).meas)))
    ∧ (∀ j, s.job? .learn = some j → j.limit = some e → ∃ u : State,
      exec .learnTimeLimitExpiry s = .next (t.cascade u) ∧ u = { t with lamps := u.lamps, link := u.link }
      ∧ u.hasJob .learn = false
      ∧ u.link = (t.endJob .learn .timeLimit
          (.unlearned (j.unlearned ++ allChans.filter fun x => (s.lamps[x]).learning))).link
      ∧ ∀ x : Chan, u.lamps[x] = if (s.lamps[x]).learning = true then
          { s.lamps[x] with learning := false, learnSet := [], learnPeriods := 0, addedInPeriod := false }
        else s.lamps[x])

/-- The lamp arithmetic: the current of a count, the estimate rounded half up within 0 to the lamp count, the overcurrent limit, the bands of Table 7-2. A result that is STALE or DIPPED, or of an unused channel, is discarded; a LIT reading stores the estimate and the last reading; a DARK reading over the threshold, or OVERRANGE, is confirmed at once on a green channel and passed to the output monitor, as is one within it, whatever the state of its relay (the model's choice, log 70). A LIT reading IN_BAND adds one to the lit clearing count, up to 8, and any other sets it to 0; a DARK reading within the threshold with the SMC and the FTR proven closed adds one to the dark clearing count, a leak sets it to 0, and one that is not supplied leaves it and reports nothing; where a count reaches the lamp confirmation count, or has passed it without the report, the conditions of that kind on the channel end, and a count that goes on rising ends none (the mark that the report was made is the model's own, log 28). The fourth reading of a learning set that passes the spread test gives the reference in both copies (R124 to R127, R129, R130, R133). -/
def Obligations.LampReadings : Prop :=
  ((∀ count fs : Nat, count ≠ 65535 → lampCurrent count fs = (count * fs / 65536, false))
  ∧ (∀ fs : Nat, lampCurrent 65535 fs = (fs - 1, true))
  ∧ (∀ i iref n : Nat, 0 < iref → lampsLit i iref n ≤ n ∧ 2 * iref * lampsLit i iref n ≤ 2 * i + iref
    ∧ (lampsLit i iref n < n → 2 * i + iref < 2 * iref * (lampsLit i iref n + 1)))
  ∧ (∀ n iref : Nat, overcurrentLimit n iref = 3 * n * iref / 2)
  ∧ (∀ (red : Bool) (l n rmin : Nat), bandOf red true l n rmin = .overcurrent
    ∧ (bandOf red false l n rmin = .redOut ↔ red = true ∧ l < rmin)
    ∧ (bandOf red false l n rmin = .partly ↔ l < n ∧ (if red = true then rmin ≤ l else 0 < l))
    ∧ (bandOf red false l n rmin = .out ↔ red = false ∧ l = 0)
    ∧ (bandOf red false l n rmin = .inBand ↔ n ≤ l ∧ (if red = true then rmin ≤ l else 0 < l))))
  ∧ ((∀ l : List Nat, l ≠ [] → (spreadOk l = true ↔ ∃ m ∈ l, ∀ x ∈ l, x ≤ m ∧ 10 * (m - x) ≤ m))
  ∧ (∀ (s : State) (c : Chan) (range : ConvRange) (count : BitVec 16) (stale dipped : Bool),
    let r : Result := ⟨.lit c, range, count, stale, dipped⟩
    let d : Result := ⟨.dark c, range, count, stale, dipped⟩
    let i := (lampCurrent count.toNat range.fullScale).1
    let ovr := (lampCurrent count.toNat range.fullScale).2
    ((stale = true ∨ dipped = true ∨ s.work.used c = false) → s.lampResult r = s
      ∧ s.lampResult d = s.updLamp c fun l => { l with flashDiscard := false })
    ∧ (stale = false → dipped = false → s.work.used c = true →
      ((s.lampResult r).lamps[c]).lampsLit = lampsLit i s.work.channels[c].iref (s.work.lampCount c)
      ∧ ((s.lampResult r).lamps[c]).last = some ⟨.lit, i, ovr, s.now⟩
      ∧ (∀ x : Chan, x ≠ c → (s.lampResult r).lamps[x] = s.lamps[x])
      ∧ ((s.lamps[c]).flashDiscard = false →
          ((s.lampResult d).lamps[c]).last = some ⟨.dark, i, ovr, s.now⟩
          ∧ (∀ g : Group, c = chanOf g 2 → (ovr = true ∨ s.work.channels[c].leakApplied < i) →
              (⟨.channel c, .darkCurrent⟩ : Cond) ∈ (s.lampResult d).faults.confirmed
              ∧ ((s.lampResult d).monitor[g]).darkCurrent = true))))
  ∧ (∀ (s : State) (c : Chan) (range : ConvRange) (count : BitVec 16),
    let i := (lampCurrent count.toNat range.fullScale).1
    let ovr := (lampCurrent count.toNat range.fullScale).2
    let l := s.lamps[c]
    let k := s.work.thr.lampK
    (s.work.used c = true →
      let v := s.lampResult ⟨.lit c, range, count, false, false⟩
      let cfg := s.work.channels[c]
      let lamps := s.work.lampCount c
      let n := min 8 (l.litCount + 1)
      let band := bandOf (decide (colourOf c = 0)) (ovr || decide (overcurrentLimit lamps cfg.iref < i))
        (lampsLit i cfg.iref lamps) lamps s.work.groups[groupOf c].rmin
      let kinds : List Cond := [if colourOf c = 0 then ⟨.group (groupOf c), .redOut⟩ else ⟨.channel c, .lampOut⟩,
        ⟨.channel c, .lampPartial⟩, ⟨.channel c, .overcurrent⟩]
      (band ≠ .inBand → (v.lamps[c]).litCount = 0 ∧ (v.lamps[c]).litReached = false)
      ∧ (band = .inBand → (v.lamps[c]).litCount = n ∧ (v.lamps[c]).litReached = decide (k ≤ n)
        ∧ (∀ x ∈ kinds, ∀ r ∈ v.faults.suspicions, r.key ≠ x)
        ∧ (k ≤ n → (l.litCount < k ∨ l.litReached = false) →
            ∀ x : Cond, x ∈ v.faults.confirmed ↔ x ∈ s.faults.confirmed ∧ x ∉ kinds)
        ∧ ((n < k ∨ (k ≤ l.litCount ∧ l.litReached = true)) → v.faults.confirmed = s.faults.confirmed)))
    ∧ (∀ stale dipped : Bool, l.flashDiscard = true →
      s.lampResult ⟨.dark c, range, count, stale, dipped⟩ = s.updLamp c fun l => { l with flashDiscard := false })
    ∧ (s.work.used c = true → l.flashDiscard = false →
      let v := s.lampResult ⟨.dark c, range, count, false, false⟩
      let w := v.lamps[c]
      let n := min 8 (l.darkCount + 1)
      let key : Cond := ⟨.channel c, .darkCurrent⟩
      let leak : Prop := ovr = true ∨ s.work.channels[c].leakApplied < i
      let supplied : Prop := s.smc.proof = true ∧ s.ftr.proof = true
      (leak → w.darkCount = 0 ∧ w.darkReached = false)
      ∧ (¬ leak → ∀ g : Group, c = chanOf g 2 → (v.monitor[g]).darkCurrent = false)
      ∧ (¬ leak → supplied → w.darkCount = n ∧ w.darkReached = decide (k ≤ n)
        ∧ (∀ r ∈ v.faults.suspicions, r.key ≠ key)
        ∧ (k ≤ n → (l.darkCount < k ∨ l.darkReached = false) → key ∉ v.faults.confirmed)
        ∧ ((n < k ∨ (k ≤ l.darkCount ∧ l.darkReached = true)) →
            (key ∈ v.faults.confirmed ↔ key ∈ s.faults.confirmed)))
      ∧ (¬ leak → ¬ supplied → w.darkCount = l.darkCount ∧ w.darkReached = l.darkReached
        ∧ (key ∈ v.faults.confirmed ↔ key ∈ s.faults.confirmed)
        ∧ (∀ r : Suspicion, r.key = key → (r ∈ v.faults.suspicions ↔ r ∈ s.faults.suspicions))
        ∧ (colourOf c ≠ 2 → v.faults = s.faults))))
  ∧ (∀ (s : State) (c : Chan) (i : Nat),
    let l := s.lamps[c]
    let set := l.learnSet ++ [i]
    let ref := set.sum / (4 * s.work.lampCount c)
    l.learning = true → set.length = 4 →
    (spreadOk set = true → 20 ≤ ref → ref ≤ 3000 →
      (s.learnReading c i false).work.channels[c] = { s.work.channels[c] with iref := ref, learned := true }
      ∧ (s.learnReading c i false).edit.channels[c] = { s.edit.channels[c] with iref := ref, learned := true }
      ∧ ((s.learnReading c i false).lamps[c]).learning = false)
    ∧ ((spreadOk set = false ∨ ref < 20 ∨ 3000 < ref) → (s.learnReading c i false).work = s.work
      ∧ ((s.learnReading c i false).lamps[c]).learning = true ∧ ((s.learnReading c i false).lamps[c]).learnSet = [])))

/-! ### The cable survey (spec/08) -/

/-- The events of the surveyor: the interval timer begins a rolling pass or holds its start; the window timer ends the pass where no core is under test, and a start held then begins the next pass unless the surveyor is halted; the eligibility timer asks for a selection; at the charge timer the closed line begins the measurement and the open line confirms MATRIX_FAULT and halts the surveyor, as the closed line does at the release timer; the opening line takes the held operates and ends the test; the closing line is recorded (R89, R140, R142, R143, R146, R149). A core is eligible by its role as Table 8-2 gives (R141), and a selection, made in an active pass with no core under test, takes the DUE cores in ascending number, then the DEFERRED ones: it starts a test on the first eligible, else marks the first WAIT_ELIGIBLE and starts the eligibility timer toward the earliest time at which one will have been dark for 1.0 s, and with no core due ends the pass (R142). That the release timer ends the test where the line is open already (log 20), that a repeated level changes nothing (log 45), that no core counts as eligible while the proof line stands closed, so that the first is marked WAIT_ELIGIBLE (log 25), and that a selection which finds no later time leaves a running eligibility timer as it is (log 26) are read from the spec by inference. -/
def Obligations.SurveyEvents : Prop :=
  (∀ (s : State) (k : CoreId) (t : Nat),
    (s.work.cores[k].role = .unused → s.coreEligible k t = false)
    ∧ (s.work.cores[k].role = .spare → s.coreEligible k t = true)
    ∧ (s.work.cores[k].role = .common → (s.coreEligible k t = true ↔ s.smc.proof = false))
    ∧ (∀ c, s.work.cores[k].role = .load c → (s.coreEligible k t = true ↔
      (s.relays[c]).state = .released ∧ (∃ d, (s.relays[c]).darkSince = some d ∧ d + 1000 ≤ t)
      ∧ (colourOf c = 0 → (s.groups[groupOf c]).aspect = .green ∧ s.engine.state = .green
          ∧ (s.stageGroups s.engine.inForce)[groupOf c] = true ∧ ∃ e, s.engine.greenTimer = some e ∧ t + 2500 ≤ e)
      ∧ (colourOf c ≠ 0 → (s.groups[groupOf c]).pendingGreen = false)
      ∧ (colourOf c = 1 → s.work.groups[groupOf c].type = .vehicle → s.flashBus = false))))
  ∧ (∀ s : State,
    s.dueOrder = allCores.filter (fun k => (s.cores[k]).mark = .due) ++ allCores.filter fun k => (s.cores[k]).mark = .deferred)
  ∧ (∀ s : State,
    let u := s.selection
    ((s.survey.active = false ∨ s.survey.halted = true ∨ s.survey.underTest ≠ none) → u = s)
    ∧ (s.survey.active = true → s.survey.halted = false → s.survey.underTest = none →
      (s.dueOrder = [] → u = s.endPass)
      ∧ (∀ (a b : List CoreId) (k : CoreId), s.dueOrder = a ++ k :: b → s.survey.lineClosed = false →
        s.coreEligible k s.now = true → (∀ x ∈ a, s.coreEligible x s.now = false) →
        u = { s with cores := u.cores, survey := { s.survey with
          eligibility := none, underTest := some k, connected := some (crosspoint k), charge := some (s.now + 2000) } }
        ∧ ∀ x : CoreId, u.cores[x] = if x = k then { s.cores[x] with test := .charging }
            else if (s.cores[x]).test = .waitEligible then { s.cores[x] with test := .idle } else s.cores[x])
      ∧ (∀ (k : CoreId) (b : List CoreId), s.dueOrder = k :: b →
        (s.survey.lineClosed = true ∨ ∀ x ∈ s.dueOrder, s.coreEligible x s.now = false) →
        u = { s with cores := u.cores, survey := { s.survey with eligibility := u.survey.eligibility } }
        ∧ (∀ x : CoreId, u.cores[x] = if x = k then { s.cores[x] with test := .waitEligible }
            else if (s.cores[x]).test = .waitEligible then { s.cores[x] with test := .idle } else s.cores[x])
        ∧ (let later (x : CoreId) (e : Nat) : Prop := x ∈ s.dueOrder ∧ s.now < e ∧ s.coreEligible x e = true
            ∧ ∃ (c : Chan) (d : Nat), s.work.cores[x].role = .load c ∧ (s.relays[c]).darkSince = some d ∧ e = d + 1000
          (∀ x e, later x e → (∀ y e', later y e' → e ≤ e') → u.survey.eligibility = some e)
          ∧ ((∀ x e, ¬ later x e) → u.survey.eligibility = s.survey.eligibility)))))
  ∧ ∀ (s : State) (e : Nat),
    let t := s.elapseTo e
    (s.survey.interval = some e →
      (s.survey.halted = true → exec .intervalTimerExpiry s
        = .next (t.cascade { t with survey := { t.survey with interval := none } }))
      ∧ (s.survey.halted = false → s.survey.active = true → exec .intervalTimerExpiry s
        = .next (t.cascade { t with survey := { t.survey with interval := none, startHeld := true } }))
      ∧ (s.survey.halted = false → s.survey.active = false → ∃ u : State,
        exec .intervalTimerExpiry s = .next (t.cascade u)
        ∧ u = { t with cores := u.cores, survey := u.survey, ev := { t.ev with select := true } }
        ∧ u.survey = { s.survey with
            active := true, full := false
            passNo := if s.survey.passNo = 65535 then 1 else s.survey.passNo + 1
            interval := some (t.now + 3600000 * s.work.thr.hours), window := some (t.now + 14400000), startHeld := false }
        ∧ ∀ k : CoreId, u.cores[k] = if s.work.cores[k].role = .unused then { s.cores[k] with mark := .none }
            else { s.cores[k] with mark := .due, abandons := 0 }))
    ∧ (s.survey.window = some e →
      ((s.survey.active = false ∨ s.survey.underTest ≠ none) → exec .windowTimerExpiry s
        = .next (t.cascade { t with survey := { t.survey with window := none } }))
      ∧ (s.survey.active = true → s.survey.underTest = none → (s.survey.startHeld = false ∨ s.survey.halted = true) → ∃ u : State,
        exec .windowTimerExpiry s = .next (t.cascade u) ∧ u.survey.active = false ∧ u.survey.window = none
        ∧ u.survey.eligibility = none ∧ u.hasJob .surveyNow = false ∧ ImageKind.survey ∈ u.store.queue
        ∧ ∀ k : CoreId, (u.cores[k]).mark = .none
            ∧ (u.cores[k]).hist.untested
                = if (s.cores[k]).mark.isDue = true ∧ (s.cores[k]).hist.untested < 3 then (s.cores[k]).hist.untested + 1
                  else (s.cores[k]).hist.untested)
      ∧ (s.survey.active = true → s.survey.underTest = none → s.survey.startHeld = true → s.survey.halted = false →
        ∃ u : State, exec .windowTimerExpiry s = .next (t.cascade u) ∧ u.ev.select = true ∧ u.hasJob .surveyNow = false
        ∧ ImageKind.survey ∈ u.store.queue
        ∧ u.survey = { s.survey with
            active := true, full := false, eligibility := none
            passNo := if s.survey.passNo = 65535 then 1 else s.survey.passNo + 1
            interval := some (t.now + 3600000 * s.work.thr.hours), window := some (t.now + 14400000), startHeld := false }
        ∧ ∀ k : CoreId, (u.cores[k]).mark = (if s.work.cores[k].role = .unused then .none else .due)
            ∧ (u.cores[k]).hist.untested
                = if (s.cores[k]).mark.isDue = true ∧ (s.cores[k]).hist.untested < 3 then (s.cores[k]).hist.untested + 1
                  else (s.cores[k]).hist.untested))
    ∧ (s.survey.eligibility = some e → exec .eligibilityTimerExpiry s
        = .next (t.cascade { t with survey := { t.survey with eligibility := none }, ev := { t.ev with select := true } }))
    ∧ (∀ k, s.survey.charge = some e → s.survey.underTest = some k → ∃ u : State,
      exec .chargeTimerExpiry s = .next (t.cascade u) ∧ u.relays = s.relays ∧ u.survey.charge = none
      ∧ (s.survey.lineClosed = true → (u.cores[k]).test = .measureX16 ∧ u.meas = (t.place (.leak k) .leakX16).meas
          ∧ u.survey = { s.survey with charge := none })
      ∧ (s.survey.lineClosed = false → (u.cores[k]).test = .idle ∧ u.survey.underTest = none
          ∧ u.survey.connected = none ∧ u.survey.halted = true
          ∧ (⟨.core k, .matrixFault⟩ : Cond) ∈ u.faults.confirmed))
    ∧ (∀ k, s.survey.release = some e → s.survey.underTest = some k → ∃ u : State,
      exec .surveyorReleaseTimerExpiry s = .next (t.cascade u) ∧ u.relays = s.relays
      ∧ (s.survey.lineClosed = true → u.survey.release = none ∧ u.survey.halted = true
          ∧ (⟨.core k, .matrixFault⟩ : Cond) ∈ u.faults.confirmed)
      ∧ (s.survey.lineClosed = false → (s.cores[k]).test = .releasing →
          u.survey.release = none ∧ u.survey.underTest = none ∧ (u.cores[k]).test = .idle))
    ∧ (s.survey.lineClosed = false → exec .crosspointLineOpened s = .next s)
    ∧ (s.survey.lineClosed = true → s.power.phase = .running → ∃ u : State,
      exec .crosspointLineOpened s = .next (s.cascade u) ∧ u.survey.lineClosed = false
      ∧ (∀ c : Chan, u.relays[c] = if (s.relays[c]).held = true ∧ (s.relays[c]).state = .released then
            { s.relays[c] with
              state := .operating, coil := true, held := false, waitCore := none, waitTimer := none, darkSince := none
              opTimer := some (s.now + s.work.channels[c].limits.operate) }
          else s.relays[c])
      ∧ ∀ k, s.survey.underTest = some k → (s.cores[k]).test = .releasing →
          u.survey.underTest = none ∧ (u.cores[k]).test = .idle)
    ∧ (s.survey.lineClosed = true → exec .crosspointLineClosed s = .next s)
    ∧ (s.survey.lineClosed = false → s.power.phase = .running → exec .crosspointLineClosed s
        = .next (State.close { s with survey := { s.survey with lineClosed := true } }))

/-- The resistance of a leakage current, the smoothed value, the record of a reading, and what a LEAK result does to the core under test, range by range (R144, R147). The insulation judgement of Table 8-4 with its hysteresis, in the order EARTH_FAULT, LOW, WARN: an observation below the threshold, the end of the condition from floor(threshold × 5 / 4) on, between the two a pass where it is not confirmed and nothing where it is; and the level of a core, the most severe kind then confirmed (R148). With an untested-pass count of 3 the reading ends CORE_UNTESTABLE (R147). A STALE result abandons the test, and the fifth abandon of a pass marks a core still due DEFERRED (R145). -/
def Obligations.LeakReadings : Prop :=
  (∀ (s : State) (k : CoreId) (x : Kind) (v thr : Nat),
    let y : Cond := ⟨.core k, x⟩
    (v < thr → s.judgeLevel k x v thr = s.observe y)
    ∧ (thr * 5 / 4 ≤ v → s.judgeLevel k x v thr = s.endCond y)
    ∧ (thr ≤ v → v < thr * 5 / 4 → (y ∈ s.faults.confirmed → s.judgeLevel k x v thr = s)
      ∧ (y ∉ s.faults.confirmed → s.judgeLevel k x v thr = s.pass y)))
  ∧ (∀ (s : State) (k : CoreId) (reading : Nat),
    let h := (s.cores[k]).hist.record reading s.survey.passNo
    let r : State := { s with cores := s.cores.set k { s.cores[k] with hist := h, mark := .tested } }
    let t : State := if (s.cores[k]).hist.untested = 3 then r.endCond ⟨.core k, .coreUntestable⟩ else r
    let both (w : State) : State := (w.judgeLevel k .insulationLow (h.smoothed.getD reading) s.work.thr.low).judgeLevel k
      .insulationWarn (h.smoothed.getD reading) s.work.thr.warn
    s.record k reading true = both (t.observe ⟨.core k, .earthFault⟩)
    ∧ (s.work.thr.low ≤ reading → s.record k reading false = both (t.endCond ⟨.core k, .earthFault⟩))
    ∧ (reading < s.work.thr.low → s.record k reading false = both t))
  ∧ (∀ (s u : State) (k : CoreId) (x : Kind), x.insulation = true →
    ((∃ tag, (⟨.core k, x⟩ : Cond) ∉ s.faults.confirmed ∧ u = s.confirm ⟨.core k, x⟩ tag)
      ∨ ((⟨.core k, x⟩ : Cond) ∈ s.faults.confirmed ∧ u = s.endCond ⟨.core k, x⟩)) →
    (u.cores[k]).hist.level =
      if (⟨.core k, .earthFault⟩ : Cond) ∈ u.faults.confirmed then .earthFault
      else if (⟨.core k, .insulationLow⟩ : Cond) ∈ u.faults.confirmed then .low
      else if (⟨.core k, .insulationWarn⟩ : Cond) ∈ u.faults.confirmed then .warn else .ok)
  ∧ (resistance 0 = 9999999 ∧ ∀ x : Nat, 0 < x → resistance x = min 9999999 (50000000 / x))
  ∧ (∀ old r : Nat, (r < old / 4 → smooth old r = r) ∧ (old / 4 ≤ r → r ≤ old → smooth old r = old - (old - r) / 8)
    ∧ (old ≤ r → smooth old r = old + (r - old) / 8))
  ∧ (∀ (h : CoreSurvey) (r n : Nat),
    (h.record r n).recent = (h.recent ++ [(r, n)]).drop (h.recent.length + 1 - 8) ∧ (h.record r n).untested = 0
    ∧ (h.smoothed = none → (h.record r n).smoothed = some r ∧ (h.record r n).worst = some r)
    ∧ (∀ v w, h.smoothed = some v → h.worst = some w →
        (h.record r n).smoothed = some (smooth v r) ∧ (h.record r n).worst = some (min w r)))
  ∧ (∀ (s : State) (k : CoreId) (range : ConvRange) (count : BitVec 16) (stale dipped : Bool), s.survey.underTest = some k →
    ((s.cores[k]).test = .measureX16 ∨ (s.cores[k]).test = .measureX1) →
    let r : Result := ⟨.leak k, range, count, stale, dipped⟩
    let u := s.leakResult r
    (stale = true → (u.cores[k]).test = .releasing ∧ u.survey.release = some (s.now + 20) ∧ u.survey.connected = none
      ∧ (u.cores[k]).abandons = min 5 ((s.cores[k]).abandons + 1)
      ∧ (u.cores[k]).mark = (if 4 ≤ (s.cores[k]).abandons ∧ (s.cores[k]).mark = .due then .deferred else (s.cores[k]).mark) ∧ (u.cores[k]).hist = (s.cores[k]).hist)
    ∧ (stale = false → dipped = true → u = s.place (.leak k) range)
    ∧ (stale = false → dipped = false → count.toNat = 65535 →
      ((s.cores[k]).test = .measureX16 → (u.cores[k]).test = .measureX1 ∧ u.meas = (s.place (.leak k) .leakX1).meas
        ∧ u.survey = s.survey)
      ∧ ((s.cores[k]).test = .measureX1 → (⟨.core k, .earthFault⟩ : Cond) ∈ u.faults.confirmed
        ∧ (u.cores[k]).hist.smoothed = ((s.cores[k]).hist.record 0 s.survey.passNo).smoothed
        ∧ (u.cores[k]).mark = .tested ∧ (u.cores[k]).test = .releasing ∧ u.survey.connected = none
        ∧ u.survey.release = some (s.now + 20)))
    ∧ (stale = false → dipped = false → count.toNat ≠ 65535 →
      let x := resistance (count.toNat * range.fullScale / 65536)
      let h := (s.cores[k]).hist.record x s.survey.passNo
      (u.cores[k]).hist.smoothed = h.smoothed ∧ (u.cores[k]).hist.worst = h.worst ∧ (u.cores[k]).hist.recent = h.recent
        ∧ (u.cores[k]).mark = .tested ∧ (u.cores[k]).test = .releasing ∧ u.survey.connected = none
        ∧ u.survey.release = some (s.now + 20)))

/-! ### Fault confirmation (spec/09) -/

/-- What an observation does: a class 1 kind and a direct entry are confirmed NORMAL; of classes 2 and 3 a condition confirmed stays so, one without a record gets one, or is confirmed EARLY where 32 stand, and one with a record counts on to its confirmation, or LATE by HOLD_TIMER_EXPIRY; a confirmation is entered in the alarm list by R163's table, and an end clears its record, with their notices; the start and the end of a lit period and the end of a dark period change the suspicions that count within them, a lit one stopping or starting its hold timer at level 3 (R155 to R160, R163, R164). That a dark reading after its dark period has ended returns a level 2 suspicion to level 1 (log 82) and that the ALARM_RAISED of a confirmation the full list cannot take carries no occurrence count (log 12) are the model's choices. -/
def Obligations.FaultReports : Prop :=
  (∀ (s : State) (k : Cond),
    (k.cls ≤ 1 → s.observe k = s.confirm k .normal)
    ∧ (2 ≤ k.cls → k ∈ s.faults.confirmed → s.observe k = s)
    ∧ (2 ≤ k.cls → k ∉ s.faults.confirmed →
      ((∀ r ∈ s.faults.suspicions, r.key ≠ k) →
        (s.faults.suspicions.length < 32 → s.observe k = { s with faults := { s.faults with
            suspicions := s.faults.suspicions ++ [⟨k, k.cls, 1, 1, s.now, none⟩] } })
        ∧ (32 ≤ s.faults.suspicions.length → s.observe k = s.confirm k .early))
      ∧ (∀ r, s.faults.suspicions.find? (·.key = k) = some r →
        let n := if k.kind.insulation = true then s.work.thr.cableK else s.work.thr.lampK
        (k.cls = 2 →
          let c := if r.level = 1 then min 8 (r.count + 1) else 1
          (n ≤ c → s.observe k = s.confirm k .normal)
          ∧ (c < n → s.observe k = s.setSuspicion { r with level := 1, count := c }))
        ∧ (k.cls = 3 → r.level ≠ 3 →
          let c := min 8 (r.count + 1)
          (n ≤ c → s.observe k = s.setSuspicion { r with
            level := 3, count := c, hold := some (s.now + 60000 * s.work.thr.holdMin) })
          ∧ (c < n → s.observe k = s.setSuspicion { r with level := 1, count := c }))
        ∧ (k.cls = 3 → r.level = 3 → (r.hold ≠ none → s.observe k = s)
          ∧ (r.hold = none → s.observe k = s.confirm k .normal))))
    ∧ (∀ (c : Chan) (e : Nat) (h : HeldKind), s.holdTimer ⟨.channel c, heldKind h⟩ = some e →
      let t := s.elapseTo e
      exec (.holdTimerExpiry c h) s = .next (t.cascade (t.confirm ⟨.channel c, heldKind h⟩ .late)))
    ∧ (∀ tag, k ∈ (s.confirm k tag).faults.confirmed ∧ (∀ x ∈ s.faults.confirmed, x ∈ (s.confirm k tag).faults.confirmed)
      ∧ (∀ r ∈ (s.confirm k tag).faults.suspicions, r.key ≠ k)
      ∧ (s.confirm k tag).faults.alarms = (s.enterAlarm k tag).faults.alarms
      ∧ (s.confirm k tag).faults.listFull = (s.enterAlarm k tag).faults.listFull
      ∧ (s.confirm k tag).link = (s.enterAlarm k tag).link)
    ∧ (k ∉ (s.endCond k).faults.confirmed ∧ (∀ x ∈ s.faults.confirmed, x ≠ k → x ∈ (s.endCond k).faults.confirmed)
      ∧ (∀ r ∈ (s.endCond k).faults.suspicions, r.key ≠ k)
      ∧ (k ∈ s.faults.confirmed → (s.endCond k).faults.alarms = (s.clearAlarm k).faults.alarms
          ∧ (s.endCond k).link = (s.clearAlarm k).link)
      ∧ (k ∉ s.faults.confirmed → (s.endCond k).faults.alarms = s.faults.alarms ∧ (s.endCond k).link = s.link)))
  ∧ (∀ (s : State) (c : Chan) (i : Nat) (r : Suspicion), s.faults.suspicions[i]? = some r →
    let counts : Prop := r.key = ⟨.channel c, .lampOut⟩ ∨ r.key = ⟨.channel c, .lampPartial⟩
      ∨ r.key = ⟨.channel c, .overcurrent⟩ ∨ (colourOf c = 0 ∧ r.key = ⟨.group (groupOf c), .redOut⟩)
    let x := (s.litStart c).faults.suspicions[i]?
    let y := (s.litEnd c).faults.suspicions[i]?
    let z := (s.darkEnd c).faults.suspicions[i]?
    (counts → r.cls = 3 → r.level = 2 → x = some { r with level := 1 })
    ∧ (counts → r.cls = 3 → r.level = 3 → x = some { r with hold := none })
    ∧ ((¬ counts ∨ r.cls ≠ 3 ∨ r.level = 1) → x = some r)
    ∧ (counts → r.level = 1 → y = some { r with level := 2 })
    ∧ (counts → r.level = 3 → r.hold = none → y = some { r with hold := some (s.now + 60000 * s.work.thr.holdMin) })
    ∧ ((¬ counts ∨ r.level = 2 ∨ (r.level = 3 ∧ r.hold ≠ none)) → y = some r)
    ∧ (r.key = ⟨.channel c, .darkCurrent⟩ → r.level = 1 → z = some { r with level := 2 })
    ∧ ((r.key ≠ ⟨.channel c, .darkCurrent⟩ ∨ r.level ≠ 1) → z = some r))
  ∧ (∀ (s : State) (c : Chan), ∀ u ∈ [s.litStart c, s.litEnd c, s.darkEnd c],
    u = { s with faults := { s.faults with suspicions := u.faults.suspicions } }
    ∧ u.faults.suspicions.length = s.faults.suspicions.length)
  ∧ (∀ (s : State) (k : Cond) (tag : ConfTag),
    (∀ a, s.faults.alarms.find? (·.key = k) = some a →
      let b : Alarm := { a with tag := tag, last := s.calTime, count := min 255 (a.count + 1), active := true }
      let v : State := { s with faults := { s.faults with
        alarms := s.faults.alarms.map fun x => if x.key = k then b else x } }
      (a.active = true → s.enterAlarm k tag = v)
      ∧ (a.active = false →
        s.enterAlarm k tag = v.notify (.alarmRaised k k.kind.severity tag s.calTime (some b.count) true)))
    ∧ ((∀ a ∈ s.faults.alarms, a.key ≠ k) →
      let fresh : Alarm := ⟨k, k.kind.severity, tag, s.calTime, s.calTime, 1, true⟩
      (s.faults.alarms.length < 64 → s.enterAlarm k tag
        = State.notify { s with faults := { s.faults with alarms := s.faults.alarms ++ [fresh] } }
            (.alarmRaised k k.kind.severity tag s.calTime (some 1) true))
      ∧ (∀ old, 64 ≤ s.faults.alarms.length → s.faults.alarms.find? (fun x => x.active = false) = some old →
        s.enterAlarm k tag
          = State.notify { s with faults := { s.faults with alarms := s.faults.alarms.erase old ++ [fresh] } }
              (.alarmRaised k k.kind.severity tag s.calTime (some 1) true))
      ∧ (64 ≤ s.faults.alarms.length → (∀ x ∈ s.faults.alarms, x.active = true) →
        s.enterAlarm k tag = State.notify { s with faults := { s.faults with listFull := true } }
          (.alarmRaised k k.kind.severity tag s.calTime none false)))
    ∧ s.clearAlarm k = State.notify { s with faults := { s.faults with
        alarms := s.faults.alarms.map fun x => if x.key = k then { x with last := s.calTime, active := false } else x } }
        (.alarmCleared k s.calTime)
    ∧ (s.faults.alarms.length ≤ 64 → (s.enterAlarm k tag).faults.alarms.length ≤ 64))

/-! ### The store (spec/11) -/

/-- STORE_WRITE_BEGIN is what the end of every event does (R184; the model's choice, log 1). STORE_WRITE_COMPLETE: a write whose comparison matches leaves its image valid with the generation and content written, ends STORE_WRITE_FAILED and, where a COMMIT job stood, ends it OK with its JOB_DONE notice, queued after the report of STORE_WRITE_FAILED and before the blocks act on the commit (an order read from R41, R179 and R185 by inference, log 18): the edit copy becomes the working copy, or the staging copy becomes the pending copy, in use at once outside the running modes; the surveyor clears the history of each core whose configuration has changed, ends its insulation conditions, and takes a core out of the pass or makes it DUE in it (R138; that the untested-pass count goes to 0 with the history, and that a core made DUE starts with 0 abandons, are read from the spec by inference, logs 52 and 23); the lamp prover bounds the estimates, and starts or ends the proving of each channel that becomes or ceases to be used (R119), whose conditions then end (R159; that DARK_CURRENT is one of them and that RED_OUT goes with the red channel alone are the model's choices, logs 56 and 85); a COMMIT_CONFIG in UNCONFIGURED enters STANDBY, what the output monitor finds in that event not counted (read from R179 by inference, log 83); one that does not match leaves the image invalid, confirms STORE_WRITE_FAILED and ends the job STORE_FAILED, with nothing committed (R41, R43, R179, R180, R185). What the blocks hold is the image as R183 forms it, over bytes whose layout is free (log 11); the generation held during and after a write is read from R184 and R185 by inference (log 43). -/
def Obligations.StoreWrites : Prop :=
  ∀ s : State,
    (s.power.phase = .running → s.store.writing = none → s.store.queue ≠ [] → exec .storeWriteBegin s = .next s.close)
    ∧ (∀ v, s.store.writing = none → exec (.storeWriteComplete v) s = .next s)
    ∧ (∀ w, s.store.writing = some w →
      (∃ u : State, exec (.storeWriteComplete true) s = .next (s.cascade u)
        ∧ u.store.writing = none ∧ u.store.image w.image = ⟨w.generation, true⟩
        ∧ u.store.blocks w.image = some (Stored.form w.image w.generation w.content)
        ∧ (⟨.image w.image, .storeWriteFailed⟩ : Cond) ∉ u.faults.confirmed ∧ u.edit = s.edit ∧ u.staging = s.staging
        ∧ (w.forCommit = false → u.work = s.work ∧ u.inUse = s.inUse ∧ u.pendingSet = s.pendingSet ∧ u.groups = s.groups)
        ∧ (w.forCommit = true → w.image = .config → u.work = s.edit ∧ u.hasJob .commitConfig = false
            ∧ u.mode.mode = (if s.mode.mode = .unconfigured then .standby else s.mode.mode)
            ∧ (s.mode.mode = .unconfigured → u.lockouts = s.lockouts)
            ∧ ∀ g : Group, (u.groups[g]).pendingGreen = false ∧ (u.groups[g]).lastGreenOff = none
                ∧ (u.groups[g]).greenMark = false)
        ∧ (w.forCommit = true → w.image = .config →
          (∀ k : CoreId,
            (s.work.cores[k] = s.edit.cores[k] → (u.cores[k]).hist = (s.cores[k]).hist)
            ∧ (s.work.cores[k] ≠ s.edit.cores[k] → (u.cores[k]).hist = .cleared
              ∧ (∀ x : Kind, x.insulation = true → (⟨.core k, x⟩ : Cond) ∉ u.faults.confirmed
                  ∧ ∀ r ∈ u.faults.suspicions, r.key ≠ ⟨.core k, x⟩)
              ∧ (s.edit.cores[k].role = .unused → (u.cores[k]).mark = .none)
              ∧ (s.work.cores[k].role = .unused → s.edit.cores[k].role ≠ .unused → s.survey.active = true →
                  (u.cores[k]).mark = .due ∧ (u.cores[k]).abandons = 0)))
          ∧ (∀ c : Chan,
            let l := s.lamps[c]
            let v := u.lamps[c]
            (s.work.used c = true → s.edit.used c = true → v.lampsLit = min l.lampsLit (s.edit.lampCount c)
              ∧ v.settle = l.settle ∧ v.repeatTimer = l.repeatTimer ∧ v.dark = l.dark ∧ v.lit = l.lit ∧ v.last = l.last)
            ∧ (s.work.used c = false → s.edit.used c = true → (s.relays[c]).state = .released → v.dark = some (s.now + 500))
            ∧ (s.work.used c = true → s.edit.used c = false →
              v.settle = none ∧ v.repeatTimer = none ∧ v.dark = none ∧ v.lit = .none ∧ v.lampsLit = 0
              ∧ (∀ r ∈ u.meas.queue, r.subject ≠ .lit c ∧ r.subject ≠ .dark c)
              ∧ (∀ r ∈ u.faults.suspicions, r.key.source ≠ .channel c)
              ∧ (⟨.channel c, .darkCurrent⟩ : Cond) ∉ u.faults.confirmed
              ∧ (⟨.channel c, .lampPartial⟩ : Cond) ∉ u.faults.confirmed
              ∧ (⟨.channel c, .overcurrent⟩ : Cond) ∉ u.faults.confirmed
              ∧ (colourOf c ≠ 0 → (⟨.channel c, .lampOut⟩ : Cond) ∉ u.faults.confirmed)
              ∧ (colourOf c = 0 → (⟨.group (groupOf c), .redOut⟩ : Cond) ∉ u.faults.confirmed
                ∧ ∀ r ∈ u.faults.suspicions, r.key ≠ ⟨.group (groupOf c), .redOut⟩))))
        ∧ (w.forCommit = true → w.image ≠ .survey → ∀ j, s.job? (jobOf w.image) = some j →
            let before := (s.endCond ⟨.image w.image, .storeWriteFailed⟩).link
            (before.notices.length < 16 → .jobDone j.number j.kind .ok .none ∈ u.link.notices)
            ∧ (16 ≤ before.notices.length → u.link.lost = true))
        ∧ (w.forCommit = true → w.image = .plans → u.hasJob .commitPlans = false ∧ u.work = s.work
            ∧ ((s.mode.mode = .unconfigured ∨ s.mode.mode = .standby ∨ s.mode.mode = .failsafe) →
                u.inUse = s.staging.setVoids s.work ∧ u.pendingSet = none)
            ∧ (s.mode.mode ≠ .unconfigured → s.mode.mode ≠ .standby → s.mode.mode ≠ .failsafe →
                u.pendingSet = some ⟨s.staging.setVoids s.work, w.generation⟩ ∧ u.inUse = s.inUse)))
      ∧ (∃ u : State, exec (.storeWriteComplete false) s = .next (s.cascade u)
        ∧ u.store.writing = none ∧ u.store.image w.image = ⟨0, false⟩
        ∧ (⟨.image w.image, .storeWriteFailed⟩ : Cond) ∈ u.faults.confirmed
        ∧ u.work = s.work ∧ u.inUse = s.inUse ∧ u.pendingSet = s.pendingSet ∧ u.groups = s.groups ∧ u.mode = s.mode
        ∧ (w.forCommit = true → u.hasJob (jobOf w.image) = false)
        ∧ (w.forCommit = true → ∀ j, s.job? (jobOf w.image) = some j →
            let before := (s.observe ⟨.image w.image, .storeWriteFailed⟩).link
            (before.notices.length < 16 → .jobDone j.number j.kind .storeFailed .none ∈ u.link.notices)
            ∧ (16 ≤ before.notices.length → u.link.lost = true))
        ∧ (w.forCommit = false → u.link.jobs = s.link.jobs)))
end

