-- ==== Sys2Proof/Laws/Frame.lean ====
section
/-! SUPPORT. What an operation of the blocks leaves alone. `Kept s t`: from s to t time, the configuration, the detectors, the mains, the request side of the link and the images have not changed, and the bounds of Safety.lean are kept. `Quiet s t`: besides, the sequence engine, the plan sets, the mode and the aspects have not changed. One lemma for each operation stands in the files that follow; a proof about an event composes them. -/

namespace Sys2Proof.Machine

/-! ### Tables -/

/-- An entry after an update. -/
theorem upd_get {α : Type} {n : Nat} (v : Vector α n) (i j : Fin n) (f : α → α) :
    (upd v i f)[j] = if i = j then f v[j] else v[j] := by
  by_cases h : i = j
  · subst h; rw [if_pos rfl]; exact upd_same v i f
  · rw [if_neg h, upd_other v i j f h]

/-- The same in the form to which simp brings an index. -/
@[simp] theorem upd_getElem {α : Type} {n : Nat} (v : Vector α n) (i : Fin n) (f : α → α) (j : Nat) (h : j < n) :
    (upd v i f)[j] = if i.val = j then f v[j] else v[j] := by
  have := upd_get v i ⟨j, h⟩ f
  simpa [Fin.ext_iff] using this

@[simp] theorem mapIx_getElem {α β : Type} {n : Nat} (v : Vector α n) (f : Fin n → α → β) (j : Nat) (h : j < n) :
    (mapIx v f)[j] = f ⟨j, h⟩ v[j] := mapIx_get v f ⟨j, h⟩

theorem map_get {α β : Type} {n : Nat} (v : Vector α n) (f : α → β) (i : Fin n) : (v.map f)[i] = f v[i] := by
  simp

theorem set_get {α : Type} {n : Nat} (v : Vector α n) (i j : Fin n) (x : α) :
    (v.set i x)[j] = if i = j then x else v[j] := by
  have := upd_get v i j (fun _ => x)
  simpa [upd] using this

theorem ofFn_get {α : Type} {n : Nat} (f : Fin n → α) (i : Fin n) : (Vector.ofFn f)[i] = f i := by simp

/-! ### The two relations -/

/-- The groups' records but for their inhibit reasons. -/
def SameAspects (v w : Vector GroupRun 16) : Prop :=
  ∀ g : Group, ∃ a b c, w[g] = { v[g] with conflictRedOut := a, hold := b, greenUnavailable := c }

theorem SameAspects.refl (v : Vector GroupRun 16) : SameAspects v v := fun _ => ⟨_, _, _, rfl⟩

theorem SameAspects.trans {u v w : Vector GroupRun 16} (h : SameAspects u v) (k : SameAspects v w) : SameAspects u w := by
  intro g
  obtain ⟨a, b, c, e⟩ := h g
  obtain ⟨a', b', c', e'⟩ := k g
  exact ⟨a', b', c', by rw [e', e]⟩

/-- What every operation inside an event leaves alone, and the bounds it keeps. -/
structure Kept (s t : State) : Prop where
  power      : t.power = s.power := by rfl
  now        : t.now = s.now := by rfl
  clock      : t.clock = s.clock := by rfl
  edit       : t.edit = s.edit := by rfl
  work       : t.work = s.work := by rfl
  tod        : t.tod = s.tod := by rfl
  staging    : t.staging = s.staging := by rfl
  dets       : t.dets = s.dets := by rfl
  occupied   : t.occupied = s.occupied := by rfl
  mains      : t.mains = s.mains := by rfl
  freeUses   : t.freeUses = s.freeUses := by rfl
  pending    : t.pending = s.pending := by rfl
  rx         : t.link.rx = s.link.rx := by rfl
  rxTimer    : t.link.rxTimer = s.link.rxTimer := by rfl
  queue      : t.link.queue = s.link.queue := by rfl
  busy       : t.link.busy = s.link.busy := by rfl
  slot       : t.link.slot = s.link.slot := by rfl
  tx         : t.link.tx = s.link.tx := by rfl
  restarting : t.link.restarting = s.link.restarting := by rfl
  nextJob    : t.link.nextJob = s.link.nextJob := by rfl
  notices    : ∃ l, t.link.notices = s.link.notices ++ l := by exact ⟨[], (List.append_nil _).symm⟩
  notices16  : s.link.notices.length ≤ 16 → t.link.notices.length ≤ 16 := by exact id
  jobs       : (t.link.jobs.map (·.kind)).Sublist (s.link.jobs.map (·.kind)) := by exact List.Sublist.refl _
  configJob  : t.job? .commitConfig = s.job? .commitConfig := by rfl
  plansJob   : t.job? .commitPlans = s.job? .commitPlans := by rfl
  store      : ∃ q, t.store = { s.store with queue := q } ∧ (s.store.queue.Nodup → q.Nodup) := by exact ⟨_, rfl, id⟩
  faults     : s.faults.Sound → t.faults.Sound := by exact id
  meas       : ∃ q, t.meas = { s.meas with queue := q } := by exact ⟨_, rfl⟩
  measSound  : s.meas.Sound → t.meas.Sound := by exact id
  lampsLit   : ∀ c : Chan, (t.lamps[c]).lampsLit ≤ (s.lamps[c]).lampsLit := by exact fun _ => Nat.le_refl _
  lockouts   : s.lockouts ≤ 255 → t.lockouts ≤ 255 := by exact id
  hist       : ∀ k : CoreId, (s.cores[k]).hist.Sound → (t.cores[k]).hist.Sound := by exact fun _ => id
  greens     : s.GreensAvailable → t.GreensAvailable := by exact id

/-- What the fault confirmation unit, the lamp prover, the surveyor and the switch controller leave alone: the sequence engine, the plan sets, the aspects; of the mode controller they change the response-active mark only. -/
structure Quiet (s t : State) : Prop extends Kept s t where
  engine     : t.engine = s.engine := by rfl
  inUse      : t.inUse = s.inUse := by rfl
  pendingSet : t.pendingSet = s.pendingSet := by rfl
  handed     : t.handed = s.handed := by rfl
  mode       : ∃ b, t.mode = { s.mode with responseActive := b } := by exact ⟨_, rfl⟩
  groups     : SameAspects s.groups t.groups := by exact SameAspects.refl _

theorem Kept.refl (s : State) : Kept s s := {}

theorem Quiet.refl (s : State) : Quiet s s := {}

theorem Kept.trans {s t u : State} (h : Kept s t) (k : Kept t u) : Kept s u where
  power := k.power.trans h.power
  now := k.now.trans h.now
  clock := k.clock.trans h.clock
  edit := k.edit.trans h.edit
  work := k.work.trans h.work
  tod := k.tod.trans h.tod
  staging := k.staging.trans h.staging
  dets := k.dets.trans h.dets
  occupied := k.occupied.trans h.occupied
  mains := k.mains.trans h.mains
  freeUses := k.freeUses.trans h.freeUses
  pending := k.pending.trans h.pending
  rx := k.rx.trans h.rx
  rxTimer := k.rxTimer.trans h.rxTimer
  queue := k.queue.trans h.queue
  busy := k.busy.trans h.busy
  slot := k.slot.trans h.slot
  tx := k.tx.trans h.tx
  restarting := k.restarting.trans h.restarting
  nextJob := k.nextJob.trans h.nextJob
  notices := by
    obtain ⟨l, e⟩ := h.notices
    obtain ⟨m, f⟩ := k.notices
    exact ⟨l ++ m, by rw [f, e, List.append_assoc]⟩
  notices16 := k.notices16 ∘ h.notices16
  jobs := k.jobs.trans h.jobs
  configJob := k.configJob.trans h.configJob
  plansJob := k.plansJob.trans h.plansJob
  store := by
    obtain ⟨q, e, f⟩ := h.store
    obtain ⟨r, e', f'⟩ := k.store
    exact ⟨r, by rw [e', e], fun n => f' (by rw [e]; exact f n)⟩
  faults := k.faults ∘ h.faults
  meas := by
    obtain ⟨q, e⟩ := h.meas
    obtain ⟨r, e'⟩ := k.meas
    exact ⟨r, by rw [e', e]⟩
  measSound := k.measSound ∘ h.measSound
  lampsLit := fun c => (k.lampsLit c).trans (h.lampsLit c)
  lockouts := k.lockouts ∘ h.lockouts
  hist := fun c => k.hist c ∘ h.hist c
  greens := k.greens ∘ h.greens

theorem Quiet.trans {s t u : State} (h : Quiet s t) (k : Quiet t u) : Quiet s u where
  toKept := h.toKept.trans k.toKept
  engine := k.engine.trans h.engine
  inUse := k.inUse.trans h.inUse
  pendingSet := k.pendingSet.trans h.pendingSet
  handed := k.handed.trans h.handed
  mode := by
    obtain ⟨a, e⟩ := h.mode
    obtain ⟨b, f⟩ := k.mode
    exact ⟨b, by rw [f, e]⟩
  groups := h.groups.trans k.groups

/-- One more operation after what has been done so far; a proof reads like the operation it is about. -/
theorem Kept.of {s t u : State} (k : Kept t u) (h : Kept s t) : Kept s u := h.trans k

theorem Quiet.of {s t u : State} (k : Quiet t u) (h : Quiet s t) : Quiet s u := h.trans k

/-- The bounds of Safety.lean pass along. -/
theorem Kept.sound {s t : State} (h : Kept s t) (x : s.Sound) : t.Sound := by
  obtain ⟨f, l, st, c, m, lamps, lo, hi⟩ := x
  refine ⟨h.faults f, ⟨?_, ?_, h.notices16 l.2.2.1, ?_⟩, ?_, ?_, h.measSound m, ⟨?_, ?_⟩, h.lockouts lo, fun k => h.hist k (hi k)⟩
  · rw [h.queue]; exact l.1
  · rw [h.busy]; exact l.2.1
  · exact h.jobs.nodup l.2.2.2
  · obtain ⟨q, e, f⟩ := h.store
    rw [e]; exact ⟨f st.1, st.2.1, st.2.2⟩
  · rw [h.clock]; exact c
  · intro k; rw [h.work]; exact (h.lampsLit k).trans (lamps.1 k)
  · intro p
    rw [h.power] at p
    obtain ⟨a, b⟩ := lamps.2 p
    exact ⟨by rw [h.mains]; exact a, fun c => Nat.le_zero.mp ((h.lampsLit c).trans (b c).le)⟩

/-! ### Operations over lists and cases -/

theorem Kept.each {α : Type} {f : α → State → State} (h : ∀ a t, Kept t (f a t)) (l : List α) (s : State) :
    Kept s (s.each l f) := by
  induction l generalizing s with
  | nil => exact .refl s
  | cons a l ih => exact (h a s).trans (ih (f a s))

theorem Quiet.each {α : Type} {f : α → State → State} (h : ∀ a t, Quiet t (f a t)) (l : List α) (s : State) :
    Quiet s (s.each l f) := by
  induction l generalizing s with
  | nil => exact .refl s
  | cons a l ih => exact (h a s).trans (ih (f a s))

/-- A property that every step of a list keeps holds at its end. -/
theorem State.each_induct {α : Type} {f : α → State → State} {P : State → Prop} (l : List α) (s : State)
    (h : P s) (step : ∀ a ∈ l, ∀ t, P t → P (f a t)) : P (s.each l f) := by
  induction l generalizing s with
  | nil => exact h
  | cons a l ih =>
    exact ih (f a s) (step a (by simp) s h) fun b hb t ht => step b (by simp [hb]) t ht

theorem Kept.ite {s t u : State} {p : Prop} [Decidable p] (h : Kept s t) (k : Kept s u) :
    Kept s (if p then t else u) := by split <;> assumption

theorem Quiet.ite {s t u : State} {p : Prop} [Decidable p] (h : Quiet s t) (k : Quiet s u) :
    Quiet s (if p then t else u) := by split <;> assumption

/-! ### Updates of one field -/

variable (s : State)

theorem Quiet.ofEv (x : Ev) : Quiet s { s with ev := x } := {}

theorem Quiet.ofFaults (x : Faults) (h : s.faults.Sound → x.Sound) : Quiet s { s with faults := x } := { faults := h }

theorem Quiet.ofLamps (x : Vector LampRun 48) (h : ∀ c : Chan, (x[c]).lampsLit ≤ (s.lamps[c]).lampsLit) :
    Quiet s { s with lamps := x } := { lampsLit := h }

theorem Quiet.ofCores (x : Vector CoreRun 64) (h : ∀ k : CoreId, (s.cores[k]).hist.Sound → (x[k]).hist.Sound) :
    Quiet s { s with cores := x } := { hist := h }

theorem Quiet.ofSurvey (x : Survey) : Quiet s { s with survey := x } := {}

theorem Quiet.ofSmc (x : SupplyRelay) : Quiet s { s with smc := x } := {}

theorem Quiet.ofFtr (x : SupplyRelay) : Quiet s { s with ftr := x } := {}

theorem Quiet.ofFlashBus (x : Bool) : Quiet s { s with flashBus := x } := {}

theorem Quiet.ofMonitor (x : Vector MonGroup 16) : Quiet s { s with monitor := x } := {}

theorem Quiet.ofLockouts (x : Nat) (h : s.lockouts ≤ 255 → x ≤ 255) : Quiet s { s with lockouts := x } :=
  { lockouts := h }

theorem Quiet.ofQueue (q : List MeasReq) (h : s.meas.Sound → Meas.Sound { s.meas with queue := q }) :
    Quiet s { s with meas := { s.meas with queue := q } } := { measSound := h }

/-- Relays may change where the states of the green relays stay, as regards FAILED_OPEN. -/
theorem Quiet.ofRelays (x : Vector Relay 48)
    (h : ∀ g : Group, (x[chanOf g 2]).state = .failedOpen ↔ (s.relays[chanOf g 2]).state = .failedOpen) :
    Quiet s { s with relays := x } :=
  { greens := fun a g => (a g).trans (h g).symm }

theorem Quiet.ofResponseActive (b : Bool) : Quiet s { s with mode := { s.mode with responseActive := b } } := {}

theorem Quiet.ofGroups (x : Vector GroupRun 16) (h : SameAspects s.groups x)
    (k : ∀ g : Group, (x[g]).greenUnavailable = (s.groups[g]).greenUnavailable) : Quiet s { s with groups := x } :=
  { groups := h, greens := fun a g => by rw [← a g]; exact iff_of_eq (congrArg (· = true) (k g)) }

theorem Kept.ofGroups (x : Vector GroupRun 16)
    (k : ∀ g : Group, (x[g]).greenUnavailable = (s.groups[g]).greenUnavailable) : Kept s { s with groups := x } :=
  { greens := fun a g => by rw [← a g]; exact iff_of_eq (congrArg (· = true) (k g)) }

theorem Kept.ofEngine (x : Engine) : Kept s { s with engine := x } := {}

theorem Kept.ofMode (x : ModeCtl) : Kept s { s with mode := x } := {}

theorem Kept.ofInUse (x : PlanSet) : Kept s { s with inUse := x } := {}

theorem Kept.ofPendingSet (x : Option PendingSet) : Kept s { s with pendingSet := x } := {}

theorem Kept.ofHanded (x : Vector Aspect 16) : Kept s { s with handed := x } := {}

/-! ### The named operations (Machine/Ops.lean) -/

theorem Quiet.mark : Quiet s s.mark := Quiet.ofEv s _

theorem Quiet.occasion : Quiet s s.occasion := Quiet.ofEv s _

theorem Quiet.wantSelection : Quiet s s.wantSelection := Quiet.ofEv s _

theorem Quiet.ask (r : ModeReq) : Quiet s (s.ask r) := Quiet.ofEv s _

/-- A notice joins the end of the queue, or is lost. -/
theorem Quiet.notify (n : Notice) : Quiet s (s.notify n) := by
  unfold State.notify
  split
  · next h => exact { notices := ⟨[n], rfl⟩, notices16 := fun _ => by simp; omega }
  · exact {}

/-- A store request joins the queue once. -/
theorem Quiet.placeStore (k : ImageKind) : Quiet s (s.placeStore k) := by
  unfold State.placeStore
  split
  · exact .refl s
  · next h =>
    exact { store := ⟨s.store.queue ++ [k], rfl, fun n => by
      rw [List.nodup_append]; exact ⟨n, by simp, fun a ha b hb => by simp at hb; subst hb; exact fun e => h (e ▸ ha)⟩⟩ }

/-- The end of a job other than a commit. -/
theorem Quiet.endJob (k : JobKind) (r : JobResult) (items : JobItems) (h : k = .learn ∨ k = .surveyNow) :
    Quiet s (s.endJob k r items) := by
  unfold State.endJob
  split
  · exact .refl s
  · refine Quiet.trans ?_ (Quiet.notify _ _)
    have e : ∀ x : JobKind, k ≠ x →
        (s.link.jobs.filter (·.kind ≠ k)).find? (·.kind = x) = s.link.jobs.find? (·.kind = x) := by
      intro x hx
      rw [List.find?_filter]
      congr 1
      funext j
      by_cases hj : j.kind = x
      · simp [hj, Ne.symm hx]
      · simp [hj]
    exact {
      jobs := (List.filter_sublist).map _
      configJob := e .commitConfig (by rcases h with rfl | rfl <;> decide)
      plansJob := e .commitPlans (by rcases h with rfl | rfl <;> decide) }

/-- An update of a proving record that does not raise the estimate. -/
theorem Quiet.updLamp (c : Chan) (f : LampRun → LampRun) (h : ∀ r, (f r).lampsLit ≤ r.lampsLit) :
    Quiet s (s.updLamp c f) := by
  refine Quiet.ofLamps s _ fun d => ?_
  rw [upd_get]
  split
  · exact h _
  · exact Nat.le_refl _

/-- An update of a core's record that keeps its survey part sound. -/
theorem Quiet.updCore (k : CoreId) (f : CoreRun → CoreRun) (h : ∀ r, r.hist.Sound → (f r).hist.Sound) :
    Quiet s (s.updCore k f) := by
  refine Quiet.ofCores s _ fun d => ?_
  rw [upd_get]
  split
  · exact h _
  · exact id

/-- An update of a relay record that keeps its state. -/
theorem Quiet.updRelay (c : Chan) (f : Relay → Relay) (h : ∀ r, (f r).state = r.state) : Quiet s (s.updRelay c f) := by
  refine Quiet.ofRelays s _ fun g => ?_
  rw [upd_get]
  split
  · rw [h]
  · exact Iff.rfl

/-- An update of a group's record that keeps GREEN_UNAVAILABLE. -/
theorem Kept.updGroup (g : Group) (f : GroupRun → GroupRun) (h : ∀ r, (f r).greenUnavailable = r.greenUnavailable) :
    Kept s (s.updGroup g f) := by
  refine Kept.ofGroups s _ fun d => ?_
  rw [upd_get]
  split
  · exact h _
  · rfl

end Sys2Proof.Machine
end

