-- ==== Sys2Proof/Laws/State.lean ====
section
/-! SUPPORT. One lemma per field for each plain update of the state: what the field holds after it. A proof about an update cites these and never unfolds the record. -/

namespace Sys2Proof.Machine

variable (s : State)

/-! ### State.updGroup -/

@[simp] theorem State.updGroup_power (g : Group) (f : GroupRun → GroupRun) : (s.updGroup g f).power = s.power := rfl
@[simp] theorem State.updGroup_now (g : Group) (f : GroupRun → GroupRun) : (s.updGroup g f).now = s.now := rfl
@[simp] theorem State.updGroup_clock (g : Group) (f : GroupRun → GroupRun) : (s.updGroup g f).clock = s.clock := rfl
@[simp] theorem State.updGroup_edit (g : Group) (f : GroupRun → GroupRun) : (s.updGroup g f).edit = s.edit := rfl
@[simp] theorem State.updGroup_work (g : Group) (f : GroupRun → GroupRun) : (s.updGroup g f).work = s.work := rfl
@[simp] theorem State.updGroup_tod (g : Group) (f : GroupRun → GroupRun) : (s.updGroup g f).tod = s.tod := rfl
@[simp] theorem State.updGroup_inUse (g : Group) (f : GroupRun → GroupRun) : (s.updGroup g f).inUse = s.inUse := rfl
@[simp] theorem State.updGroup_pendingSet (g : Group) (f : GroupRun → GroupRun) : (s.updGroup g f).pendingSet = s.pendingSet := rfl
@[simp] theorem State.updGroup_staging (g : Group) (f : GroupRun → GroupRun) : (s.updGroup g f).staging = s.staging := rfl
@[simp] theorem State.updGroup_groups (g : Group) (f : GroupRun → GroupRun) : (s.updGroup g f).groups = upd s.groups g f := rfl
@[simp] theorem State.updGroup_engine (g : Group) (f : GroupRun → GroupRun) : (s.updGroup g f).engine = s.engine := rfl
@[simp] theorem State.updGroup_dets (g : Group) (f : GroupRun → GroupRun) : (s.updGroup g f).dets = s.dets := rfl
@[simp] theorem State.updGroup_occupied (g : Group) (f : GroupRun → GroupRun) : (s.updGroup g f).occupied = s.occupied := rfl
@[simp] theorem State.updGroup_relays (g : Group) (f : GroupRun → GroupRun) : (s.updGroup g f).relays = s.relays := rfl
@[simp] theorem State.updGroup_handed (g : Group) (f : GroupRun → GroupRun) : (s.updGroup g f).handed = s.handed := rfl
@[simp] theorem State.updGroup_smc (g : Group) (f : GroupRun → GroupRun) : (s.updGroup g f).smc = s.smc := rfl
@[simp] theorem State.updGroup_ftr (g : Group) (f : GroupRun → GroupRun) : (s.updGroup g f).ftr = s.ftr := rfl
@[simp] theorem State.updGroup_flashBus (g : Group) (f : GroupRun → GroupRun) : (s.updGroup g f).flashBus = s.flashBus := rfl
@[simp] theorem State.updGroup_monitor (g : Group) (f : GroupRun → GroupRun) : (s.updGroup g f).monitor = s.monitor := rfl
@[simp] theorem State.updGroup_lockouts (g : Group) (f : GroupRun → GroupRun) : (s.updGroup g f).lockouts = s.lockouts := rfl
@[simp] theorem State.updGroup_meas (g : Group) (f : GroupRun → GroupRun) : (s.updGroup g f).meas = s.meas := rfl
@[simp] theorem State.updGroup_mains (g : Group) (f : GroupRun → GroupRun) : (s.updGroup g f).mains = s.mains := rfl
@[simp] theorem State.updGroup_lamps (g : Group) (f : GroupRun → GroupRun) : (s.updGroup g f).lamps = s.lamps := rfl
@[simp] theorem State.updGroup_cores (g : Group) (f : GroupRun → GroupRun) : (s.updGroup g f).cores = s.cores := rfl
@[simp] theorem State.updGroup_survey (g : Group) (f : GroupRun → GroupRun) : (s.updGroup g f).survey = s.survey := rfl
@[simp] theorem State.updGroup_faults (g : Group) (f : GroupRun → GroupRun) : (s.updGroup g f).faults = s.faults := rfl
@[simp] theorem State.updGroup_mode (g : Group) (f : GroupRun → GroupRun) : (s.updGroup g f).mode = s.mode := rfl
@[simp] theorem State.updGroup_link (g : Group) (f : GroupRun → GroupRun) : (s.updGroup g f).link = s.link := rfl
@[simp] theorem State.updGroup_store (g : Group) (f : GroupRun → GroupRun) : (s.updGroup g f).store = s.store := rfl
@[simp] theorem State.updGroup_freeUses (g : Group) (f : GroupRun → GroupRun) : (s.updGroup g f).freeUses = s.freeUses := rfl
@[simp] theorem State.updGroup_ev (g : Group) (f : GroupRun → GroupRun) : (s.updGroup g f).ev = s.ev := rfl
@[simp] theorem State.updGroup_pending (g : Group) (f : GroupRun → GroupRun) : (s.updGroup g f).pending = s.pending := rfl

/-! ### State.updRelay -/

@[simp] theorem State.updRelay_power (c : Chan) (f : Relay → Relay) : (s.updRelay c f).power = s.power := rfl
@[simp] theorem State.updRelay_now (c : Chan) (f : Relay → Relay) : (s.updRelay c f).now = s.now := rfl
@[simp] theorem State.updRelay_clock (c : Chan) (f : Relay → Relay) : (s.updRelay c f).clock = s.clock := rfl
@[simp] theorem State.updRelay_edit (c : Chan) (f : Relay → Relay) : (s.updRelay c f).edit = s.edit := rfl
@[simp] theorem State.updRelay_work (c : Chan) (f : Relay → Relay) : (s.updRelay c f).work = s.work := rfl
@[simp] theorem State.updRelay_tod (c : Chan) (f : Relay → Relay) : (s.updRelay c f).tod = s.tod := rfl
@[simp] theorem State.updRelay_inUse (c : Chan) (f : Relay → Relay) : (s.updRelay c f).inUse = s.inUse := rfl
@[simp] theorem State.updRelay_pendingSet (c : Chan) (f : Relay → Relay) : (s.updRelay c f).pendingSet = s.pendingSet := rfl
@[simp] theorem State.updRelay_staging (c : Chan) (f : Relay → Relay) : (s.updRelay c f).staging = s.staging := rfl
@[simp] theorem State.updRelay_groups (c : Chan) (f : Relay → Relay) : (s.updRelay c f).groups = s.groups := rfl
@[simp] theorem State.updRelay_engine (c : Chan) (f : Relay → Relay) : (s.updRelay c f).engine = s.engine := rfl
@[simp] theorem State.updRelay_dets (c : Chan) (f : Relay → Relay) : (s.updRelay c f).dets = s.dets := rfl
@[simp] theorem State.updRelay_occupied (c : Chan) (f : Relay → Relay) : (s.updRelay c f).occupied = s.occupied := rfl
@[simp] theorem State.updRelay_relays (c : Chan) (f : Relay → Relay) : (s.updRelay c f).relays = upd s.relays c f := rfl
@[simp] theorem State.updRelay_handed (c : Chan) (f : Relay → Relay) : (s.updRelay c f).handed = s.handed := rfl
@[simp] theorem State.updRelay_smc (c : Chan) (f : Relay → Relay) : (s.updRelay c f).smc = s.smc := rfl
@[simp] theorem State.updRelay_ftr (c : Chan) (f : Relay → Relay) : (s.updRelay c f).ftr = s.ftr := rfl
@[simp] theorem State.updRelay_flashBus (c : Chan) (f : Relay → Relay) : (s.updRelay c f).flashBus = s.flashBus := rfl
@[simp] theorem State.updRelay_monitor (c : Chan) (f : Relay → Relay) : (s.updRelay c f).monitor = s.monitor := rfl
@[simp] theorem State.updRelay_lockouts (c : Chan) (f : Relay → Relay) : (s.updRelay c f).lockouts = s.lockouts := rfl
@[simp] theorem State.updRelay_meas (c : Chan) (f : Relay → Relay) : (s.updRelay c f).meas = s.meas := rfl
@[simp] theorem State.updRelay_mains (c : Chan) (f : Relay → Relay) : (s.updRelay c f).mains = s.mains := rfl
@[simp] theorem State.updRelay_lamps (c : Chan) (f : Relay → Relay) : (s.updRelay c f).lamps = s.lamps := rfl
@[simp] theorem State.updRelay_cores (c : Chan) (f : Relay → Relay) : (s.updRelay c f).cores = s.cores := rfl
@[simp] theorem State.updRelay_survey (c : Chan) (f : Relay → Relay) : (s.updRelay c f).survey = s.survey := rfl
@[simp] theorem State.updRelay_faults (c : Chan) (f : Relay → Relay) : (s.updRelay c f).faults = s.faults := rfl
@[simp] theorem State.updRelay_mode (c : Chan) (f : Relay → Relay) : (s.updRelay c f).mode = s.mode := rfl
@[simp] theorem State.updRelay_link (c : Chan) (f : Relay → Relay) : (s.updRelay c f).link = s.link := rfl
@[simp] theorem State.updRelay_store (c : Chan) (f : Relay → Relay) : (s.updRelay c f).store = s.store := rfl
@[simp] theorem State.updRelay_freeUses (c : Chan) (f : Relay → Relay) : (s.updRelay c f).freeUses = s.freeUses := rfl
@[simp] theorem State.updRelay_ev (c : Chan) (f : Relay → Relay) : (s.updRelay c f).ev = s.ev := rfl
@[simp] theorem State.updRelay_pending (c : Chan) (f : Relay → Relay) : (s.updRelay c f).pending = s.pending := rfl

/-! ### State.updLamp -/

@[simp] theorem State.updLamp_power (c : Chan) (f : LampRun → LampRun) : (s.updLamp c f).power = s.power := rfl
@[simp] theorem State.updLamp_now (c : Chan) (f : LampRun → LampRun) : (s.updLamp c f).now = s.now := rfl
@[simp] theorem State.updLamp_clock (c : Chan) (f : LampRun → LampRun) : (s.updLamp c f).clock = s.clock := rfl
@[simp] theorem State.updLamp_edit (c : Chan) (f : LampRun → LampRun) : (s.updLamp c f).edit = s.edit := rfl
@[simp] theorem State.updLamp_work (c : Chan) (f : LampRun → LampRun) : (s.updLamp c f).work = s.work := rfl
@[simp] theorem State.updLamp_tod (c : Chan) (f : LampRun → LampRun) : (s.updLamp c f).tod = s.tod := rfl
@[simp] theorem State.updLamp_inUse (c : Chan) (f : LampRun → LampRun) : (s.updLamp c f).inUse = s.inUse := rfl
@[simp] theorem State.updLamp_pendingSet (c : Chan) (f : LampRun → LampRun) : (s.updLamp c f).pendingSet = s.pendingSet := rfl
@[simp] theorem State.updLamp_staging (c : Chan) (f : LampRun → LampRun) : (s.updLamp c f).staging = s.staging := rfl
@[simp] theorem State.updLamp_groups (c : Chan) (f : LampRun → LampRun) : (s.updLamp c f).groups = s.groups := rfl
@[simp] theorem State.updLamp_engine (c : Chan) (f : LampRun → LampRun) : (s.updLamp c f).engine = s.engine := rfl
@[simp] theorem State.updLamp_dets (c : Chan) (f : LampRun → LampRun) : (s.updLamp c f).dets = s.dets := rfl
@[simp] theorem State.updLamp_occupied (c : Chan) (f : LampRun → LampRun) : (s.updLamp c f).occupied = s.occupied := rfl
@[simp] theorem State.updLamp_relays (c : Chan) (f : LampRun → LampRun) : (s.updLamp c f).relays = s.relays := rfl
@[simp] theorem State.updLamp_handed (c : Chan) (f : LampRun → LampRun) : (s.updLamp c f).handed = s.handed := rfl
@[simp] theorem State.updLamp_smc (c : Chan) (f : LampRun → LampRun) : (s.updLamp c f).smc = s.smc := rfl
@[simp] theorem State.updLamp_ftr (c : Chan) (f : LampRun → LampRun) : (s.updLamp c f).ftr = s.ftr := rfl
@[simp] theorem State.updLamp_flashBus (c : Chan) (f : LampRun → LampRun) : (s.updLamp c f).flashBus = s.flashBus := rfl
@[simp] theorem State.updLamp_monitor (c : Chan) (f : LampRun → LampRun) : (s.updLamp c f).monitor = s.monitor := rfl
@[simp] theorem State.updLamp_lockouts (c : Chan) (f : LampRun → LampRun) : (s.updLamp c f).lockouts = s.lockouts := rfl
@[simp] theorem State.updLamp_meas (c : Chan) (f : LampRun → LampRun) : (s.updLamp c f).meas = s.meas := rfl
@[simp] theorem State.updLamp_mains (c : Chan) (f : LampRun → LampRun) : (s.updLamp c f).mains = s.mains := rfl
@[simp] theorem State.updLamp_lamps (c : Chan) (f : LampRun → LampRun) : (s.updLamp c f).lamps = upd s.lamps c f := rfl
@[simp] theorem State.updLamp_cores (c : Chan) (f : LampRun → LampRun) : (s.updLamp c f).cores = s.cores := rfl
@[simp] theorem State.updLamp_survey (c : Chan) (f : LampRun → LampRun) : (s.updLamp c f).survey = s.survey := rfl
@[simp] theorem State.updLamp_faults (c : Chan) (f : LampRun → LampRun) : (s.updLamp c f).faults = s.faults := rfl
@[simp] theorem State.updLamp_mode (c : Chan) (f : LampRun → LampRun) : (s.updLamp c f).mode = s.mode := rfl
@[simp] theorem State.updLamp_link (c : Chan) (f : LampRun → LampRun) : (s.updLamp c f).link = s.link := rfl
@[simp] theorem State.updLamp_store (c : Chan) (f : LampRun → LampRun) : (s.updLamp c f).store = s.store := rfl
@[simp] theorem State.updLamp_freeUses (c : Chan) (f : LampRun → LampRun) : (s.updLamp c f).freeUses = s.freeUses := rfl
@[simp] theorem State.updLamp_ev (c : Chan) (f : LampRun → LampRun) : (s.updLamp c f).ev = s.ev := rfl
@[simp] theorem State.updLamp_pending (c : Chan) (f : LampRun → LampRun) : (s.updLamp c f).pending = s.pending := rfl

/-! ### State.updCore -/

@[simp] theorem State.updCore_power (k : CoreId) (f : CoreRun → CoreRun) : (s.updCore k f).power = s.power := rfl
@[simp] theorem State.updCore_now (k : CoreId) (f : CoreRun → CoreRun) : (s.updCore k f).now = s.now := rfl
@[simp] theorem State.updCore_clock (k : CoreId) (f : CoreRun → CoreRun) : (s.updCore k f).clock = s.clock := rfl
@[simp] theorem State.updCore_edit (k : CoreId) (f : CoreRun → CoreRun) : (s.updCore k f).edit = s.edit := rfl
@[simp] theorem State.updCore_work (k : CoreId) (f : CoreRun → CoreRun) : (s.updCore k f).work = s.work := rfl
@[simp] theorem State.updCore_tod (k : CoreId) (f : CoreRun → CoreRun) : (s.updCore k f).tod = s.tod := rfl
@[simp] theorem State.updCore_inUse (k : CoreId) (f : CoreRun → CoreRun) : (s.updCore k f).inUse = s.inUse := rfl
@[simp] theorem State.updCore_pendingSet (k : CoreId) (f : CoreRun → CoreRun) : (s.updCore k f).pendingSet = s.pendingSet := rfl
@[simp] theorem State.updCore_staging (k : CoreId) (f : CoreRun → CoreRun) : (s.updCore k f).staging = s.staging := rfl
@[simp] theorem State.updCore_groups (k : CoreId) (f : CoreRun → CoreRun) : (s.updCore k f).groups = s.groups := rfl
@[simp] theorem State.updCore_engine (k : CoreId) (f : CoreRun → CoreRun) : (s.updCore k f).engine = s.engine := rfl
@[simp] theorem State.updCore_dets (k : CoreId) (f : CoreRun → CoreRun) : (s.updCore k f).dets = s.dets := rfl
@[simp] theorem State.updCore_occupied (k : CoreId) (f : CoreRun → CoreRun) : (s.updCore k f).occupied = s.occupied := rfl
@[simp] theorem State.updCore_relays (k : CoreId) (f : CoreRun → CoreRun) : (s.updCore k f).relays = s.relays := rfl
@[simp] theorem State.updCore_handed (k : CoreId) (f : CoreRun → CoreRun) : (s.updCore k f).handed = s.handed := rfl
@[simp] theorem State.updCore_smc (k : CoreId) (f : CoreRun → CoreRun) : (s.updCore k f).smc = s.smc := rfl
@[simp] theorem State.updCore_ftr (k : CoreId) (f : CoreRun → CoreRun) : (s.updCore k f).ftr = s.ftr := rfl
@[simp] theorem State.updCore_flashBus (k : CoreId) (f : CoreRun → CoreRun) : (s.updCore k f).flashBus = s.flashBus := rfl
@[simp] theorem State.updCore_monitor (k : CoreId) (f : CoreRun → CoreRun) : (s.updCore k f).monitor = s.monitor := rfl
@[simp] theorem State.updCore_lockouts (k : CoreId) (f : CoreRun → CoreRun) : (s.updCore k f).lockouts = s.lockouts := rfl
@[simp] theorem State.updCore_meas (k : CoreId) (f : CoreRun → CoreRun) : (s.updCore k f).meas = s.meas := rfl
@[simp] theorem State.updCore_mains (k : CoreId) (f : CoreRun → CoreRun) : (s.updCore k f).mains = s.mains := rfl
@[simp] theorem State.updCore_lamps (k : CoreId) (f : CoreRun → CoreRun) : (s.updCore k f).lamps = s.lamps := rfl
@[simp] theorem State.updCore_cores (k : CoreId) (f : CoreRun → CoreRun) : (s.updCore k f).cores = upd s.cores k f := rfl
@[simp] theorem State.updCore_survey (k : CoreId) (f : CoreRun → CoreRun) : (s.updCore k f).survey = s.survey := rfl
@[simp] theorem State.updCore_faults (k : CoreId) (f : CoreRun → CoreRun) : (s.updCore k f).faults = s.faults := rfl
@[simp] theorem State.updCore_mode (k : CoreId) (f : CoreRun → CoreRun) : (s.updCore k f).mode = s.mode := rfl
@[simp] theorem State.updCore_link (k : CoreId) (f : CoreRun → CoreRun) : (s.updCore k f).link = s.link := rfl
@[simp] theorem State.updCore_store (k : CoreId) (f : CoreRun → CoreRun) : (s.updCore k f).store = s.store := rfl
@[simp] theorem State.updCore_freeUses (k : CoreId) (f : CoreRun → CoreRun) : (s.updCore k f).freeUses = s.freeUses := rfl
@[simp] theorem State.updCore_ev (k : CoreId) (f : CoreRun → CoreRun) : (s.updCore k f).ev = s.ev := rfl
@[simp] theorem State.updCore_pending (k : CoreId) (f : CoreRun → CoreRun) : (s.updCore k f).pending = s.pending := rfl

/-! ### State.updDet -/

@[simp] theorem State.updDet_power (d : Det) (f : DetRun → DetRun) : (s.updDet d f).power = s.power := rfl
@[simp] theorem State.updDet_now (d : Det) (f : DetRun → DetRun) : (s.updDet d f).now = s.now := rfl
@[simp] theorem State.updDet_clock (d : Det) (f : DetRun → DetRun) : (s.updDet d f).clock = s.clock := rfl
@[simp] theorem State.updDet_edit (d : Det) (f : DetRun → DetRun) : (s.updDet d f).edit = s.edit := rfl
@[simp] theorem State.updDet_work (d : Det) (f : DetRun → DetRun) : (s.updDet d f).work = s.work := rfl
@[simp] theorem State.updDet_tod (d : Det) (f : DetRun → DetRun) : (s.updDet d f).tod = s.tod := rfl
@[simp] theorem State.updDet_inUse (d : Det) (f : DetRun → DetRun) : (s.updDet d f).inUse = s.inUse := rfl
@[simp] theorem State.updDet_pendingSet (d : Det) (f : DetRun → DetRun) : (s.updDet d f).pendingSet = s.pendingSet := rfl
@[simp] theorem State.updDet_staging (d : Det) (f : DetRun → DetRun) : (s.updDet d f).staging = s.staging := rfl
@[simp] theorem State.updDet_groups (d : Det) (f : DetRun → DetRun) : (s.updDet d f).groups = s.groups := rfl
@[simp] theorem State.updDet_engine (d : Det) (f : DetRun → DetRun) : (s.updDet d f).engine = s.engine := rfl
@[simp] theorem State.updDet_dets (d : Det) (f : DetRun → DetRun) : (s.updDet d f).dets = upd s.dets d f := rfl
@[simp] theorem State.updDet_occupied (d : Det) (f : DetRun → DetRun) : (s.updDet d f).occupied = s.occupied := rfl
@[simp] theorem State.updDet_relays (d : Det) (f : DetRun → DetRun) : (s.updDet d f).relays = s.relays := rfl
@[simp] theorem State.updDet_handed (d : Det) (f : DetRun → DetRun) : (s.updDet d f).handed = s.handed := rfl
@[simp] theorem State.updDet_smc (d : Det) (f : DetRun → DetRun) : (s.updDet d f).smc = s.smc := rfl
@[simp] theorem State.updDet_ftr (d : Det) (f : DetRun → DetRun) : (s.updDet d f).ftr = s.ftr := rfl
@[simp] theorem State.updDet_flashBus (d : Det) (f : DetRun → DetRun) : (s.updDet d f).flashBus = s.flashBus := rfl
@[simp] theorem State.updDet_monitor (d : Det) (f : DetRun → DetRun) : (s.updDet d f).monitor = s.monitor := rfl
@[simp] theorem State.updDet_lockouts (d : Det) (f : DetRun → DetRun) : (s.updDet d f).lockouts = s.lockouts := rfl
@[simp] theorem State.updDet_meas (d : Det) (f : DetRun → DetRun) : (s.updDet d f).meas = s.meas := rfl
@[simp] theorem State.updDet_mains (d : Det) (f : DetRun → DetRun) : (s.updDet d f).mains = s.mains := rfl
@[simp] theorem State.updDet_lamps (d : Det) (f : DetRun → DetRun) : (s.updDet d f).lamps = s.lamps := rfl
@[simp] theorem State.updDet_cores (d : Det) (f : DetRun → DetRun) : (s.updDet d f).cores = s.cores := rfl
@[simp] theorem State.updDet_survey (d : Det) (f : DetRun → DetRun) : (s.updDet d f).survey = s.survey := rfl
@[simp] theorem State.updDet_faults (d : Det) (f : DetRun → DetRun) : (s.updDet d f).faults = s.faults := rfl
@[simp] theorem State.updDet_mode (d : Det) (f : DetRun → DetRun) : (s.updDet d f).mode = s.mode := rfl
@[simp] theorem State.updDet_link (d : Det) (f : DetRun → DetRun) : (s.updDet d f).link = s.link := rfl
@[simp] theorem State.updDet_store (d : Det) (f : DetRun → DetRun) : (s.updDet d f).store = s.store := rfl
@[simp] theorem State.updDet_freeUses (d : Det) (f : DetRun → DetRun) : (s.updDet d f).freeUses = s.freeUses := rfl
@[simp] theorem State.updDet_ev (d : Det) (f : DetRun → DetRun) : (s.updDet d f).ev = s.ev := rfl
@[simp] theorem State.updDet_pending (d : Det) (f : DetRun → DetRun) : (s.updDet d f).pending = s.pending := rfl

/-! ### State.mark -/

@[simp] theorem State.mark_power : (s.mark).power = s.power := rfl
@[simp] theorem State.mark_now : (s.mark).now = s.now := rfl
@[simp] theorem State.mark_clock : (s.mark).clock = s.clock := rfl
@[simp] theorem State.mark_edit : (s.mark).edit = s.edit := rfl
@[simp] theorem State.mark_work : (s.mark).work = s.work := rfl
@[simp] theorem State.mark_tod : (s.mark).tod = s.tod := rfl
@[simp] theorem State.mark_inUse : (s.mark).inUse = s.inUse := rfl
@[simp] theorem State.mark_pendingSet : (s.mark).pendingSet = s.pendingSet := rfl
@[simp] theorem State.mark_staging : (s.mark).staging = s.staging := rfl
@[simp] theorem State.mark_groups : (s.mark).groups = s.groups := rfl
@[simp] theorem State.mark_engine : (s.mark).engine = s.engine := rfl
@[simp] theorem State.mark_dets : (s.mark).dets = s.dets := rfl
@[simp] theorem State.mark_occupied : (s.mark).occupied = s.occupied := rfl
@[simp] theorem State.mark_relays : (s.mark).relays = s.relays := rfl
@[simp] theorem State.mark_handed : (s.mark).handed = s.handed := rfl
@[simp] theorem State.mark_smc : (s.mark).smc = s.smc := rfl
@[simp] theorem State.mark_ftr : (s.mark).ftr = s.ftr := rfl
@[simp] theorem State.mark_flashBus : (s.mark).flashBus = s.flashBus := rfl
@[simp] theorem State.mark_monitor : (s.mark).monitor = s.monitor := rfl
@[simp] theorem State.mark_lockouts : (s.mark).lockouts = s.lockouts := rfl
@[simp] theorem State.mark_meas : (s.mark).meas = s.meas := rfl
@[simp] theorem State.mark_mains : (s.mark).mains = s.mains := rfl
@[simp] theorem State.mark_lamps : (s.mark).lamps = s.lamps := rfl
@[simp] theorem State.mark_cores : (s.mark).cores = s.cores := rfl
@[simp] theorem State.mark_survey : (s.mark).survey = s.survey := rfl
@[simp] theorem State.mark_faults : (s.mark).faults = s.faults := rfl
@[simp] theorem State.mark_mode : (s.mark).mode = s.mode := rfl
@[simp] theorem State.mark_link : (s.mark).link = s.link := rfl
@[simp] theorem State.mark_store : (s.mark).store = s.store := rfl
@[simp] theorem State.mark_freeUses : (s.mark).freeUses = s.freeUses := rfl
@[simp] theorem State.mark_ev : (s.mark).ev = { s.ev with dirty := true } := rfl
@[simp] theorem State.mark_pending : (s.mark).pending = s.pending := rfl

/-! ### State.occasion -/

@[simp] theorem State.occasion_power : (s.occasion).power = s.power := rfl
@[simp] theorem State.occasion_now : (s.occasion).now = s.now := rfl
@[simp] theorem State.occasion_clock : (s.occasion).clock = s.clock := rfl
@[simp] theorem State.occasion_edit : (s.occasion).edit = s.edit := rfl
@[simp] theorem State.occasion_work : (s.occasion).work = s.work := rfl
@[simp] theorem State.occasion_tod : (s.occasion).tod = s.tod := rfl
@[simp] theorem State.occasion_inUse : (s.occasion).inUse = s.inUse := rfl
@[simp] theorem State.occasion_pendingSet : (s.occasion).pendingSet = s.pendingSet := rfl
@[simp] theorem State.occasion_staging : (s.occasion).staging = s.staging := rfl
@[simp] theorem State.occasion_groups : (s.occasion).groups = s.groups := rfl
@[simp] theorem State.occasion_engine : (s.occasion).engine = s.engine := rfl
@[simp] theorem State.occasion_dets : (s.occasion).dets = s.dets := rfl
@[simp] theorem State.occasion_occupied : (s.occasion).occupied = s.occupied := rfl
@[simp] theorem State.occasion_relays : (s.occasion).relays = s.relays := rfl
@[simp] theorem State.occasion_handed : (s.occasion).handed = s.handed := rfl
@[simp] theorem State.occasion_smc : (s.occasion).smc = s.smc := rfl
@[simp] theorem State.occasion_ftr : (s.occasion).ftr = s.ftr := rfl
@[simp] theorem State.occasion_flashBus : (s.occasion).flashBus = s.flashBus := rfl
@[simp] theorem State.occasion_monitor : (s.occasion).monitor = s.monitor := rfl
@[simp] theorem State.occasion_lockouts : (s.occasion).lockouts = s.lockouts := rfl
@[simp] theorem State.occasion_meas : (s.occasion).meas = s.meas := rfl
@[simp] theorem State.occasion_mains : (s.occasion).mains = s.mains := rfl
@[simp] theorem State.occasion_lamps : (s.occasion).lamps = s.lamps := rfl
@[simp] theorem State.occasion_cores : (s.occasion).cores = s.cores := rfl
@[simp] theorem State.occasion_survey : (s.occasion).survey = s.survey := rfl
@[simp] theorem State.occasion_faults : (s.occasion).faults = s.faults := rfl
@[simp] theorem State.occasion_mode : (s.occasion).mode = s.mode := rfl
@[simp] theorem State.occasion_link : (s.occasion).link = s.link := rfl
@[simp] theorem State.occasion_store : (s.occasion).store = s.store := rfl
@[simp] theorem State.occasion_freeUses : (s.occasion).freeUses = s.freeUses := rfl
@[simp] theorem State.occasion_ev : (s.occasion).ev = { s.ev with dirty := true, occasion := s.ev.occasion || decide (s.engine.state = .resting) || decide (s.engine.state = .allRed) } := rfl
@[simp] theorem State.occasion_pending : (s.occasion).pending = s.pending := rfl

/-! ### State.free -/

@[simp] theorem State.free_power (g : Group) : (s.free g).power = s.power := rfl
@[simp] theorem State.free_now (g : Group) : (s.free g).now = s.now := rfl
@[simp] theorem State.free_clock (g : Group) : (s.free g).clock = s.clock := rfl
@[simp] theorem State.free_edit (g : Group) : (s.free g).edit = s.edit := rfl
@[simp] theorem State.free_work (g : Group) : (s.free g).work = s.work := rfl
@[simp] theorem State.free_tod (g : Group) : (s.free g).tod = s.tod := rfl
@[simp] theorem State.free_inUse (g : Group) : (s.free g).inUse = s.inUse := rfl
@[simp] theorem State.free_pendingSet (g : Group) : (s.free g).pendingSet = s.pendingSet := rfl
@[simp] theorem State.free_staging (g : Group) : (s.free g).staging = s.staging := rfl
@[simp] theorem State.free_groups (g : Group) : (s.free g).groups = s.groups := rfl
@[simp] theorem State.free_engine (g : Group) : (s.free g).engine = s.engine := rfl
@[simp] theorem State.free_dets (g : Group) : (s.free g).dets = s.dets := rfl
@[simp] theorem State.free_occupied (g : Group) : (s.free g).occupied = s.occupied := rfl
@[simp] theorem State.free_relays (g : Group) : (s.free g).relays = s.relays := rfl
@[simp] theorem State.free_handed (g : Group) : (s.free g).handed = s.handed := rfl
@[simp] theorem State.free_smc (g : Group) : (s.free g).smc = s.smc := rfl
@[simp] theorem State.free_ftr (g : Group) : (s.free g).ftr = s.ftr := rfl
@[simp] theorem State.free_flashBus (g : Group) : (s.free g).flashBus = s.flashBus := rfl
@[simp] theorem State.free_monitor (g : Group) : (s.free g).monitor = s.monitor := rfl
@[simp] theorem State.free_lockouts (g : Group) : (s.free g).lockouts = s.lockouts := rfl
@[simp] theorem State.free_meas (g : Group) : (s.free g).meas = s.meas := rfl
@[simp] theorem State.free_mains (g : Group) : (s.free g).mains = s.mains := rfl
@[simp] theorem State.free_lamps (g : Group) : (s.free g).lamps = s.lamps := rfl
@[simp] theorem State.free_cores (g : Group) : (s.free g).cores = s.cores := rfl
@[simp] theorem State.free_survey (g : Group) : (s.free g).survey = s.survey := rfl
@[simp] theorem State.free_faults (g : Group) : (s.free g).faults = s.faults := rfl
@[simp] theorem State.free_mode (g : Group) : (s.free g).mode = s.mode := rfl
@[simp] theorem State.free_link (g : Group) : (s.free g).link = s.link := rfl
@[simp] theorem State.free_store (g : Group) : (s.free g).store = s.store := rfl
@[simp] theorem State.free_freeUses (g : Group) : (s.free g).freeUses = s.freeUses := rfl
@[simp] theorem State.free_ev (g : Group) : (s.free g).ev = { s.ev with dirty := true, freed := g :: s.ev.freed, occasion := s.ev.occasion || decide (s.engine.state = .resting) || decide (s.engine.state = .allRed) } := rfl
@[simp] theorem State.free_pending (g : Group) : (s.free g).pending = s.pending := rfl

/-! ### State.wantSelection -/

@[simp] theorem State.wantSelection_power : (s.wantSelection).power = s.power := rfl
@[simp] theorem State.wantSelection_now : (s.wantSelection).now = s.now := rfl
@[simp] theorem State.wantSelection_clock : (s.wantSelection).clock = s.clock := rfl
@[simp] theorem State.wantSelection_edit : (s.wantSelection).edit = s.edit := rfl
@[simp] theorem State.wantSelection_work : (s.wantSelection).work = s.work := rfl
@[simp] theorem State.wantSelection_tod : (s.wantSelection).tod = s.tod := rfl
@[simp] theorem State.wantSelection_inUse : (s.wantSelection).inUse = s.inUse := rfl
@[simp] theorem State.wantSelection_pendingSet : (s.wantSelection).pendingSet = s.pendingSet := rfl
@[simp] theorem State.wantSelection_staging : (s.wantSelection).staging = s.staging := rfl
@[simp] theorem State.wantSelection_groups : (s.wantSelection).groups = s.groups := rfl
@[simp] theorem State.wantSelection_engine : (s.wantSelection).engine = s.engine := rfl
@[simp] theorem State.wantSelection_dets : (s.wantSelection).dets = s.dets := rfl
@[simp] theorem State.wantSelection_occupied : (s.wantSelection).occupied = s.occupied := rfl
@[simp] theorem State.wantSelection_relays : (s.wantSelection).relays = s.relays := rfl
@[simp] theorem State.wantSelection_handed : (s.wantSelection).handed = s.handed := rfl
@[simp] theorem State.wantSelection_smc : (s.wantSelection).smc = s.smc := rfl
@[simp] theorem State.wantSelection_ftr : (s.wantSelection).ftr = s.ftr := rfl
@[simp] theorem State.wantSelection_flashBus : (s.wantSelection).flashBus = s.flashBus := rfl
@[simp] theorem State.wantSelection_monitor : (s.wantSelection).monitor = s.monitor := rfl
@[simp] theorem State.wantSelection_lockouts : (s.wantSelection).lockouts = s.lockouts := rfl
@[simp] theorem State.wantSelection_meas : (s.wantSelection).meas = s.meas := rfl
@[simp] theorem State.wantSelection_mains : (s.wantSelection).mains = s.mains := rfl
@[simp] theorem State.wantSelection_lamps : (s.wantSelection).lamps = s.lamps := rfl
@[simp] theorem State.wantSelection_cores : (s.wantSelection).cores = s.cores := rfl
@[simp] theorem State.wantSelection_survey : (s.wantSelection).survey = s.survey := rfl
@[simp] theorem State.wantSelection_faults : (s.wantSelection).faults = s.faults := rfl
@[simp] theorem State.wantSelection_mode : (s.wantSelection).mode = s.mode := rfl
@[simp] theorem State.wantSelection_link : (s.wantSelection).link = s.link := rfl
@[simp] theorem State.wantSelection_store : (s.wantSelection).store = s.store := rfl
@[simp] theorem State.wantSelection_freeUses : (s.wantSelection).freeUses = s.freeUses := rfl
@[simp] theorem State.wantSelection_ev : (s.wantSelection).ev = { s.ev with select := true } := rfl
@[simp] theorem State.wantSelection_pending : (s.wantSelection).pending = s.pending := rfl

/-! ### State.ask -/

@[simp] theorem State.ask_power (r : ModeReq) : (s.ask r).power = s.power := rfl
@[simp] theorem State.ask_now (r : ModeReq) : (s.ask r).now = s.now := rfl
@[simp] theorem State.ask_clock (r : ModeReq) : (s.ask r).clock = s.clock := rfl
@[simp] theorem State.ask_edit (r : ModeReq) : (s.ask r).edit = s.edit := rfl
@[simp] theorem State.ask_work (r : ModeReq) : (s.ask r).work = s.work := rfl
@[simp] theorem State.ask_tod (r : ModeReq) : (s.ask r).tod = s.tod := rfl
@[simp] theorem State.ask_inUse (r : ModeReq) : (s.ask r).inUse = s.inUse := rfl
@[simp] theorem State.ask_pendingSet (r : ModeReq) : (s.ask r).pendingSet = s.pendingSet := rfl
@[simp] theorem State.ask_staging (r : ModeReq) : (s.ask r).staging = s.staging := rfl
@[simp] theorem State.ask_groups (r : ModeReq) : (s.ask r).groups = s.groups := rfl
@[simp] theorem State.ask_engine (r : ModeReq) : (s.ask r).engine = s.engine := rfl
@[simp] theorem State.ask_dets (r : ModeReq) : (s.ask r).dets = s.dets := rfl
@[simp] theorem State.ask_occupied (r : ModeReq) : (s.ask r).occupied = s.occupied := rfl
@[simp] theorem State.ask_relays (r : ModeReq) : (s.ask r).relays = s.relays := rfl
@[simp] theorem State.ask_handed (r : ModeReq) : (s.ask r).handed = s.handed := rfl
@[simp] theorem State.ask_smc (r : ModeReq) : (s.ask r).smc = s.smc := rfl
@[simp] theorem State.ask_ftr (r : ModeReq) : (s.ask r).ftr = s.ftr := rfl
@[simp] theorem State.ask_flashBus (r : ModeReq) : (s.ask r).flashBus = s.flashBus := rfl
@[simp] theorem State.ask_monitor (r : ModeReq) : (s.ask r).monitor = s.monitor := rfl
@[simp] theorem State.ask_lockouts (r : ModeReq) : (s.ask r).lockouts = s.lockouts := rfl
@[simp] theorem State.ask_meas (r : ModeReq) : (s.ask r).meas = s.meas := rfl
@[simp] theorem State.ask_mains (r : ModeReq) : (s.ask r).mains = s.mains := rfl
@[simp] theorem State.ask_lamps (r : ModeReq) : (s.ask r).lamps = s.lamps := rfl
@[simp] theorem State.ask_cores (r : ModeReq) : (s.ask r).cores = s.cores := rfl
@[simp] theorem State.ask_survey (r : ModeReq) : (s.ask r).survey = s.survey := rfl
@[simp] theorem State.ask_faults (r : ModeReq) : (s.ask r).faults = s.faults := rfl
@[simp] theorem State.ask_mode (r : ModeReq) : (s.ask r).mode = s.mode := rfl
@[simp] theorem State.ask_link (r : ModeReq) : (s.ask r).link = s.link := rfl
@[simp] theorem State.ask_store (r : ModeReq) : (s.ask r).store = s.store := rfl
@[simp] theorem State.ask_freeUses (r : ModeReq) : (s.ask r).freeUses = s.freeUses := rfl
@[simp] theorem State.ask_ev (r : ModeReq) : (s.ask r).ev = { s.ev with dirty := true, modeReqs := s.ev.modeReqs ++ [r] } := rfl
@[simp] theorem State.ask_pending (r : ModeReq) : (s.ask r).pending = s.pending := rfl

/-! ### State.setEdit -/

@[simp] theorem State.setEdit_power (f : Settings → Settings) : (s.setEdit f).power = s.power := rfl
@[simp] theorem State.setEdit_now (f : Settings → Settings) : (s.setEdit f).now = s.now := rfl
@[simp] theorem State.setEdit_clock (f : Settings → Settings) : (s.setEdit f).clock = s.clock := rfl
@[simp] theorem State.setEdit_edit (f : Settings → Settings) : (s.setEdit f).edit = f s.edit := rfl
@[simp] theorem State.setEdit_work (f : Settings → Settings) : (s.setEdit f).work = s.work := rfl
@[simp] theorem State.setEdit_tod (f : Settings → Settings) : (s.setEdit f).tod = s.tod := rfl
@[simp] theorem State.setEdit_inUse (f : Settings → Settings) : (s.setEdit f).inUse = s.inUse := rfl
@[simp] theorem State.setEdit_pendingSet (f : Settings → Settings) : (s.setEdit f).pendingSet = s.pendingSet := rfl
@[simp] theorem State.setEdit_staging (f : Settings → Settings) : (s.setEdit f).staging = s.staging := rfl
@[simp] theorem State.setEdit_groups (f : Settings → Settings) : (s.setEdit f).groups = s.groups := rfl
@[simp] theorem State.setEdit_engine (f : Settings → Settings) : (s.setEdit f).engine = s.engine := rfl
@[simp] theorem State.setEdit_dets (f : Settings → Settings) : (s.setEdit f).dets = s.dets := rfl
@[simp] theorem State.setEdit_occupied (f : Settings → Settings) : (s.setEdit f).occupied = s.occupied := rfl
@[simp] theorem State.setEdit_relays (f : Settings → Settings) : (s.setEdit f).relays = s.relays := rfl
@[simp] theorem State.setEdit_handed (f : Settings → Settings) : (s.setEdit f).handed = s.handed := rfl
@[simp] theorem State.setEdit_smc (f : Settings → Settings) : (s.setEdit f).smc = s.smc := rfl
@[simp] theorem State.setEdit_ftr (f : Settings → Settings) : (s.setEdit f).ftr = s.ftr := rfl
@[simp] theorem State.setEdit_flashBus (f : Settings → Settings) : (s.setEdit f).flashBus = s.flashBus := rfl
@[simp] theorem State.setEdit_monitor (f : Settings → Settings) : (s.setEdit f).monitor = s.monitor := rfl
@[simp] theorem State.setEdit_lockouts (f : Settings → Settings) : (s.setEdit f).lockouts = s.lockouts := rfl
@[simp] theorem State.setEdit_meas (f : Settings → Settings) : (s.setEdit f).meas = s.meas := rfl
@[simp] theorem State.setEdit_mains (f : Settings → Settings) : (s.setEdit f).mains = s.mains := rfl
@[simp] theorem State.setEdit_lamps (f : Settings → Settings) : (s.setEdit f).lamps = s.lamps := rfl
@[simp] theorem State.setEdit_cores (f : Settings → Settings) : (s.setEdit f).cores = s.cores := rfl
@[simp] theorem State.setEdit_survey (f : Settings → Settings) : (s.setEdit f).survey = s.survey := rfl
@[simp] theorem State.setEdit_faults (f : Settings → Settings) : (s.setEdit f).faults = s.faults := rfl
@[simp] theorem State.setEdit_mode (f : Settings → Settings) : (s.setEdit f).mode = s.mode := rfl
@[simp] theorem State.setEdit_link (f : Settings → Settings) : (s.setEdit f).link = s.link := rfl
@[simp] theorem State.setEdit_store (f : Settings → Settings) : (s.setEdit f).store = s.store := rfl
@[simp] theorem State.setEdit_freeUses (f : Settings → Settings) : (s.setEdit f).freeUses = s.freeUses := rfl
@[simp] theorem State.setEdit_ev (f : Settings → Settings) : (s.setEdit f).ev = s.ev := rfl
@[simp] theorem State.setEdit_pending (f : Settings → Settings) : (s.setEdit f).pending = s.pending := rfl

/-! ### State.setStaging -/

@[simp] theorem State.setStaging_power (f : PlanSet → PlanSet) : (s.setStaging f).power = s.power := rfl
@[simp] theorem State.setStaging_now (f : PlanSet → PlanSet) : (s.setStaging f).now = s.now := rfl
@[simp] theorem State.setStaging_clock (f : PlanSet → PlanSet) : (s.setStaging f).clock = s.clock := rfl
@[simp] theorem State.setStaging_edit (f : PlanSet → PlanSet) : (s.setStaging f).edit = s.edit := rfl
@[simp] theorem State.setStaging_work (f : PlanSet → PlanSet) : (s.setStaging f).work = s.work := rfl
@[simp] theorem State.setStaging_tod (f : PlanSet → PlanSet) : (s.setStaging f).tod = s.tod := rfl
@[simp] theorem State.setStaging_inUse (f : PlanSet → PlanSet) : (s.setStaging f).inUse = s.inUse := rfl
@[simp] theorem State.setStaging_pendingSet (f : PlanSet → PlanSet) : (s.setStaging f).pendingSet = s.pendingSet := rfl
@[simp] theorem State.setStaging_staging (f : PlanSet → PlanSet) : (s.setStaging f).staging = f s.staging := rfl
@[simp] theorem State.setStaging_groups (f : PlanSet → PlanSet) : (s.setStaging f).groups = s.groups := rfl
@[simp] theorem State.setStaging_engine (f : PlanSet → PlanSet) : (s.setStaging f).engine = s.engine := rfl
@[simp] theorem State.setStaging_dets (f : PlanSet → PlanSet) : (s.setStaging f).dets = s.dets := rfl
@[simp] theorem State.setStaging_occupied (f : PlanSet → PlanSet) : (s.setStaging f).occupied = s.occupied := rfl
@[simp] theorem State.setStaging_relays (f : PlanSet → PlanSet) : (s.setStaging f).relays = s.relays := rfl
@[simp] theorem State.setStaging_handed (f : PlanSet → PlanSet) : (s.setStaging f).handed = s.handed := rfl
@[simp] theorem State.setStaging_smc (f : PlanSet → PlanSet) : (s.setStaging f).smc = s.smc := rfl
@[simp] theorem State.setStaging_ftr (f : PlanSet → PlanSet) : (s.setStaging f).ftr = s.ftr := rfl
@[simp] theorem State.setStaging_flashBus (f : PlanSet → PlanSet) : (s.setStaging f).flashBus = s.flashBus := rfl
@[simp] theorem State.setStaging_monitor (f : PlanSet → PlanSet) : (s.setStaging f).monitor = s.monitor := rfl
@[simp] theorem State.setStaging_lockouts (f : PlanSet → PlanSet) : (s.setStaging f).lockouts = s.lockouts := rfl
@[simp] theorem State.setStaging_meas (f : PlanSet → PlanSet) : (s.setStaging f).meas = s.meas := rfl
@[simp] theorem State.setStaging_mains (f : PlanSet → PlanSet) : (s.setStaging f).mains = s.mains := rfl
@[simp] theorem State.setStaging_lamps (f : PlanSet → PlanSet) : (s.setStaging f).lamps = s.lamps := rfl
@[simp] theorem State.setStaging_cores (f : PlanSet → PlanSet) : (s.setStaging f).cores = s.cores := rfl
@[simp] theorem State.setStaging_survey (f : PlanSet → PlanSet) : (s.setStaging f).survey = s.survey := rfl
@[simp] theorem State.setStaging_faults (f : PlanSet → PlanSet) : (s.setStaging f).faults = s.faults := rfl
@[simp] theorem State.setStaging_mode (f : PlanSet → PlanSet) : (s.setStaging f).mode = s.mode := rfl
@[simp] theorem State.setStaging_link (f : PlanSet → PlanSet) : (s.setStaging f).link = s.link := rfl
@[simp] theorem State.setStaging_store (f : PlanSet → PlanSet) : (s.setStaging f).store = s.store := rfl
@[simp] theorem State.setStaging_freeUses (f : PlanSet → PlanSet) : (s.setStaging f).freeUses = s.freeUses := rfl
@[simp] theorem State.setStaging_ev (f : PlanSet → PlanSet) : (s.setStaging f).ev = s.ev := rfl
@[simp] theorem State.setStaging_pending (f : PlanSet → PlanSet) : (s.setStaging f).pending = s.pending := rfl

/-! ### State.putReply -/

@[simp] theorem State.putReply_power (r : Reply) : (s.putReply r).power = s.power := rfl
@[simp] theorem State.putReply_now (r : Reply) : (s.putReply r).now = s.now := rfl
@[simp] theorem State.putReply_clock (r : Reply) : (s.putReply r).clock = s.clock := rfl
@[simp] theorem State.putReply_edit (r : Reply) : (s.putReply r).edit = s.edit := rfl
@[simp] theorem State.putReply_work (r : Reply) : (s.putReply r).work = s.work := rfl
@[simp] theorem State.putReply_tod (r : Reply) : (s.putReply r).tod = s.tod := rfl
@[simp] theorem State.putReply_inUse (r : Reply) : (s.putReply r).inUse = s.inUse := rfl
@[simp] theorem State.putReply_pendingSet (r : Reply) : (s.putReply r).pendingSet = s.pendingSet := rfl
@[simp] theorem State.putReply_staging (r : Reply) : (s.putReply r).staging = s.staging := rfl
@[simp] theorem State.putReply_groups (r : Reply) : (s.putReply r).groups = s.groups := rfl
@[simp] theorem State.putReply_engine (r : Reply) : (s.putReply r).engine = s.engine := rfl
@[simp] theorem State.putReply_dets (r : Reply) : (s.putReply r).dets = s.dets := rfl
@[simp] theorem State.putReply_occupied (r : Reply) : (s.putReply r).occupied = s.occupied := rfl
@[simp] theorem State.putReply_relays (r : Reply) : (s.putReply r).relays = s.relays := rfl
@[simp] theorem State.putReply_handed (r : Reply) : (s.putReply r).handed = s.handed := rfl
@[simp] theorem State.putReply_smc (r : Reply) : (s.putReply r).smc = s.smc := rfl
@[simp] theorem State.putReply_ftr (r : Reply) : (s.putReply r).ftr = s.ftr := rfl
@[simp] theorem State.putReply_flashBus (r : Reply) : (s.putReply r).flashBus = s.flashBus := rfl
@[simp] theorem State.putReply_monitor (r : Reply) : (s.putReply r).monitor = s.monitor := rfl
@[simp] theorem State.putReply_lockouts (r : Reply) : (s.putReply r).lockouts = s.lockouts := rfl
@[simp] theorem State.putReply_meas (r : Reply) : (s.putReply r).meas = s.meas := rfl
@[simp] theorem State.putReply_mains (r : Reply) : (s.putReply r).mains = s.mains := rfl
@[simp] theorem State.putReply_lamps (r : Reply) : (s.putReply r).lamps = s.lamps := rfl
@[simp] theorem State.putReply_cores (r : Reply) : (s.putReply r).cores = s.cores := rfl
@[simp] theorem State.putReply_survey (r : Reply) : (s.putReply r).survey = s.survey := rfl
@[simp] theorem State.putReply_faults (r : Reply) : (s.putReply r).faults = s.faults := rfl
@[simp] theorem State.putReply_mode (r : Reply) : (s.putReply r).mode = s.mode := rfl
@[simp] theorem State.putReply_link (r : Reply) : (s.putReply r).link = { s.link with slot := some r } := rfl
@[simp] theorem State.putReply_store (r : Reply) : (s.putReply r).store = s.store := rfl
@[simp] theorem State.putReply_freeUses (r : Reply) : (s.putReply r).freeUses = s.freeUses := rfl
@[simp] theorem State.putReply_ev (r : Reply) : (s.putReply r).ev = s.ev := rfl
@[simp] theorem State.putReply_pending (r : Reply) : (s.putReply r).pending = s.pending := rfl

/-! ### State.setLine -/

@[simp] theorem State.setLine_power (b : Bool) : (s.setLine b).power = s.power := rfl
@[simp] theorem State.setLine_now (b : Bool) : (s.setLine b).now = s.now := rfl
@[simp] theorem State.setLine_clock (b : Bool) : (s.setLine b).clock = s.clock := rfl
@[simp] theorem State.setLine_edit (b : Bool) : (s.setLine b).edit = s.edit := rfl
@[simp] theorem State.setLine_work (b : Bool) : (s.setLine b).work = s.work := rfl
@[simp] theorem State.setLine_tod (b : Bool) : (s.setLine b).tod = s.tod := rfl
@[simp] theorem State.setLine_inUse (b : Bool) : (s.setLine b).inUse = s.inUse := rfl
@[simp] theorem State.setLine_pendingSet (b : Bool) : (s.setLine b).pendingSet = s.pendingSet := rfl
@[simp] theorem State.setLine_staging (b : Bool) : (s.setLine b).staging = s.staging := rfl
@[simp] theorem State.setLine_groups (b : Bool) : (s.setLine b).groups = s.groups := rfl
@[simp] theorem State.setLine_engine (b : Bool) : (s.setLine b).engine = s.engine := rfl
@[simp] theorem State.setLine_dets (b : Bool) : (s.setLine b).dets = s.dets := rfl
@[simp] theorem State.setLine_occupied (b : Bool) : (s.setLine b).occupied = s.occupied := rfl
@[simp] theorem State.setLine_relays (b : Bool) : (s.setLine b).relays = s.relays := rfl
@[simp] theorem State.setLine_handed (b : Bool) : (s.setLine b).handed = s.handed := rfl
@[simp] theorem State.setLine_smc (b : Bool) : (s.setLine b).smc = s.smc := rfl
@[simp] theorem State.setLine_ftr (b : Bool) : (s.setLine b).ftr = s.ftr := rfl
@[simp] theorem State.setLine_flashBus (b : Bool) : (s.setLine b).flashBus = s.flashBus := rfl
@[simp] theorem State.setLine_monitor (b : Bool) : (s.setLine b).monitor = s.monitor := rfl
@[simp] theorem State.setLine_lockouts (b : Bool) : (s.setLine b).lockouts = s.lockouts := rfl
@[simp] theorem State.setLine_meas (b : Bool) : (s.setLine b).meas = s.meas := rfl
@[simp] theorem State.setLine_mains (b : Bool) : (s.setLine b).mains = s.mains := rfl
@[simp] theorem State.setLine_lamps (b : Bool) : (s.setLine b).lamps = s.lamps := rfl
@[simp] theorem State.setLine_cores (b : Bool) : (s.setLine b).cores = s.cores := rfl
@[simp] theorem State.setLine_survey (b : Bool) : (s.setLine b).survey = { s.survey with lineClosed := b } := rfl
@[simp] theorem State.setLine_faults (b : Bool) : (s.setLine b).faults = s.faults := rfl
@[simp] theorem State.setLine_mode (b : Bool) : (s.setLine b).mode = s.mode := rfl
@[simp] theorem State.setLine_link (b : Bool) : (s.setLine b).link = s.link := rfl
@[simp] theorem State.setLine_store (b : Bool) : (s.setLine b).store = s.store := rfl
@[simp] theorem State.setLine_freeUses (b : Bool) : (s.setLine b).freeUses = s.freeUses := rfl
@[simp] theorem State.setLine_ev (b : Bool) : (s.setLine b).ev = s.ev := rfl
@[simp] theorem State.setLine_pending (b : Bool) : (s.setLine b).pending = s.pending := rfl

/-! ### State.setSmc -/

@[simp] theorem State.setSmc_power (f : SupplyRelay → SupplyRelay) : (s.setSmc f).power = s.power := rfl
@[simp] theorem State.setSmc_now (f : SupplyRelay → SupplyRelay) : (s.setSmc f).now = s.now := rfl
@[simp] theorem State.setSmc_clock (f : SupplyRelay → SupplyRelay) : (s.setSmc f).clock = s.clock := rfl
@[simp] theorem State.setSmc_edit (f : SupplyRelay → SupplyRelay) : (s.setSmc f).edit = s.edit := rfl
@[simp] theorem State.setSmc_work (f : SupplyRelay → SupplyRelay) : (s.setSmc f).work = s.work := rfl
@[simp] theorem State.setSmc_tod (f : SupplyRelay → SupplyRelay) : (s.setSmc f).tod = s.tod := rfl
@[simp] theorem State.setSmc_inUse (f : SupplyRelay → SupplyRelay) : (s.setSmc f).inUse = s.inUse := rfl
@[simp] theorem State.setSmc_pendingSet (f : SupplyRelay → SupplyRelay) : (s.setSmc f).pendingSet = s.pendingSet := rfl
@[simp] theorem State.setSmc_staging (f : SupplyRelay → SupplyRelay) : (s.setSmc f).staging = s.staging := rfl
@[simp] theorem State.setSmc_groups (f : SupplyRelay → SupplyRelay) : (s.setSmc f).groups = s.groups := rfl
@[simp] theorem State.setSmc_engine (f : SupplyRelay → SupplyRelay) : (s.setSmc f).engine = s.engine := rfl
@[simp] theorem State.setSmc_dets (f : SupplyRelay → SupplyRelay) : (s.setSmc f).dets = s.dets := rfl
@[simp] theorem State.setSmc_occupied (f : SupplyRelay → SupplyRelay) : (s.setSmc f).occupied = s.occupied := rfl
@[simp] theorem State.setSmc_relays (f : SupplyRelay → SupplyRelay) : (s.setSmc f).relays = s.relays := rfl
@[simp] theorem State.setSmc_handed (f : SupplyRelay → SupplyRelay) : (s.setSmc f).handed = s.handed := rfl
@[simp] theorem State.setSmc_smc (f : SupplyRelay → SupplyRelay) : (s.setSmc f).smc = f s.smc := rfl
@[simp] theorem State.setSmc_ftr (f : SupplyRelay → SupplyRelay) : (s.setSmc f).ftr = s.ftr := rfl
@[simp] theorem State.setSmc_flashBus (f : SupplyRelay → SupplyRelay) : (s.setSmc f).flashBus = s.flashBus := rfl
@[simp] theorem State.setSmc_monitor (f : SupplyRelay → SupplyRelay) : (s.setSmc f).monitor = s.monitor := rfl
@[simp] theorem State.setSmc_lockouts (f : SupplyRelay → SupplyRelay) : (s.setSmc f).lockouts = s.lockouts := rfl
@[simp] theorem State.setSmc_meas (f : SupplyRelay → SupplyRelay) : (s.setSmc f).meas = s.meas := rfl
@[simp] theorem State.setSmc_mains (f : SupplyRelay → SupplyRelay) : (s.setSmc f).mains = s.mains := rfl
@[simp] theorem State.setSmc_lamps (f : SupplyRelay → SupplyRelay) : (s.setSmc f).lamps = s.lamps := rfl
@[simp] theorem State.setSmc_cores (f : SupplyRelay → SupplyRelay) : (s.setSmc f).cores = s.cores := rfl
@[simp] theorem State.setSmc_survey (f : SupplyRelay → SupplyRelay) : (s.setSmc f).survey = s.survey := rfl
@[simp] theorem State.setSmc_faults (f : SupplyRelay → SupplyRelay) : (s.setSmc f).faults = s.faults := rfl
@[simp] theorem State.setSmc_mode (f : SupplyRelay → SupplyRelay) : (s.setSmc f).mode = s.mode := rfl
@[simp] theorem State.setSmc_link (f : SupplyRelay → SupplyRelay) : (s.setSmc f).link = s.link := rfl
@[simp] theorem State.setSmc_store (f : SupplyRelay → SupplyRelay) : (s.setSmc f).store = s.store := rfl
@[simp] theorem State.setSmc_freeUses (f : SupplyRelay → SupplyRelay) : (s.setSmc f).freeUses = s.freeUses := rfl
@[simp] theorem State.setSmc_ev (f : SupplyRelay → SupplyRelay) : (s.setSmc f).ev = s.ev := rfl
@[simp] theorem State.setSmc_pending (f : SupplyRelay → SupplyRelay) : (s.setSmc f).pending = s.pending := rfl

/-! ### State.setFtr -/

@[simp] theorem State.setFtr_power (f : SupplyRelay → SupplyRelay) : (s.setFtr f).power = s.power := rfl
@[simp] theorem State.setFtr_now (f : SupplyRelay → SupplyRelay) : (s.setFtr f).now = s.now := rfl
@[simp] theorem State.setFtr_clock (f : SupplyRelay → SupplyRelay) : (s.setFtr f).clock = s.clock := rfl
@[simp] theorem State.setFtr_edit (f : SupplyRelay → SupplyRelay) : (s.setFtr f).edit = s.edit := rfl
@[simp] theorem State.setFtr_work (f : SupplyRelay → SupplyRelay) : (s.setFtr f).work = s.work := rfl
@[simp] theorem State.setFtr_tod (f : SupplyRelay → SupplyRelay) : (s.setFtr f).tod = s.tod := rfl
@[simp] theorem State.setFtr_inUse (f : SupplyRelay → SupplyRelay) : (s.setFtr f).inUse = s.inUse := rfl
@[simp] theorem State.setFtr_pendingSet (f : SupplyRelay → SupplyRelay) : (s.setFtr f).pendingSet = s.pendingSet := rfl
@[simp] theorem State.setFtr_staging (f : SupplyRelay → SupplyRelay) : (s.setFtr f).staging = s.staging := rfl
@[simp] theorem State.setFtr_groups (f : SupplyRelay → SupplyRelay) : (s.setFtr f).groups = s.groups := rfl
@[simp] theorem State.setFtr_engine (f : SupplyRelay → SupplyRelay) : (s.setFtr f).engine = s.engine := rfl
@[simp] theorem State.setFtr_dets (f : SupplyRelay → SupplyRelay) : (s.setFtr f).dets = s.dets := rfl
@[simp] theorem State.setFtr_occupied (f : SupplyRelay → SupplyRelay) : (s.setFtr f).occupied = s.occupied := rfl
@[simp] theorem State.setFtr_relays (f : SupplyRelay → SupplyRelay) : (s.setFtr f).relays = s.relays := rfl
@[simp] theorem State.setFtr_handed (f : SupplyRelay → SupplyRelay) : (s.setFtr f).handed = s.handed := rfl
@[simp] theorem State.setFtr_smc (f : SupplyRelay → SupplyRelay) : (s.setFtr f).smc = s.smc := rfl
@[simp] theorem State.setFtr_ftr (f : SupplyRelay → SupplyRelay) : (s.setFtr f).ftr = f s.ftr := rfl
@[simp] theorem State.setFtr_flashBus (f : SupplyRelay → SupplyRelay) : (s.setFtr f).flashBus = s.flashBus := rfl
@[simp] theorem State.setFtr_monitor (f : SupplyRelay → SupplyRelay) : (s.setFtr f).monitor = s.monitor := rfl
@[simp] theorem State.setFtr_lockouts (f : SupplyRelay → SupplyRelay) : (s.setFtr f).lockouts = s.lockouts := rfl
@[simp] theorem State.setFtr_meas (f : SupplyRelay → SupplyRelay) : (s.setFtr f).meas = s.meas := rfl
@[simp] theorem State.setFtr_mains (f : SupplyRelay → SupplyRelay) : (s.setFtr f).mains = s.mains := rfl
@[simp] theorem State.setFtr_lamps (f : SupplyRelay → SupplyRelay) : (s.setFtr f).lamps = s.lamps := rfl
@[simp] theorem State.setFtr_cores (f : SupplyRelay → SupplyRelay) : (s.setFtr f).cores = s.cores := rfl
@[simp] theorem State.setFtr_survey (f : SupplyRelay → SupplyRelay) : (s.setFtr f).survey = s.survey := rfl
@[simp] theorem State.setFtr_faults (f : SupplyRelay → SupplyRelay) : (s.setFtr f).faults = s.faults := rfl
@[simp] theorem State.setFtr_mode (f : SupplyRelay → SupplyRelay) : (s.setFtr f).mode = s.mode := rfl
@[simp] theorem State.setFtr_link (f : SupplyRelay → SupplyRelay) : (s.setFtr f).link = s.link := rfl
@[simp] theorem State.setFtr_store (f : SupplyRelay → SupplyRelay) : (s.setFtr f).store = s.store := rfl
@[simp] theorem State.setFtr_freeUses (f : SupplyRelay → SupplyRelay) : (s.setFtr f).freeUses = s.freeUses := rfl
@[simp] theorem State.setFtr_ev (f : SupplyRelay → SupplyRelay) : (s.setFtr f).ev = s.ev := rfl
@[simp] theorem State.setFtr_pending (f : SupplyRelay → SupplyRelay) : (s.setFtr f).pending = s.pending := rfl

/-! ### State.dropSuspicion -/

@[simp] theorem State.dropSuspicion_power (k : Cond) : (s.dropSuspicion k).power = s.power := rfl
@[simp] theorem State.dropSuspicion_now (k : Cond) : (s.dropSuspicion k).now = s.now := rfl
@[simp] theorem State.dropSuspicion_clock (k : Cond) : (s.dropSuspicion k).clock = s.clock := rfl
@[simp] theorem State.dropSuspicion_edit (k : Cond) : (s.dropSuspicion k).edit = s.edit := rfl
@[simp] theorem State.dropSuspicion_work (k : Cond) : (s.dropSuspicion k).work = s.work := rfl
@[simp] theorem State.dropSuspicion_tod (k : Cond) : (s.dropSuspicion k).tod = s.tod := rfl
@[simp] theorem State.dropSuspicion_inUse (k : Cond) : (s.dropSuspicion k).inUse = s.inUse := rfl
@[simp] theorem State.dropSuspicion_pendingSet (k : Cond) : (s.dropSuspicion k).pendingSet = s.pendingSet := rfl
@[simp] theorem State.dropSuspicion_staging (k : Cond) : (s.dropSuspicion k).staging = s.staging := rfl
@[simp] theorem State.dropSuspicion_groups (k : Cond) : (s.dropSuspicion k).groups = s.groups := rfl
@[simp] theorem State.dropSuspicion_engine (k : Cond) : (s.dropSuspicion k).engine = s.engine := rfl
@[simp] theorem State.dropSuspicion_dets (k : Cond) : (s.dropSuspicion k).dets = s.dets := rfl
@[simp] theorem State.dropSuspicion_occupied (k : Cond) : (s.dropSuspicion k).occupied = s.occupied := rfl
@[simp] theorem State.dropSuspicion_relays (k : Cond) : (s.dropSuspicion k).relays = s.relays := rfl
@[simp] theorem State.dropSuspicion_handed (k : Cond) : (s.dropSuspicion k).handed = s.handed := rfl
@[simp] theorem State.dropSuspicion_smc (k : Cond) : (s.dropSuspicion k).smc = s.smc := rfl
@[simp] theorem State.dropSuspicion_ftr (k : Cond) : (s.dropSuspicion k).ftr = s.ftr := rfl
@[simp] theorem State.dropSuspicion_flashBus (k : Cond) : (s.dropSuspicion k).flashBus = s.flashBus := rfl
@[simp] theorem State.dropSuspicion_monitor (k : Cond) : (s.dropSuspicion k).monitor = s.monitor := rfl
@[simp] theorem State.dropSuspicion_lockouts (k : Cond) : (s.dropSuspicion k).lockouts = s.lockouts := rfl
@[simp] theorem State.dropSuspicion_meas (k : Cond) : (s.dropSuspicion k).meas = s.meas := rfl
@[simp] theorem State.dropSuspicion_mains (k : Cond) : (s.dropSuspicion k).mains = s.mains := rfl
@[simp] theorem State.dropSuspicion_lamps (k : Cond) : (s.dropSuspicion k).lamps = s.lamps := rfl
@[simp] theorem State.dropSuspicion_cores (k : Cond) : (s.dropSuspicion k).cores = s.cores := rfl
@[simp] theorem State.dropSuspicion_survey (k : Cond) : (s.dropSuspicion k).survey = s.survey := rfl
@[simp] theorem State.dropSuspicion_faults (k : Cond) : (s.dropSuspicion k).faults = { s.faults with suspicions := s.faults.suspicions.filter (·.key ≠ k) } := rfl
@[simp] theorem State.dropSuspicion_mode (k : Cond) : (s.dropSuspicion k).mode = s.mode := rfl
@[simp] theorem State.dropSuspicion_link (k : Cond) : (s.dropSuspicion k).link = s.link := rfl
@[simp] theorem State.dropSuspicion_store (k : Cond) : (s.dropSuspicion k).store = s.store := rfl
@[simp] theorem State.dropSuspicion_freeUses (k : Cond) : (s.dropSuspicion k).freeUses = s.freeUses := rfl
@[simp] theorem State.dropSuspicion_ev (k : Cond) : (s.dropSuspicion k).ev = s.ev := rfl
@[simp] theorem State.dropSuspicion_pending (k : Cond) : (s.dropSuspicion k).pending = s.pending := rfl

/-! ### State.setSuspicion -/

@[simp] theorem State.setSuspicion_power (r : Suspicion) : (s.setSuspicion r).power = s.power := rfl
@[simp] theorem State.setSuspicion_now (r : Suspicion) : (s.setSuspicion r).now = s.now := rfl
@[simp] theorem State.setSuspicion_clock (r : Suspicion) : (s.setSuspicion r).clock = s.clock := rfl
@[simp] theorem State.setSuspicion_edit (r : Suspicion) : (s.setSuspicion r).edit = s.edit := rfl
@[simp] theorem State.setSuspicion_work (r : Suspicion) : (s.setSuspicion r).work = s.work := rfl
@[simp] theorem State.setSuspicion_tod (r : Suspicion) : (s.setSuspicion r).tod = s.tod := rfl
@[simp] theorem State.setSuspicion_inUse (r : Suspicion) : (s.setSuspicion r).inUse = s.inUse := rfl
@[simp] theorem State.setSuspicion_pendingSet (r : Suspicion) : (s.setSuspicion r).pendingSet = s.pendingSet := rfl
@[simp] theorem State.setSuspicion_staging (r : Suspicion) : (s.setSuspicion r).staging = s.staging := rfl
@[simp] theorem State.setSuspicion_groups (r : Suspicion) : (s.setSuspicion r).groups = s.groups := rfl
@[simp] theorem State.setSuspicion_engine (r : Suspicion) : (s.setSuspicion r).engine = s.engine := rfl
@[simp] theorem State.setSuspicion_dets (r : Suspicion) : (s.setSuspicion r).dets = s.dets := rfl
@[simp] theorem State.setSuspicion_occupied (r : Suspicion) : (s.setSuspicion r).occupied = s.occupied := rfl
@[simp] theorem State.setSuspicion_relays (r : Suspicion) : (s.setSuspicion r).relays = s.relays := rfl
@[simp] theorem State.setSuspicion_handed (r : Suspicion) : (s.setSuspicion r).handed = s.handed := rfl
@[simp] theorem State.setSuspicion_smc (r : Suspicion) : (s.setSuspicion r).smc = s.smc := rfl
@[simp] theorem State.setSuspicion_ftr (r : Suspicion) : (s.setSuspicion r).ftr = s.ftr := rfl
@[simp] theorem State.setSuspicion_flashBus (r : Suspicion) : (s.setSuspicion r).flashBus = s.flashBus := rfl
@[simp] theorem State.setSuspicion_monitor (r : Suspicion) : (s.setSuspicion r).monitor = s.monitor := rfl
@[simp] theorem State.setSuspicion_lockouts (r : Suspicion) : (s.setSuspicion r).lockouts = s.lockouts := rfl
@[simp] theorem State.setSuspicion_meas (r : Suspicion) : (s.setSuspicion r).meas = s.meas := rfl
@[simp] theorem State.setSuspicion_mains (r : Suspicion) : (s.setSuspicion r).mains = s.mains := rfl
@[simp] theorem State.setSuspicion_lamps (r : Suspicion) : (s.setSuspicion r).lamps = s.lamps := rfl
@[simp] theorem State.setSuspicion_cores (r : Suspicion) : (s.setSuspicion r).cores = s.cores := rfl
@[simp] theorem State.setSuspicion_survey (r : Suspicion) : (s.setSuspicion r).survey = s.survey := rfl
@[simp] theorem State.setSuspicion_faults (r : Suspicion) : (s.setSuspicion r).faults = { s.faults with suspicions := s.faults.suspicions.map fun x => if x.key = r.key then r else x } := rfl
@[simp] theorem State.setSuspicion_mode (r : Suspicion) : (s.setSuspicion r).mode = s.mode := rfl
@[simp] theorem State.setSuspicion_link (r : Suspicion) : (s.setSuspicion r).link = s.link := rfl
@[simp] theorem State.setSuspicion_store (r : Suspicion) : (s.setSuspicion r).store = s.store := rfl
@[simp] theorem State.setSuspicion_freeUses (r : Suspicion) : (s.setSuspicion r).freeUses = s.freeUses := rfl
@[simp] theorem State.setSuspicion_ev (r : Suspicion) : (s.setSuspicion r).ev = s.ev := rfl
@[simp] theorem State.setSuspicion_pending (r : Suspicion) : (s.setSuspicion r).pending = s.pending := rfl

/-! ### State.judgeResponseActive -/

@[simp] theorem State.judgeResponseActive_power : (s.judgeResponseActive).power = s.power := rfl
@[simp] theorem State.judgeResponseActive_now : (s.judgeResponseActive).now = s.now := rfl
@[simp] theorem State.judgeResponseActive_clock : (s.judgeResponseActive).clock = s.clock := rfl
@[simp] theorem State.judgeResponseActive_edit : (s.judgeResponseActive).edit = s.edit := rfl
@[simp] theorem State.judgeResponseActive_work : (s.judgeResponseActive).work = s.work := rfl
@[simp] theorem State.judgeResponseActive_tod : (s.judgeResponseActive).tod = s.tod := rfl
@[simp] theorem State.judgeResponseActive_inUse : (s.judgeResponseActive).inUse = s.inUse := rfl
@[simp] theorem State.judgeResponseActive_pendingSet : (s.judgeResponseActive).pendingSet = s.pendingSet := rfl
@[simp] theorem State.judgeResponseActive_staging : (s.judgeResponseActive).staging = s.staging := rfl
@[simp] theorem State.judgeResponseActive_groups : (s.judgeResponseActive).groups = s.groups := rfl
@[simp] theorem State.judgeResponseActive_engine : (s.judgeResponseActive).engine = s.engine := rfl
@[simp] theorem State.judgeResponseActive_dets : (s.judgeResponseActive).dets = s.dets := rfl
@[simp] theorem State.judgeResponseActive_occupied : (s.judgeResponseActive).occupied = s.occupied := rfl
@[simp] theorem State.judgeResponseActive_relays : (s.judgeResponseActive).relays = s.relays := rfl
@[simp] theorem State.judgeResponseActive_handed : (s.judgeResponseActive).handed = s.handed := rfl
@[simp] theorem State.judgeResponseActive_smc : (s.judgeResponseActive).smc = s.smc := rfl
@[simp] theorem State.judgeResponseActive_ftr : (s.judgeResponseActive).ftr = s.ftr := rfl
@[simp] theorem State.judgeResponseActive_flashBus : (s.judgeResponseActive).flashBus = s.flashBus := rfl
@[simp] theorem State.judgeResponseActive_monitor : (s.judgeResponseActive).monitor = s.monitor := rfl
@[simp] theorem State.judgeResponseActive_lockouts : (s.judgeResponseActive).lockouts = s.lockouts := rfl
@[simp] theorem State.judgeResponseActive_meas : (s.judgeResponseActive).meas = s.meas := rfl
@[simp] theorem State.judgeResponseActive_mains : (s.judgeResponseActive).mains = s.mains := rfl
@[simp] theorem State.judgeResponseActive_lamps : (s.judgeResponseActive).lamps = s.lamps := rfl
@[simp] theorem State.judgeResponseActive_cores : (s.judgeResponseActive).cores = s.cores := rfl
@[simp] theorem State.judgeResponseActive_survey : (s.judgeResponseActive).survey = s.survey := rfl
@[simp] theorem State.judgeResponseActive_faults : (s.judgeResponseActive).faults = s.faults := rfl
@[simp] theorem State.judgeResponseActive_mode : (s.judgeResponseActive).mode = { s.mode with responseActive := s.faults.responses.toList.any junctionLevel } := rfl
@[simp] theorem State.judgeResponseActive_link : (s.judgeResponseActive).link = s.link := rfl
@[simp] theorem State.judgeResponseActive_store : (s.judgeResponseActive).store = s.store := rfl
@[simp] theorem State.judgeResponseActive_freeUses : (s.judgeResponseActive).freeUses = s.freeUses := rfl
@[simp] theorem State.judgeResponseActive_ev : (s.judgeResponseActive).ev = s.ev := rfl
@[simp] theorem State.judgeResponseActive_pending : (s.judgeResponseActive).pending = s.pending := rfl

/-! ### State.withdraw -/

@[simp] theorem State.withdraw_power (x : Subject) : (s.withdraw x).power = s.power := rfl
@[simp] theorem State.withdraw_now (x : Subject) : (s.withdraw x).now = s.now := rfl
@[simp] theorem State.withdraw_clock (x : Subject) : (s.withdraw x).clock = s.clock := rfl
@[simp] theorem State.withdraw_edit (x : Subject) : (s.withdraw x).edit = s.edit := rfl
@[simp] theorem State.withdraw_work (x : Subject) : (s.withdraw x).work = s.work := rfl
@[simp] theorem State.withdraw_tod (x : Subject) : (s.withdraw x).tod = s.tod := rfl
@[simp] theorem State.withdraw_inUse (x : Subject) : (s.withdraw x).inUse = s.inUse := rfl
@[simp] theorem State.withdraw_pendingSet (x : Subject) : (s.withdraw x).pendingSet = s.pendingSet := rfl
@[simp] theorem State.withdraw_staging (x : Subject) : (s.withdraw x).staging = s.staging := rfl
@[simp] theorem State.withdraw_groups (x : Subject) : (s.withdraw x).groups = s.groups := rfl
@[simp] theorem State.withdraw_engine (x : Subject) : (s.withdraw x).engine = s.engine := rfl
@[simp] theorem State.withdraw_dets (x : Subject) : (s.withdraw x).dets = s.dets := rfl
@[simp] theorem State.withdraw_occupied (x : Subject) : (s.withdraw x).occupied = s.occupied := rfl
@[simp] theorem State.withdraw_relays (x : Subject) : (s.withdraw x).relays = s.relays := rfl
@[simp] theorem State.withdraw_handed (x : Subject) : (s.withdraw x).handed = s.handed := rfl
@[simp] theorem State.withdraw_smc (x : Subject) : (s.withdraw x).smc = s.smc := rfl
@[simp] theorem State.withdraw_ftr (x : Subject) : (s.withdraw x).ftr = s.ftr := rfl
@[simp] theorem State.withdraw_flashBus (x : Subject) : (s.withdraw x).flashBus = s.flashBus := rfl
@[simp] theorem State.withdraw_monitor (x : Subject) : (s.withdraw x).monitor = s.monitor := rfl
@[simp] theorem State.withdraw_lockouts (x : Subject) : (s.withdraw x).lockouts = s.lockouts := rfl
@[simp] theorem State.withdraw_meas (x : Subject) : (s.withdraw x).meas = { s.meas with queue := s.meas.queue.filter (·.subject ≠ x) } := rfl
@[simp] theorem State.withdraw_mains (x : Subject) : (s.withdraw x).mains = s.mains := rfl
@[simp] theorem State.withdraw_lamps (x : Subject) : (s.withdraw x).lamps = s.lamps := rfl
@[simp] theorem State.withdraw_cores (x : Subject) : (s.withdraw x).cores = s.cores := rfl
@[simp] theorem State.withdraw_survey (x : Subject) : (s.withdraw x).survey = s.survey := rfl
@[simp] theorem State.withdraw_faults (x : Subject) : (s.withdraw x).faults = s.faults := rfl
@[simp] theorem State.withdraw_mode (x : Subject) : (s.withdraw x).mode = s.mode := rfl
@[simp] theorem State.withdraw_link (x : Subject) : (s.withdraw x).link = s.link := rfl
@[simp] theorem State.withdraw_store (x : Subject) : (s.withdraw x).store = s.store := rfl
@[simp] theorem State.withdraw_freeUses (x : Subject) : (s.withdraw x).freeUses = s.freeUses := rfl
@[simp] theorem State.withdraw_ev (x : Subject) : (s.withdraw x).ev = s.ev := rfl
@[simp] theorem State.withdraw_pending (x : Subject) : (s.withdraw x).pending = s.pending := rfl

/-! ### State.withdrawLeak -/

@[simp] theorem State.withdrawLeak_power : (s.withdrawLeak).power = s.power := rfl
@[simp] theorem State.withdrawLeak_now : (s.withdrawLeak).now = s.now := rfl
@[simp] theorem State.withdrawLeak_clock : (s.withdrawLeak).clock = s.clock := rfl
@[simp] theorem State.withdrawLeak_edit : (s.withdrawLeak).edit = s.edit := rfl
@[simp] theorem State.withdrawLeak_work : (s.withdrawLeak).work = s.work := rfl
@[simp] theorem State.withdrawLeak_tod : (s.withdrawLeak).tod = s.tod := rfl
@[simp] theorem State.withdrawLeak_inUse : (s.withdrawLeak).inUse = s.inUse := rfl
@[simp] theorem State.withdrawLeak_pendingSet : (s.withdrawLeak).pendingSet = s.pendingSet := rfl
@[simp] theorem State.withdrawLeak_staging : (s.withdrawLeak).staging = s.staging := rfl
@[simp] theorem State.withdrawLeak_groups : (s.withdrawLeak).groups = s.groups := rfl
@[simp] theorem State.withdrawLeak_engine : (s.withdrawLeak).engine = s.engine := rfl
@[simp] theorem State.withdrawLeak_dets : (s.withdrawLeak).dets = s.dets := rfl
@[simp] theorem State.withdrawLeak_occupied : (s.withdrawLeak).occupied = s.occupied := rfl
@[simp] theorem State.withdrawLeak_relays : (s.withdrawLeak).relays = s.relays := rfl
@[simp] theorem State.withdrawLeak_handed : (s.withdrawLeak).handed = s.handed := rfl
@[simp] theorem State.withdrawLeak_smc : (s.withdrawLeak).smc = s.smc := rfl
@[simp] theorem State.withdrawLeak_ftr : (s.withdrawLeak).ftr = s.ftr := rfl
@[simp] theorem State.withdrawLeak_flashBus : (s.withdrawLeak).flashBus = s.flashBus := rfl
@[simp] theorem State.withdrawLeak_monitor : (s.withdrawLeak).monitor = s.monitor := rfl
@[simp] theorem State.withdrawLeak_lockouts : (s.withdrawLeak).lockouts = s.lockouts := rfl
@[simp] theorem State.withdrawLeak_meas : (s.withdrawLeak).meas = { s.meas with queue := s.meas.queue.filter (·.subject.lamp) } := rfl
@[simp] theorem State.withdrawLeak_mains : (s.withdrawLeak).mains = s.mains := rfl
@[simp] theorem State.withdrawLeak_lamps : (s.withdrawLeak).lamps = s.lamps := rfl
@[simp] theorem State.withdrawLeak_cores : (s.withdrawLeak).cores = s.cores := rfl
@[simp] theorem State.withdrawLeak_survey : (s.withdrawLeak).survey = s.survey := rfl
@[simp] theorem State.withdrawLeak_faults : (s.withdrawLeak).faults = s.faults := rfl
@[simp] theorem State.withdrawLeak_mode : (s.withdrawLeak).mode = s.mode := rfl
@[simp] theorem State.withdrawLeak_link : (s.withdrawLeak).link = s.link := rfl
@[simp] theorem State.withdrawLeak_store : (s.withdrawLeak).store = s.store := rfl
@[simp] theorem State.withdrawLeak_freeUses : (s.withdrawLeak).freeUses = s.freeUses := rfl
@[simp] theorem State.withdrawLeak_ev : (s.withdrawLeak).ev = s.ev := rfl
@[simp] theorem State.withdrawLeak_pending : (s.withdrawLeak).pending = s.pending := rfl

/-! ### State.place -/

@[simp] theorem State.place_power (x : Subject) (r : ConvRange) : (s.place x r).power = s.power := rfl
@[simp] theorem State.place_now (x : Subject) (r : ConvRange) : (s.place x r).now = s.now := rfl
@[simp] theorem State.place_clock (x : Subject) (r : ConvRange) : (s.place x r).clock = s.clock := rfl
@[simp] theorem State.place_edit (x : Subject) (r : ConvRange) : (s.place x r).edit = s.edit := rfl
@[simp] theorem State.place_work (x : Subject) (r : ConvRange) : (s.place x r).work = s.work := rfl
@[simp] theorem State.place_tod (x : Subject) (r : ConvRange) : (s.place x r).tod = s.tod := rfl
@[simp] theorem State.place_inUse (x : Subject) (r : ConvRange) : (s.place x r).inUse = s.inUse := rfl
@[simp] theorem State.place_pendingSet (x : Subject) (r : ConvRange) : (s.place x r).pendingSet = s.pendingSet := rfl
@[simp] theorem State.place_staging (x : Subject) (r : ConvRange) : (s.place x r).staging = s.staging := rfl
@[simp] theorem State.place_groups (x : Subject) (r : ConvRange) : (s.place x r).groups = s.groups := rfl
@[simp] theorem State.place_engine (x : Subject) (r : ConvRange) : (s.place x r).engine = s.engine := rfl
@[simp] theorem State.place_dets (x : Subject) (r : ConvRange) : (s.place x r).dets = s.dets := rfl
@[simp] theorem State.place_occupied (x : Subject) (r : ConvRange) : (s.place x r).occupied = s.occupied := rfl
@[simp] theorem State.place_relays (x : Subject) (r : ConvRange) : (s.place x r).relays = s.relays := rfl
@[simp] theorem State.place_handed (x : Subject) (r : ConvRange) : (s.place x r).handed = s.handed := rfl
@[simp] theorem State.place_smc (x : Subject) (r : ConvRange) : (s.place x r).smc = s.smc := rfl
@[simp] theorem State.place_ftr (x : Subject) (r : ConvRange) : (s.place x r).ftr = s.ftr := rfl
@[simp] theorem State.place_flashBus (x : Subject) (r : ConvRange) : (s.place x r).flashBus = s.flashBus := rfl
@[simp] theorem State.place_monitor (x : Subject) (r : ConvRange) : (s.place x r).monitor = s.monitor := rfl
@[simp] theorem State.place_lockouts (x : Subject) (r : ConvRange) : (s.place x r).lockouts = s.lockouts := rfl
@[simp] theorem State.place_mains (x : Subject) (r : ConvRange) : (s.place x r).mains = s.mains := rfl
@[simp] theorem State.place_lamps (x : Subject) (r : ConvRange) : (s.place x r).lamps = s.lamps := rfl
@[simp] theorem State.place_cores (x : Subject) (r : ConvRange) : (s.place x r).cores = s.cores := rfl
@[simp] theorem State.place_survey (x : Subject) (r : ConvRange) : (s.place x r).survey = s.survey := rfl
@[simp] theorem State.place_faults (x : Subject) (r : ConvRange) : (s.place x r).faults = s.faults := rfl
@[simp] theorem State.place_mode (x : Subject) (r : ConvRange) : (s.place x r).mode = s.mode := rfl
@[simp] theorem State.place_link (x : Subject) (r : ConvRange) : (s.place x r).link = s.link := rfl
@[simp] theorem State.place_store (x : Subject) (r : ConvRange) : (s.place x r).store = s.store := rfl
@[simp] theorem State.place_freeUses (x : Subject) (r : ConvRange) : (s.place x r).freeUses = s.freeUses := rfl
@[simp] theorem State.place_ev (x : Subject) (r : ConvRange) : (s.place x r).ev = s.ev := rfl
@[simp] theorem State.place_pending (x : Subject) (r : ConvRange) : (s.place x r).pending = s.pending := rfl

/-! ### State.litRecords -/

@[simp] theorem State.litRecords_power (c : Chan) (f : Suspicion → Suspicion) : (s.litRecords c f).power = s.power := rfl
@[simp] theorem State.litRecords_now (c : Chan) (f : Suspicion → Suspicion) : (s.litRecords c f).now = s.now := rfl
@[simp] theorem State.litRecords_clock (c : Chan) (f : Suspicion → Suspicion) : (s.litRecords c f).clock = s.clock := rfl
@[simp] theorem State.litRecords_edit (c : Chan) (f : Suspicion → Suspicion) : (s.litRecords c f).edit = s.edit := rfl
@[simp] theorem State.litRecords_work (c : Chan) (f : Suspicion → Suspicion) : (s.litRecords c f).work = s.work := rfl
@[simp] theorem State.litRecords_tod (c : Chan) (f : Suspicion → Suspicion) : (s.litRecords c f).tod = s.tod := rfl
@[simp] theorem State.litRecords_inUse (c : Chan) (f : Suspicion → Suspicion) : (s.litRecords c f).inUse = s.inUse := rfl
@[simp] theorem State.litRecords_pendingSet (c : Chan) (f : Suspicion → Suspicion) : (s.litRecords c f).pendingSet = s.pendingSet := rfl
@[simp] theorem State.litRecords_staging (c : Chan) (f : Suspicion → Suspicion) : (s.litRecords c f).staging = s.staging := rfl
@[simp] theorem State.litRecords_groups (c : Chan) (f : Suspicion → Suspicion) : (s.litRecords c f).groups = s.groups := rfl
@[simp] theorem State.litRecords_engine (c : Chan) (f : Suspicion → Suspicion) : (s.litRecords c f).engine = s.engine := rfl
@[simp] theorem State.litRecords_dets (c : Chan) (f : Suspicion → Suspicion) : (s.litRecords c f).dets = s.dets := rfl
@[simp] theorem State.litRecords_occupied (c : Chan) (f : Suspicion → Suspicion) : (s.litRecords c f).occupied = s.occupied := rfl
@[simp] theorem State.litRecords_relays (c : Chan) (f : Suspicion → Suspicion) : (s.litRecords c f).relays = s.relays := rfl
@[simp] theorem State.litRecords_handed (c : Chan) (f : Suspicion → Suspicion) : (s.litRecords c f).handed = s.handed := rfl
@[simp] theorem State.litRecords_smc (c : Chan) (f : Suspicion → Suspicion) : (s.litRecords c f).smc = s.smc := rfl
@[simp] theorem State.litRecords_ftr (c : Chan) (f : Suspicion → Suspicion) : (s.litRecords c f).ftr = s.ftr := rfl
@[simp] theorem State.litRecords_flashBus (c : Chan) (f : Suspicion → Suspicion) : (s.litRecords c f).flashBus = s.flashBus := rfl
@[simp] theorem State.litRecords_monitor (c : Chan) (f : Suspicion → Suspicion) : (s.litRecords c f).monitor = s.monitor := rfl
@[simp] theorem State.litRecords_lockouts (c : Chan) (f : Suspicion → Suspicion) : (s.litRecords c f).lockouts = s.lockouts := rfl
@[simp] theorem State.litRecords_meas (c : Chan) (f : Suspicion → Suspicion) : (s.litRecords c f).meas = s.meas := rfl
@[simp] theorem State.litRecords_mains (c : Chan) (f : Suspicion → Suspicion) : (s.litRecords c f).mains = s.mains := rfl
@[simp] theorem State.litRecords_lamps (c : Chan) (f : Suspicion → Suspicion) : (s.litRecords c f).lamps = s.lamps := rfl
@[simp] theorem State.litRecords_cores (c : Chan) (f : Suspicion → Suspicion) : (s.litRecords c f).cores = s.cores := rfl
@[simp] theorem State.litRecords_survey (c : Chan) (f : Suspicion → Suspicion) : (s.litRecords c f).survey = s.survey := rfl
@[simp] theorem State.litRecords_mode (c : Chan) (f : Suspicion → Suspicion) : (s.litRecords c f).mode = s.mode := rfl
@[simp] theorem State.litRecords_link (c : Chan) (f : Suspicion → Suspicion) : (s.litRecords c f).link = s.link := rfl
@[simp] theorem State.litRecords_store (c : Chan) (f : Suspicion → Suspicion) : (s.litRecords c f).store = s.store := rfl
@[simp] theorem State.litRecords_freeUses (c : Chan) (f : Suspicion → Suspicion) : (s.litRecords c f).freeUses = s.freeUses := rfl
@[simp] theorem State.litRecords_ev (c : Chan) (f : Suspicion → Suspicion) : (s.litRecords c f).ev = s.ev := rfl
@[simp] theorem State.litRecords_pending (c : Chan) (f : Suspicion → Suspicion) : (s.litRecords c f).pending = s.pending := rfl

/-! ### State.darkEnd -/

@[simp] theorem State.darkEnd_power (c : Chan) : (s.darkEnd c).power = s.power := rfl
@[simp] theorem State.darkEnd_now (c : Chan) : (s.darkEnd c).now = s.now := rfl
@[simp] theorem State.darkEnd_clock (c : Chan) : (s.darkEnd c).clock = s.clock := rfl
@[simp] theorem State.darkEnd_edit (c : Chan) : (s.darkEnd c).edit = s.edit := rfl
@[simp] theorem State.darkEnd_work (c : Chan) : (s.darkEnd c).work = s.work := rfl
@[simp] theorem State.darkEnd_tod (c : Chan) : (s.darkEnd c).tod = s.tod := rfl
@[simp] theorem State.darkEnd_inUse (c : Chan) : (s.darkEnd c).inUse = s.inUse := rfl
@[simp] theorem State.darkEnd_pendingSet (c : Chan) : (s.darkEnd c).pendingSet = s.pendingSet := rfl
@[simp] theorem State.darkEnd_staging (c : Chan) : (s.darkEnd c).staging = s.staging := rfl
@[simp] theorem State.darkEnd_groups (c : Chan) : (s.darkEnd c).groups = s.groups := rfl
@[simp] theorem State.darkEnd_engine (c : Chan) : (s.darkEnd c).engine = s.engine := rfl
@[simp] theorem State.darkEnd_dets (c : Chan) : (s.darkEnd c).dets = s.dets := rfl
@[simp] theorem State.darkEnd_occupied (c : Chan) : (s.darkEnd c).occupied = s.occupied := rfl
@[simp] theorem State.darkEnd_relays (c : Chan) : (s.darkEnd c).relays = s.relays := rfl
@[simp] theorem State.darkEnd_handed (c : Chan) : (s.darkEnd c).handed = s.handed := rfl
@[simp] theorem State.darkEnd_smc (c : Chan) : (s.darkEnd c).smc = s.smc := rfl
@[simp] theorem State.darkEnd_ftr (c : Chan) : (s.darkEnd c).ftr = s.ftr := rfl
@[simp] theorem State.darkEnd_flashBus (c : Chan) : (s.darkEnd c).flashBus = s.flashBus := rfl
@[simp] theorem State.darkEnd_monitor (c : Chan) : (s.darkEnd c).monitor = s.monitor := rfl
@[simp] theorem State.darkEnd_lockouts (c : Chan) : (s.darkEnd c).lockouts = s.lockouts := rfl
@[simp] theorem State.darkEnd_meas (c : Chan) : (s.darkEnd c).meas = s.meas := rfl
@[simp] theorem State.darkEnd_mains (c : Chan) : (s.darkEnd c).mains = s.mains := rfl
@[simp] theorem State.darkEnd_lamps (c : Chan) : (s.darkEnd c).lamps = s.lamps := rfl
@[simp] theorem State.darkEnd_cores (c : Chan) : (s.darkEnd c).cores = s.cores := rfl
@[simp] theorem State.darkEnd_survey (c : Chan) : (s.darkEnd c).survey = s.survey := rfl
@[simp] theorem State.darkEnd_mode (c : Chan) : (s.darkEnd c).mode = s.mode := rfl
@[simp] theorem State.darkEnd_link (c : Chan) : (s.darkEnd c).link = s.link := rfl
@[simp] theorem State.darkEnd_store (c : Chan) : (s.darkEnd c).store = s.store := rfl
@[simp] theorem State.darkEnd_freeUses (c : Chan) : (s.darkEnd c).freeUses = s.freeUses := rfl
@[simp] theorem State.darkEnd_ev (c : Chan) : (s.darkEnd c).ev = s.ev := rfl
@[simp] theorem State.darkEnd_pending (c : Chan) : (s.darkEnd c).pending = s.pending := rfl

/-! ### State.markUnlearned -/

@[simp] theorem State.markUnlearned_power (c : Chan) : (s.markUnlearned c).power = s.power := rfl
@[simp] theorem State.markUnlearned_now (c : Chan) : (s.markUnlearned c).now = s.now := rfl
@[simp] theorem State.markUnlearned_clock (c : Chan) : (s.markUnlearned c).clock = s.clock := rfl
@[simp] theorem State.markUnlearned_edit (c : Chan) : (s.markUnlearned c).edit = s.edit := rfl
@[simp] theorem State.markUnlearned_work (c : Chan) : (s.markUnlearned c).work = s.work := rfl
@[simp] theorem State.markUnlearned_tod (c : Chan) : (s.markUnlearned c).tod = s.tod := rfl
@[simp] theorem State.markUnlearned_inUse (c : Chan) : (s.markUnlearned c).inUse = s.inUse := rfl
@[simp] theorem State.markUnlearned_pendingSet (c : Chan) : (s.markUnlearned c).pendingSet = s.pendingSet := rfl
@[simp] theorem State.markUnlearned_staging (c : Chan) : (s.markUnlearned c).staging = s.staging := rfl
@[simp] theorem State.markUnlearned_groups (c : Chan) : (s.markUnlearned c).groups = s.groups := rfl
@[simp] theorem State.markUnlearned_engine (c : Chan) : (s.markUnlearned c).engine = s.engine := rfl
@[simp] theorem State.markUnlearned_dets (c : Chan) : (s.markUnlearned c).dets = s.dets := rfl
@[simp] theorem State.markUnlearned_occupied (c : Chan) : (s.markUnlearned c).occupied = s.occupied := rfl
@[simp] theorem State.markUnlearned_relays (c : Chan) : (s.markUnlearned c).relays = s.relays := rfl
@[simp] theorem State.markUnlearned_handed (c : Chan) : (s.markUnlearned c).handed = s.handed := rfl
@[simp] theorem State.markUnlearned_smc (c : Chan) : (s.markUnlearned c).smc = s.smc := rfl
@[simp] theorem State.markUnlearned_ftr (c : Chan) : (s.markUnlearned c).ftr = s.ftr := rfl
@[simp] theorem State.markUnlearned_flashBus (c : Chan) : (s.markUnlearned c).flashBus = s.flashBus := rfl
@[simp] theorem State.markUnlearned_monitor (c : Chan) : (s.markUnlearned c).monitor = s.monitor := rfl
@[simp] theorem State.markUnlearned_lockouts (c : Chan) : (s.markUnlearned c).lockouts = s.lockouts := rfl
@[simp] theorem State.markUnlearned_meas (c : Chan) : (s.markUnlearned c).meas = s.meas := rfl
@[simp] theorem State.markUnlearned_mains (c : Chan) : (s.markUnlearned c).mains = s.mains := rfl
@[simp] theorem State.markUnlearned_lamps (c : Chan) : (s.markUnlearned c).lamps = s.lamps := rfl
@[simp] theorem State.markUnlearned_cores (c : Chan) : (s.markUnlearned c).cores = s.cores := rfl
@[simp] theorem State.markUnlearned_survey (c : Chan) : (s.markUnlearned c).survey = s.survey := rfl
@[simp] theorem State.markUnlearned_faults (c : Chan) : (s.markUnlearned c).faults = s.faults := rfl
@[simp] theorem State.markUnlearned_mode (c : Chan) : (s.markUnlearned c).mode = s.mode := rfl
@[simp] theorem State.markUnlearned_store (c : Chan) : (s.markUnlearned c).store = s.store := rfl
@[simp] theorem State.markUnlearned_freeUses (c : Chan) : (s.markUnlearned c).freeUses = s.freeUses := rfl
@[simp] theorem State.markUnlearned_ev (c : Chan) : (s.markUnlearned c).ev = s.ev := rfl
@[simp] theorem State.markUnlearned_pending (c : Chan) : (s.markUnlearned c).pending = s.pending := rfl

/-! ### State.stopTimers -/

@[simp] theorem State.stopTimers_power : (s.stopTimers).power = s.power := rfl
@[simp] theorem State.stopTimers_now : (s.stopTimers).now = s.now := rfl
@[simp] theorem State.stopTimers_clock : (s.stopTimers).clock = s.clock := rfl
@[simp] theorem State.stopTimers_edit : (s.stopTimers).edit = s.edit := rfl
@[simp] theorem State.stopTimers_work : (s.stopTimers).work = s.work := rfl
@[simp] theorem State.stopTimers_tod : (s.stopTimers).tod = s.tod := rfl
@[simp] theorem State.stopTimers_inUse : (s.stopTimers).inUse = s.inUse := rfl
@[simp] theorem State.stopTimers_pendingSet : (s.stopTimers).pendingSet = s.pendingSet := rfl
@[simp] theorem State.stopTimers_staging : (s.stopTimers).staging = s.staging := rfl
@[simp] theorem State.stopTimers_groups : (s.stopTimers).groups = s.groups := rfl
@[simp] theorem State.stopTimers_engine : (s.stopTimers).engine = { s.engine with greenTimer := none, maxTimer := none, gapTimer := none, gapped := false } := rfl
@[simp] theorem State.stopTimers_dets : (s.stopTimers).dets = s.dets := rfl
@[simp] theorem State.stopTimers_occupied : (s.stopTimers).occupied = s.occupied := rfl
@[simp] theorem State.stopTimers_relays : (s.stopTimers).relays = s.relays := rfl
@[simp] theorem State.stopTimers_handed : (s.stopTimers).handed = s.handed := rfl
@[simp] theorem State.stopTimers_smc : (s.stopTimers).smc = s.smc := rfl
@[simp] theorem State.stopTimers_ftr : (s.stopTimers).ftr = s.ftr := rfl
@[simp] theorem State.stopTimers_flashBus : (s.stopTimers).flashBus = s.flashBus := rfl
@[simp] theorem State.stopTimers_monitor : (s.stopTimers).monitor = s.monitor := rfl
@[simp] theorem State.stopTimers_lockouts : (s.stopTimers).lockouts = s.lockouts := rfl
@[simp] theorem State.stopTimers_meas : (s.stopTimers).meas = s.meas := rfl
@[simp] theorem State.stopTimers_mains : (s.stopTimers).mains = s.mains := rfl
@[simp] theorem State.stopTimers_lamps : (s.stopTimers).lamps = s.lamps := rfl
@[simp] theorem State.stopTimers_cores : (s.stopTimers).cores = s.cores := rfl
@[simp] theorem State.stopTimers_survey : (s.stopTimers).survey = s.survey := rfl
@[simp] theorem State.stopTimers_faults : (s.stopTimers).faults = s.faults := rfl
@[simp] theorem State.stopTimers_mode : (s.stopTimers).mode = s.mode := rfl
@[simp] theorem State.stopTimers_link : (s.stopTimers).link = s.link := rfl
@[simp] theorem State.stopTimers_store : (s.stopTimers).store = s.store := rfl
@[simp] theorem State.stopTimers_freeUses : (s.stopTimers).freeUses = s.freeUses := rfl
@[simp] theorem State.stopTimers_ev : (s.stopTimers).ev = { s.ev with maxOut := false } := rfl
@[simp] theorem State.stopTimers_pending : (s.stopTimers).pending = s.pending := rfl

/-! ### State.engineTo -/

@[simp] theorem State.engineTo_power (x : EngineState) : (s.engineTo x).power = s.power := rfl
@[simp] theorem State.engineTo_now (x : EngineState) : (s.engineTo x).now = s.now := rfl
@[simp] theorem State.engineTo_clock (x : EngineState) : (s.engineTo x).clock = s.clock := rfl
@[simp] theorem State.engineTo_edit (x : EngineState) : (s.engineTo x).edit = s.edit := rfl
@[simp] theorem State.engineTo_work (x : EngineState) : (s.engineTo x).work = s.work := rfl
@[simp] theorem State.engineTo_tod (x : EngineState) : (s.engineTo x).tod = s.tod := rfl
@[simp] theorem State.engineTo_inUse (x : EngineState) : (s.engineTo x).inUse = s.inUse := rfl
@[simp] theorem State.engineTo_pendingSet (x : EngineState) : (s.engineTo x).pendingSet = s.pendingSet := rfl
@[simp] theorem State.engineTo_staging (x : EngineState) : (s.engineTo x).staging = s.staging := rfl
@[simp] theorem State.engineTo_groups (x : EngineState) : (s.engineTo x).groups = s.groups := rfl
@[simp] theorem State.engineTo_engine (x : EngineState) : (s.engineTo x).engine = { s.engine with state := x } := rfl
@[simp] theorem State.engineTo_dets (x : EngineState) : (s.engineTo x).dets = s.dets := rfl
@[simp] theorem State.engineTo_occupied (x : EngineState) : (s.engineTo x).occupied = s.occupied := rfl
@[simp] theorem State.engineTo_relays (x : EngineState) : (s.engineTo x).relays = s.relays := rfl
@[simp] theorem State.engineTo_handed (x : EngineState) : (s.engineTo x).handed = s.handed := rfl
@[simp] theorem State.engineTo_smc (x : EngineState) : (s.engineTo x).smc = s.smc := rfl
@[simp] theorem State.engineTo_ftr (x : EngineState) : (s.engineTo x).ftr = s.ftr := rfl
@[simp] theorem State.engineTo_flashBus (x : EngineState) : (s.engineTo x).flashBus = s.flashBus := rfl
@[simp] theorem State.engineTo_monitor (x : EngineState) : (s.engineTo x).monitor = s.monitor := rfl
@[simp] theorem State.engineTo_lockouts (x : EngineState) : (s.engineTo x).lockouts = s.lockouts := rfl
@[simp] theorem State.engineTo_meas (x : EngineState) : (s.engineTo x).meas = s.meas := rfl
@[simp] theorem State.engineTo_mains (x : EngineState) : (s.engineTo x).mains = s.mains := rfl
@[simp] theorem State.engineTo_lamps (x : EngineState) : (s.engineTo x).lamps = s.lamps := rfl
@[simp] theorem State.engineTo_cores (x : EngineState) : (s.engineTo x).cores = s.cores := rfl
@[simp] theorem State.engineTo_survey (x : EngineState) : (s.engineTo x).survey = s.survey := rfl
@[simp] theorem State.engineTo_faults (x : EngineState) : (s.engineTo x).faults = s.faults := rfl
@[simp] theorem State.engineTo_mode (x : EngineState) : (s.engineTo x).mode = s.mode := rfl
@[simp] theorem State.engineTo_link (x : EngineState) : (s.engineTo x).link = s.link := rfl
@[simp] theorem State.engineTo_store (x : EngineState) : (s.engineTo x).store = s.store := rfl
@[simp] theorem State.engineTo_freeUses (x : EngineState) : (s.engineTo x).freeUses = s.freeUses := rfl
@[simp] theorem State.engineTo_ev (x : EngineState) : (s.engineTo x).ev = { s.ev with select := s.ev.select || decide (s.engine.state ≠ x) } := rfl
@[simp] theorem State.engineTo_pending (x : EngineState) : (s.engineTo x).pending = s.pending := rfl

/-! ### State.bar -/

@[simp] theorem State.bar_power : (s.bar).power = s.power := rfl
@[simp] theorem State.bar_now : (s.bar).now = s.now := rfl
@[simp] theorem State.bar_clock : (s.bar).clock = s.clock := rfl
@[simp] theorem State.bar_edit : (s.bar).edit = s.edit := rfl
@[simp] theorem State.bar_work : (s.bar).work = s.work := rfl
@[simp] theorem State.bar_tod : (s.bar).tod = s.tod := rfl
@[simp] theorem State.bar_inUse : (s.bar).inUse = s.inUse := rfl
@[simp] theorem State.bar_pendingSet : (s.bar).pendingSet = s.pendingSet := rfl
@[simp] theorem State.bar_staging : (s.bar).staging = s.staging := rfl
@[simp] theorem State.bar_groups : (s.bar).groups = s.groups := rfl
@[simp] theorem State.bar_engine : (s.bar).engine = { s.engine with barred := true } := rfl
@[simp] theorem State.bar_dets : (s.bar).dets = s.dets := rfl
@[simp] theorem State.bar_occupied : (s.bar).occupied = s.occupied := rfl
@[simp] theorem State.bar_relays : (s.bar).relays = s.relays := rfl
@[simp] theorem State.bar_handed : (s.bar).handed = s.handed := rfl
@[simp] theorem State.bar_smc : (s.bar).smc = s.smc := rfl
@[simp] theorem State.bar_ftr : (s.bar).ftr = s.ftr := rfl
@[simp] theorem State.bar_flashBus : (s.bar).flashBus = s.flashBus := rfl
@[simp] theorem State.bar_monitor : (s.bar).monitor = s.monitor := rfl
@[simp] theorem State.bar_lockouts : (s.bar).lockouts = s.lockouts := rfl
@[simp] theorem State.bar_meas : (s.bar).meas = s.meas := rfl
@[simp] theorem State.bar_mains : (s.bar).mains = s.mains := rfl
@[simp] theorem State.bar_lamps : (s.bar).lamps = s.lamps := rfl
@[simp] theorem State.bar_cores : (s.bar).cores = s.cores := rfl
@[simp] theorem State.bar_survey : (s.bar).survey = s.survey := rfl
@[simp] theorem State.bar_faults : (s.bar).faults = s.faults := rfl
@[simp] theorem State.bar_mode : (s.bar).mode = s.mode := rfl
@[simp] theorem State.bar_link : (s.bar).link = s.link := rfl
@[simp] theorem State.bar_store : (s.bar).store = s.store := rfl
@[simp] theorem State.bar_freeUses : (s.bar).freeUses = s.freeUses := rfl
@[simp] theorem State.bar_ev : (s.bar).ev = { s.ev with dirty := true } := rfl
@[simp] theorem State.bar_pending : (s.bar).pending = s.pending := rfl

/-! ### Engine.changeOver -/

@[simp] theorem Engine.changeOver_state (e : Engine) : e.changeOver.state = e.state := rfl
@[simp] theorem Engine.changeOver_plan (e : Engine) : e.changeOver.plan = e.plan := rfl
@[simp] theorem Engine.changeOver_record (e : Engine) : e.changeOver.record = e.record := rfl
@[simp] theorem Engine.changeOver_stage (e : Engine) : e.changeOver.stage = e.stage := rfl
@[simp] theorem Engine.changeOver_prevStage (e : Engine) : e.changeOver.prevStage = none := rfl
@[simp] theorem Engine.changeOver_gaining (e : Engine) : e.changeOver.gaining = .replicate 16 false := rfl
@[simp] theorem Engine.changeOver_greenTimer (e : Engine) : e.changeOver.greenTimer = e.greenTimer := rfl
@[simp] theorem Engine.changeOver_maxTimer (e : Engine) : e.changeOver.maxTimer = e.maxTimer := rfl
@[simp] theorem Engine.changeOver_gapTimer (e : Engine) : e.changeOver.gapTimer = e.gapTimer := rfl
@[simp] theorem Engine.changeOver_gapped (e : Engine) : e.changeOver.gapped = e.gapped := rfl
@[simp] theorem Engine.changeOver_demands (e : Engine) : e.changeOver.demands = e.demands := rfl
@[simp] theorem Engine.changeOver_source (e : Engine) : e.changeOver.source = e.source := rfl
@[simp] theorem Engine.changeOver_override (e : Engine) : e.changeOver.override = e.override := rfl
@[simp] theorem Engine.changeOver_tableResult (e : Engine) : e.changeOver.tableResult = e.tableResult := rfl
@[simp] theorem Engine.changeOver_change (e : Engine) : e.changeOver.change = e.change := rfl
@[simp] theorem Engine.changeOver_barred (e : Engine) : e.changeOver.barred = e.barred := rfl

/-! ### State.stopGap -/

@[simp] theorem State.stopGap_power : (s.stopGap).power = s.power := rfl
@[simp] theorem State.stopGap_now : (s.stopGap).now = s.now := rfl
@[simp] theorem State.stopGap_clock : (s.stopGap).clock = s.clock := rfl
@[simp] theorem State.stopGap_edit : (s.stopGap).edit = s.edit := rfl
@[simp] theorem State.stopGap_work : (s.stopGap).work = s.work := rfl
@[simp] theorem State.stopGap_tod : (s.stopGap).tod = s.tod := rfl
@[simp] theorem State.stopGap_inUse : (s.stopGap).inUse = s.inUse := rfl
@[simp] theorem State.stopGap_pendingSet : (s.stopGap).pendingSet = s.pendingSet := rfl
@[simp] theorem State.stopGap_staging : (s.stopGap).staging = s.staging := rfl
@[simp] theorem State.stopGap_groups : (s.stopGap).groups = s.groups := rfl
@[simp] theorem State.stopGap_engine : (s.stopGap).engine = { s.engine with gapTimer := none, gapped := false } := rfl
@[simp] theorem State.stopGap_dets : (s.stopGap).dets = s.dets := rfl
@[simp] theorem State.stopGap_occupied : (s.stopGap).occupied = s.occupied := rfl
@[simp] theorem State.stopGap_relays : (s.stopGap).relays = s.relays := rfl
@[simp] theorem State.stopGap_handed : (s.stopGap).handed = s.handed := rfl
@[simp] theorem State.stopGap_smc : (s.stopGap).smc = s.smc := rfl
@[simp] theorem State.stopGap_ftr : (s.stopGap).ftr = s.ftr := rfl
@[simp] theorem State.stopGap_flashBus : (s.stopGap).flashBus = s.flashBus := rfl
@[simp] theorem State.stopGap_monitor : (s.stopGap).monitor = s.monitor := rfl
@[simp] theorem State.stopGap_lockouts : (s.stopGap).lockouts = s.lockouts := rfl
@[simp] theorem State.stopGap_meas : (s.stopGap).meas = s.meas := rfl
@[simp] theorem State.stopGap_mains : (s.stopGap).mains = s.mains := rfl
@[simp] theorem State.stopGap_lamps : (s.stopGap).lamps = s.lamps := rfl
@[simp] theorem State.stopGap_cores : (s.stopGap).cores = s.cores := rfl
@[simp] theorem State.stopGap_survey : (s.stopGap).survey = s.survey := rfl
@[simp] theorem State.stopGap_faults : (s.stopGap).faults = s.faults := rfl
@[simp] theorem State.stopGap_mode : (s.stopGap).mode = s.mode := rfl
@[simp] theorem State.stopGap_link : (s.stopGap).link = s.link := rfl
@[simp] theorem State.stopGap_store : (s.stopGap).store = s.store := rfl
@[simp] theorem State.stopGap_freeUses : (s.stopGap).freeUses = s.freeUses := rfl
@[simp] theorem State.stopGap_ev : (s.stopGap).ev = s.ev := rfl
@[simp] theorem State.stopGap_pending : (s.stopGap).pending = s.pending := rfl

/-! ### State.setAspects -/

@[simp] theorem State.setAspects_power : (s.setAspects).power = s.power := by unfold State.setAspects; rfl
@[simp] theorem State.setAspects_now : (s.setAspects).now = s.now := by unfold State.setAspects; rfl
@[simp] theorem State.setAspects_clock : (s.setAspects).clock = s.clock := by unfold State.setAspects; rfl
@[simp] theorem State.setAspects_edit : (s.setAspects).edit = s.edit := by unfold State.setAspects; rfl
@[simp] theorem State.setAspects_work : (s.setAspects).work = s.work := by unfold State.setAspects; rfl
@[simp] theorem State.setAspects_tod : (s.setAspects).tod = s.tod := by unfold State.setAspects; rfl
@[simp] theorem State.setAspects_inUse : (s.setAspects).inUse = s.inUse := by unfold State.setAspects; rfl
@[simp] theorem State.setAspects_pendingSet : (s.setAspects).pendingSet = s.pendingSet := by unfold State.setAspects; rfl
@[simp] theorem State.setAspects_staging : (s.setAspects).staging = s.staging := by unfold State.setAspects; rfl
@[simp] theorem State.setAspects_groups : (s.setAspects).groups = s.groupsByMode := by unfold State.setAspects; rfl
@[simp] theorem State.setAspects_engine : (s.setAspects).engine = s.engine := by unfold State.setAspects; rfl
@[simp] theorem State.setAspects_dets : (s.setAspects).dets = s.dets := by unfold State.setAspects; rfl
@[simp] theorem State.setAspects_occupied : (s.setAspects).occupied = s.occupied := by unfold State.setAspects; rfl
@[simp] theorem State.setAspects_relays : (s.setAspects).relays = s.relays := by unfold State.setAspects; rfl
@[simp] theorem State.setAspects_handed : (s.setAspects).handed = s.handed := by unfold State.setAspects; rfl
@[simp] theorem State.setAspects_smc : (s.setAspects).smc = s.smc := by unfold State.setAspects; rfl
@[simp] theorem State.setAspects_ftr : (s.setAspects).ftr = s.ftr := by unfold State.setAspects; rfl
@[simp] theorem State.setAspects_flashBus : (s.setAspects).flashBus = s.flashBus := by unfold State.setAspects; rfl
@[simp] theorem State.setAspects_monitor : (s.setAspects).monitor = s.monitor := by unfold State.setAspects; rfl
@[simp] theorem State.setAspects_lockouts : (s.setAspects).lockouts = s.lockouts := by unfold State.setAspects; rfl
@[simp] theorem State.setAspects_meas : (s.setAspects).meas = s.meas := by unfold State.setAspects; rfl
@[simp] theorem State.setAspects_mains : (s.setAspects).mains = s.mains := by unfold State.setAspects; rfl
@[simp] theorem State.setAspects_lamps : (s.setAspects).lamps = s.lamps := by unfold State.setAspects; rfl
@[simp] theorem State.setAspects_cores : (s.setAspects).cores = s.cores := by unfold State.setAspects; rfl
@[simp] theorem State.setAspects_survey : (s.setAspects).survey = s.survey := by unfold State.setAspects; rfl
@[simp] theorem State.setAspects_faults : (s.setAspects).faults = s.faults := by unfold State.setAspects; rfl
@[simp] theorem State.setAspects_mode : (s.setAspects).mode = s.mode := by unfold State.setAspects; rfl
@[simp] theorem State.setAspects_link : (s.setAspects).link = s.link := by unfold State.setAspects; rfl
@[simp] theorem State.setAspects_store : (s.setAspects).store = s.store := by unfold State.setAspects; rfl
@[simp] theorem State.setAspects_freeUses : (s.setAspects).freeUses = s.freeUses := by unfold State.setAspects; rfl
@[simp] theorem State.setAspects_pending : (s.setAspects).pending = s.pending := by unfold State.setAspects; rfl

/-! ### State.clearGreens -/

@[simp] theorem State.clearGreens_power : (s.clearGreens).power = s.power := rfl
@[simp] theorem State.clearGreens_now : (s.clearGreens).now = s.now := rfl
@[simp] theorem State.clearGreens_clock : (s.clearGreens).clock = s.clock := rfl
@[simp] theorem State.clearGreens_edit : (s.clearGreens).edit = s.edit := rfl
@[simp] theorem State.clearGreens_work : (s.clearGreens).work = s.work := rfl
@[simp] theorem State.clearGreens_tod : (s.clearGreens).tod = s.tod := rfl
@[simp] theorem State.clearGreens_inUse : (s.clearGreens).inUse = s.inUse := rfl
@[simp] theorem State.clearGreens_pendingSet : (s.clearGreens).pendingSet = s.pendingSet := rfl
@[simp] theorem State.clearGreens_staging : (s.clearGreens).staging = s.staging := rfl
@[simp] theorem State.clearGreens_groups : (s.clearGreens).groups = s.groups.map fun (r : GroupRun) => { r with greenMark := false, lastGreenOff := none } := rfl
@[simp] theorem State.clearGreens_engine : (s.clearGreens).engine = s.engine := rfl
@[simp] theorem State.clearGreens_dets : (s.clearGreens).dets = s.dets := rfl
@[simp] theorem State.clearGreens_occupied : (s.clearGreens).occupied = s.occupied := rfl
@[simp] theorem State.clearGreens_relays : (s.clearGreens).relays = s.relays := rfl
@[simp] theorem State.clearGreens_handed : (s.clearGreens).handed = s.handed := rfl
@[simp] theorem State.clearGreens_smc : (s.clearGreens).smc = s.smc := rfl
@[simp] theorem State.clearGreens_ftr : (s.clearGreens).ftr = s.ftr := rfl
@[simp] theorem State.clearGreens_flashBus : (s.clearGreens).flashBus = s.flashBus := rfl
@[simp] theorem State.clearGreens_monitor : (s.clearGreens).monitor = s.monitor.map fun (m : MonGroup) => { m with lastEnd := none } := rfl
@[simp] theorem State.clearGreens_lockouts : (s.clearGreens).lockouts = s.lockouts := rfl
@[simp] theorem State.clearGreens_meas : (s.clearGreens).meas = s.meas := rfl
@[simp] theorem State.clearGreens_mains : (s.clearGreens).mains = s.mains := rfl
@[simp] theorem State.clearGreens_lamps : (s.clearGreens).lamps = s.lamps := rfl
@[simp] theorem State.clearGreens_cores : (s.clearGreens).cores = s.cores := rfl
@[simp] theorem State.clearGreens_survey : (s.clearGreens).survey = s.survey := rfl
@[simp] theorem State.clearGreens_faults : (s.clearGreens).faults = s.faults := rfl
@[simp] theorem State.clearGreens_mode : (s.clearGreens).mode = s.mode := rfl
@[simp] theorem State.clearGreens_link : (s.clearGreens).link = s.link := rfl
@[simp] theorem State.clearGreens_store : (s.clearGreens).store = s.store := rfl
@[simp] theorem State.clearGreens_freeUses : (s.clearGreens).freeUses = s.freeUses := rfl
@[simp] theorem State.clearGreens_ev : (s.clearGreens).ev = s.ev := rfl
@[simp] theorem State.clearGreens_pending : (s.clearGreens).pending = s.pending := rfl

/-! ### State.addJob -/

@[simp] theorem State.addJob_power (k : JobKind) (l : Timer) : (s.addJob k l).power = s.power := rfl
@[simp] theorem State.addJob_now (k : JobKind) (l : Timer) : (s.addJob k l).now = s.now := rfl
@[simp] theorem State.addJob_clock (k : JobKind) (l : Timer) : (s.addJob k l).clock = s.clock := rfl
@[simp] theorem State.addJob_edit (k : JobKind) (l : Timer) : (s.addJob k l).edit = s.edit := rfl
@[simp] theorem State.addJob_work (k : JobKind) (l : Timer) : (s.addJob k l).work = s.work := rfl
@[simp] theorem State.addJob_tod (k : JobKind) (l : Timer) : (s.addJob k l).tod = s.tod := rfl
@[simp] theorem State.addJob_inUse (k : JobKind) (l : Timer) : (s.addJob k l).inUse = s.inUse := rfl
@[simp] theorem State.addJob_pendingSet (k : JobKind) (l : Timer) : (s.addJob k l).pendingSet = s.pendingSet := rfl
@[simp] theorem State.addJob_staging (k : JobKind) (l : Timer) : (s.addJob k l).staging = s.staging := rfl
@[simp] theorem State.addJob_groups (k : JobKind) (l : Timer) : (s.addJob k l).groups = s.groups := rfl
@[simp] theorem State.addJob_engine (k : JobKind) (l : Timer) : (s.addJob k l).engine = s.engine := rfl
@[simp] theorem State.addJob_dets (k : JobKind) (l : Timer) : (s.addJob k l).dets = s.dets := rfl
@[simp] theorem State.addJob_occupied (k : JobKind) (l : Timer) : (s.addJob k l).occupied = s.occupied := rfl
@[simp] theorem State.addJob_relays (k : JobKind) (l : Timer) : (s.addJob k l).relays = s.relays := rfl
@[simp] theorem State.addJob_handed (k : JobKind) (l : Timer) : (s.addJob k l).handed = s.handed := rfl
@[simp] theorem State.addJob_smc (k : JobKind) (l : Timer) : (s.addJob k l).smc = s.smc := rfl
@[simp] theorem State.addJob_ftr (k : JobKind) (l : Timer) : (s.addJob k l).ftr = s.ftr := rfl
@[simp] theorem State.addJob_flashBus (k : JobKind) (l : Timer) : (s.addJob k l).flashBus = s.flashBus := rfl
@[simp] theorem State.addJob_monitor (k : JobKind) (l : Timer) : (s.addJob k l).monitor = s.monitor := rfl
@[simp] theorem State.addJob_lockouts (k : JobKind) (l : Timer) : (s.addJob k l).lockouts = s.lockouts := rfl
@[simp] theorem State.addJob_meas (k : JobKind) (l : Timer) : (s.addJob k l).meas = s.meas := rfl
@[simp] theorem State.addJob_mains (k : JobKind) (l : Timer) : (s.addJob k l).mains = s.mains := rfl
@[simp] theorem State.addJob_lamps (k : JobKind) (l : Timer) : (s.addJob k l).lamps = s.lamps := rfl
@[simp] theorem State.addJob_cores (k : JobKind) (l : Timer) : (s.addJob k l).cores = s.cores := rfl
@[simp] theorem State.addJob_survey (k : JobKind) (l : Timer) : (s.addJob k l).survey = s.survey := rfl
@[simp] theorem State.addJob_faults (k : JobKind) (l : Timer) : (s.addJob k l).faults = s.faults := rfl
@[simp] theorem State.addJob_mode (k : JobKind) (l : Timer) : (s.addJob k l).mode = s.mode := rfl
@[simp] theorem State.addJob_store (k : JobKind) (l : Timer) : (s.addJob k l).store = s.store := rfl
@[simp] theorem State.addJob_freeUses (k : JobKind) (l : Timer) : (s.addJob k l).freeUses = s.freeUses := rfl
@[simp] theorem State.addJob_ev (k : JobKind) (l : Timer) : (s.addJob k l).ev = s.ev := rfl
@[simp] theorem State.addJob_pending (k : JobKind) (l : Timer) : (s.addJob k l).pending = s.pending := rfl

/-! ### State.clearWaits -/

@[simp] theorem State.clearWaits_power : (s.clearWaits).power = s.power := rfl
@[simp] theorem State.clearWaits_now : (s.clearWaits).now = s.now := rfl
@[simp] theorem State.clearWaits_clock : (s.clearWaits).clock = s.clock := rfl
@[simp] theorem State.clearWaits_edit : (s.clearWaits).edit = s.edit := rfl
@[simp] theorem State.clearWaits_work : (s.clearWaits).work = s.work := rfl
@[simp] theorem State.clearWaits_tod : (s.clearWaits).tod = s.tod := rfl
@[simp] theorem State.clearWaits_inUse : (s.clearWaits).inUse = s.inUse := rfl
@[simp] theorem State.clearWaits_pendingSet : (s.clearWaits).pendingSet = s.pendingSet := rfl
@[simp] theorem State.clearWaits_staging : (s.clearWaits).staging = s.staging := rfl
@[simp] theorem State.clearWaits_groups : (s.clearWaits).groups = s.groups := rfl
@[simp] theorem State.clearWaits_engine : (s.clearWaits).engine = s.engine := rfl
@[simp] theorem State.clearWaits_dets : (s.clearWaits).dets = s.dets := rfl
@[simp] theorem State.clearWaits_occupied : (s.clearWaits).occupied = s.occupied := rfl
@[simp] theorem State.clearWaits_relays : (s.clearWaits).relays = s.relays := rfl
@[simp] theorem State.clearWaits_handed : (s.clearWaits).handed = s.handed := rfl
@[simp] theorem State.clearWaits_smc : (s.clearWaits).smc = s.smc := rfl
@[simp] theorem State.clearWaits_ftr : (s.clearWaits).ftr = s.ftr := rfl
@[simp] theorem State.clearWaits_flashBus : (s.clearWaits).flashBus = s.flashBus := rfl
@[simp] theorem State.clearWaits_monitor : (s.clearWaits).monitor = s.monitor := rfl
@[simp] theorem State.clearWaits_lockouts : (s.clearWaits).lockouts = s.lockouts := rfl
@[simp] theorem State.clearWaits_meas : (s.clearWaits).meas = s.meas := rfl
@[simp] theorem State.clearWaits_mains : (s.clearWaits).mains = s.mains := rfl
@[simp] theorem State.clearWaits_lamps : (s.clearWaits).lamps = s.lamps := rfl
@[simp] theorem State.clearWaits_survey : (s.clearWaits).survey = s.survey := rfl
@[simp] theorem State.clearWaits_faults : (s.clearWaits).faults = s.faults := rfl
@[simp] theorem State.clearWaits_mode : (s.clearWaits).mode = s.mode := rfl
@[simp] theorem State.clearWaits_link : (s.clearWaits).link = s.link := rfl
@[simp] theorem State.clearWaits_store : (s.clearWaits).store = s.store := rfl
@[simp] theorem State.clearWaits_freeUses : (s.clearWaits).freeUses = s.freeUses := rfl
@[simp] theorem State.clearWaits_ev : (s.clearWaits).ev = s.ev := rfl
@[simp] theorem State.clearWaits_pending : (s.clearWaits).pending = s.pending := rfl

/-! ### State.startLearning -/

@[simp] theorem State.startLearning_power : (s.startLearning).power = s.power := by unfold State.startLearning; rfl
@[simp] theorem State.startLearning_now : (s.startLearning).now = s.now := by unfold State.startLearning; rfl
@[simp] theorem State.startLearning_clock : (s.startLearning).clock = s.clock := by unfold State.startLearning; rfl
@[simp] theorem State.startLearning_edit : (s.startLearning).edit = s.edit := by unfold State.startLearning; rfl
@[simp] theorem State.startLearning_work : (s.startLearning).work = s.work := by unfold State.startLearning; rfl
@[simp] theorem State.startLearning_tod : (s.startLearning).tod = s.tod := by unfold State.startLearning; rfl
@[simp] theorem State.startLearning_inUse : (s.startLearning).inUse = s.inUse := by unfold State.startLearning; rfl
@[simp] theorem State.startLearning_pendingSet : (s.startLearning).pendingSet = s.pendingSet := by unfold State.startLearning; rfl
@[simp] theorem State.startLearning_staging : (s.startLearning).staging = s.staging := by unfold State.startLearning; rfl
@[simp] theorem State.startLearning_groups : (s.startLearning).groups = s.groups := by unfold State.startLearning; rfl
@[simp] theorem State.startLearning_engine : (s.startLearning).engine = s.engine := by unfold State.startLearning; rfl
@[simp] theorem State.startLearning_dets : (s.startLearning).dets = s.dets := by unfold State.startLearning; rfl
@[simp] theorem State.startLearning_occupied : (s.startLearning).occupied = s.occupied := by unfold State.startLearning; rfl
@[simp] theorem State.startLearning_relays : (s.startLearning).relays = s.relays := by unfold State.startLearning; rfl
@[simp] theorem State.startLearning_handed : (s.startLearning).handed = s.handed := by unfold State.startLearning; rfl
@[simp] theorem State.startLearning_smc : (s.startLearning).smc = s.smc := by unfold State.startLearning; rfl
@[simp] theorem State.startLearning_ftr : (s.startLearning).ftr = s.ftr := by unfold State.startLearning; rfl
@[simp] theorem State.startLearning_flashBus : (s.startLearning).flashBus = s.flashBus := by unfold State.startLearning; rfl
@[simp] theorem State.startLearning_monitor : (s.startLearning).monitor = s.monitor := by unfold State.startLearning; rfl
@[simp] theorem State.startLearning_lockouts : (s.startLearning).lockouts = s.lockouts := by unfold State.startLearning; rfl
@[simp] theorem State.startLearning_meas : (s.startLearning).meas = s.meas := by unfold State.startLearning; rfl
@[simp] theorem State.startLearning_mains : (s.startLearning).mains = s.mains := by unfold State.startLearning; rfl
@[simp] theorem State.startLearning_cores : (s.startLearning).cores = s.cores := by unfold State.startLearning; rfl
@[simp] theorem State.startLearning_survey : (s.startLearning).survey = s.survey := by unfold State.startLearning; rfl
@[simp] theorem State.startLearning_faults : (s.startLearning).faults = s.faults := by unfold State.startLearning; rfl
@[simp] theorem State.startLearning_mode : (s.startLearning).mode = s.mode := by unfold State.startLearning; rfl
@[simp] theorem State.startLearning_link : (s.startLearning).link = s.link := by unfold State.startLearning; rfl
@[simp] theorem State.startLearning_store : (s.startLearning).store = s.store := by unfold State.startLearning; rfl
@[simp] theorem State.startLearning_freeUses : (s.startLearning).freeUses = s.freeUses := by unfold State.startLearning; rfl
@[simp] theorem State.startLearning_ev : (s.startLearning).ev = s.ev := by unfold State.startLearning; rfl
@[simp] theorem State.startLearning_pending : (s.startLearning).pending = s.pending := by unfold State.startLearning; rfl

/-! ### State.beginPass -/

@[simp] theorem State.beginPass_power (full : Bool) : (s.beginPass full).power = s.power := by unfold State.beginPass; rfl
@[simp] theorem State.beginPass_now (full : Bool) : (s.beginPass full).now = s.now := by unfold State.beginPass; rfl
@[simp] theorem State.beginPass_clock (full : Bool) : (s.beginPass full).clock = s.clock := by unfold State.beginPass; rfl
@[simp] theorem State.beginPass_edit (full : Bool) : (s.beginPass full).edit = s.edit := by unfold State.beginPass; rfl
@[simp] theorem State.beginPass_work (full : Bool) : (s.beginPass full).work = s.work := by unfold State.beginPass; rfl
@[simp] theorem State.beginPass_tod (full : Bool) : (s.beginPass full).tod = s.tod := by unfold State.beginPass; rfl
@[simp] theorem State.beginPass_inUse (full : Bool) : (s.beginPass full).inUse = s.inUse := by unfold State.beginPass; rfl
@[simp] theorem State.beginPass_pendingSet (full : Bool) : (s.beginPass full).pendingSet = s.pendingSet := by unfold State.beginPass; rfl
@[simp] theorem State.beginPass_staging (full : Bool) : (s.beginPass full).staging = s.staging := by unfold State.beginPass; rfl
@[simp] theorem State.beginPass_groups (full : Bool) : (s.beginPass full).groups = s.groups := by unfold State.beginPass; rfl
@[simp] theorem State.beginPass_engine (full : Bool) : (s.beginPass full).engine = s.engine := by unfold State.beginPass; rfl
@[simp] theorem State.beginPass_dets (full : Bool) : (s.beginPass full).dets = s.dets := by unfold State.beginPass; rfl
@[simp] theorem State.beginPass_occupied (full : Bool) : (s.beginPass full).occupied = s.occupied := by unfold State.beginPass; rfl
@[simp] theorem State.beginPass_relays (full : Bool) : (s.beginPass full).relays = s.relays := by unfold State.beginPass; rfl
@[simp] theorem State.beginPass_handed (full : Bool) : (s.beginPass full).handed = s.handed := by unfold State.beginPass; rfl
@[simp] theorem State.beginPass_smc (full : Bool) : (s.beginPass full).smc = s.smc := by unfold State.beginPass; rfl
@[simp] theorem State.beginPass_ftr (full : Bool) : (s.beginPass full).ftr = s.ftr := by unfold State.beginPass; rfl
@[simp] theorem State.beginPass_flashBus (full : Bool) : (s.beginPass full).flashBus = s.flashBus := by unfold State.beginPass; rfl
@[simp] theorem State.beginPass_monitor (full : Bool) : (s.beginPass full).monitor = s.monitor := by unfold State.beginPass; rfl
@[simp] theorem State.beginPass_lockouts (full : Bool) : (s.beginPass full).lockouts = s.lockouts := by unfold State.beginPass; rfl
@[simp] theorem State.beginPass_meas (full : Bool) : (s.beginPass full).meas = s.meas := by unfold State.beginPass; rfl
@[simp] theorem State.beginPass_mains (full : Bool) : (s.beginPass full).mains = s.mains := by unfold State.beginPass; rfl
@[simp] theorem State.beginPass_lamps (full : Bool) : (s.beginPass full).lamps = s.lamps := by unfold State.beginPass; rfl
@[simp] theorem State.beginPass_faults (full : Bool) : (s.beginPass full).faults = s.faults := by unfold State.beginPass; rfl
@[simp] theorem State.beginPass_mode (full : Bool) : (s.beginPass full).mode = s.mode := by unfold State.beginPass; rfl
@[simp] theorem State.beginPass_link (full : Bool) : (s.beginPass full).link = s.link := by unfold State.beginPass; rfl
@[simp] theorem State.beginPass_store (full : Bool) : (s.beginPass full).store = s.store := by unfold State.beginPass; rfl
@[simp] theorem State.beginPass_freeUses (full : Bool) : (s.beginPass full).freeUses = s.freeUses := by unfold State.beginPass; rfl
@[simp] theorem State.beginPass_ev (full : Bool) : (s.beginPass full).ev = s.ev := by unfold State.beginPass; rfl
@[simp] theorem State.beginPass_pending (full : Bool) : (s.beginPass full).pending = s.pending := by unfold State.beginPass; rfl

/-! ### State.notify -/

@[simp] theorem State.notify_power (n : Notice) : (s.notify n).power = s.power := by unfold State.notify; split <;> rfl
@[simp] theorem State.notify_now (n : Notice) : (s.notify n).now = s.now := by unfold State.notify; split <;> rfl
@[simp] theorem State.notify_clock (n : Notice) : (s.notify n).clock = s.clock := by unfold State.notify; split <;> rfl
@[simp] theorem State.notify_edit (n : Notice) : (s.notify n).edit = s.edit := by unfold State.notify; split <;> rfl
@[simp] theorem State.notify_work (n : Notice) : (s.notify n).work = s.work := by unfold State.notify; split <;> rfl
@[simp] theorem State.notify_tod (n : Notice) : (s.notify n).tod = s.tod := by unfold State.notify; split <;> rfl
@[simp] theorem State.notify_inUse (n : Notice) : (s.notify n).inUse = s.inUse := by unfold State.notify; split <;> rfl
@[simp] theorem State.notify_pendingSet (n : Notice) : (s.notify n).pendingSet = s.pendingSet := by unfold State.notify; split <;> rfl
@[simp] theorem State.notify_staging (n : Notice) : (s.notify n).staging = s.staging := by unfold State.notify; split <;> rfl
@[simp] theorem State.notify_groups (n : Notice) : (s.notify n).groups = s.groups := by unfold State.notify; split <;> rfl
@[simp] theorem State.notify_engine (n : Notice) : (s.notify n).engine = s.engine := by unfold State.notify; split <;> rfl
@[simp] theorem State.notify_dets (n : Notice) : (s.notify n).dets = s.dets := by unfold State.notify; split <;> rfl
@[simp] theorem State.notify_occupied (n : Notice) : (s.notify n).occupied = s.occupied := by unfold State.notify; split <;> rfl
@[simp] theorem State.notify_relays (n : Notice) : (s.notify n).relays = s.relays := by unfold State.notify; split <;> rfl
@[simp] theorem State.notify_handed (n : Notice) : (s.notify n).handed = s.handed := by unfold State.notify; split <;> rfl
@[simp] theorem State.notify_smc (n : Notice) : (s.notify n).smc = s.smc := by unfold State.notify; split <;> rfl
@[simp] theorem State.notify_ftr (n : Notice) : (s.notify n).ftr = s.ftr := by unfold State.notify; split <;> rfl
@[simp] theorem State.notify_flashBus (n : Notice) : (s.notify n).flashBus = s.flashBus := by unfold State.notify; split <;> rfl
@[simp] theorem State.notify_monitor (n : Notice) : (s.notify n).monitor = s.monitor := by unfold State.notify; split <;> rfl
@[simp] theorem State.notify_lockouts (n : Notice) : (s.notify n).lockouts = s.lockouts := by unfold State.notify; split <;> rfl
@[simp] theorem State.notify_meas (n : Notice) : (s.notify n).meas = s.meas := by unfold State.notify; split <;> rfl
@[simp] theorem State.notify_mains (n : Notice) : (s.notify n).mains = s.mains := by unfold State.notify; split <;> rfl
@[simp] theorem State.notify_lamps (n : Notice) : (s.notify n).lamps = s.lamps := by unfold State.notify; split <;> rfl
@[simp] theorem State.notify_cores (n : Notice) : (s.notify n).cores = s.cores := by unfold State.notify; split <;> rfl
@[simp] theorem State.notify_survey (n : Notice) : (s.notify n).survey = s.survey := by unfold State.notify; split <;> rfl
@[simp] theorem State.notify_faults (n : Notice) : (s.notify n).faults = s.faults := by unfold State.notify; split <;> rfl
@[simp] theorem State.notify_mode (n : Notice) : (s.notify n).mode = s.mode := by unfold State.notify; split <;> rfl
@[simp] theorem State.notify_store (n : Notice) : (s.notify n).store = s.store := by unfold State.notify; split <;> rfl
@[simp] theorem State.notify_freeUses (n : Notice) : (s.notify n).freeUses = s.freeUses := by unfold State.notify; split <;> rfl
@[simp] theorem State.notify_ev (n : Notice) : (s.notify n).ev = s.ev := by unfold State.notify; split <;> rfl
@[simp] theorem State.notify_pending (n : Notice) : (s.notify n).pending = s.pending := by unfold State.notify; split <;> rfl

/-! ### State.placeStore -/

@[simp] theorem State.placeStore_power (k : ImageKind) : (s.placeStore k).power = s.power := by unfold State.placeStore; split <;> rfl
@[simp] theorem State.placeStore_now (k : ImageKind) : (s.placeStore k).now = s.now := by unfold State.placeStore; split <;> rfl
@[simp] theorem State.placeStore_clock (k : ImageKind) : (s.placeStore k).clock = s.clock := by unfold State.placeStore; split <;> rfl
@[simp] theorem State.placeStore_edit (k : ImageKind) : (s.placeStore k).edit = s.edit := by unfold State.placeStore; split <;> rfl
@[simp] theorem State.placeStore_work (k : ImageKind) : (s.placeStore k).work = s.work := by unfold State.placeStore; split <;> rfl
@[simp] theorem State.placeStore_tod (k : ImageKind) : (s.placeStore k).tod = s.tod := by unfold State.placeStore; split <;> rfl
@[simp] theorem State.placeStore_inUse (k : ImageKind) : (s.placeStore k).inUse = s.inUse := by unfold State.placeStore; split <;> rfl
@[simp] theorem State.placeStore_pendingSet (k : ImageKind) : (s.placeStore k).pendingSet = s.pendingSet := by unfold State.placeStore; split <;> rfl
@[simp] theorem State.placeStore_staging (k : ImageKind) : (s.placeStore k).staging = s.staging := by unfold State.placeStore; split <;> rfl
@[simp] theorem State.placeStore_groups (k : ImageKind) : (s.placeStore k).groups = s.groups := by unfold State.placeStore; split <;> rfl
@[simp] theorem State.placeStore_engine (k : ImageKind) : (s.placeStore k).engine = s.engine := by unfold State.placeStore; split <;> rfl
@[simp] theorem State.placeStore_dets (k : ImageKind) : (s.placeStore k).dets = s.dets := by unfold State.placeStore; split <;> rfl
@[simp] theorem State.placeStore_occupied (k : ImageKind) : (s.placeStore k).occupied = s.occupied := by unfold State.placeStore; split <;> rfl
@[simp] theorem State.placeStore_relays (k : ImageKind) : (s.placeStore k).relays = s.relays := by unfold State.placeStore; split <;> rfl
@[simp] theorem State.placeStore_handed (k : ImageKind) : (s.placeStore k).handed = s.handed := by unfold State.placeStore; split <;> rfl
@[simp] theorem State.placeStore_smc (k : ImageKind) : (s.placeStore k).smc = s.smc := by unfold State.placeStore; split <;> rfl
@[simp] theorem State.placeStore_ftr (k : ImageKind) : (s.placeStore k).ftr = s.ftr := by unfold State.placeStore; split <;> rfl
@[simp] theorem State.placeStore_flashBus (k : ImageKind) : (s.placeStore k).flashBus = s.flashBus := by unfold State.placeStore; split <;> rfl
@[simp] theorem State.placeStore_monitor (k : ImageKind) : (s.placeStore k).monitor = s.monitor := by unfold State.placeStore; split <;> rfl
@[simp] theorem State.placeStore_lockouts (k : ImageKind) : (s.placeStore k).lockouts = s.lockouts := by unfold State.placeStore; split <;> rfl
@[simp] theorem State.placeStore_meas (k : ImageKind) : (s.placeStore k).meas = s.meas := by unfold State.placeStore; split <;> rfl
@[simp] theorem State.placeStore_mains (k : ImageKind) : (s.placeStore k).mains = s.mains := by unfold State.placeStore; split <;> rfl
@[simp] theorem State.placeStore_lamps (k : ImageKind) : (s.placeStore k).lamps = s.lamps := by unfold State.placeStore; split <;> rfl
@[simp] theorem State.placeStore_cores (k : ImageKind) : (s.placeStore k).cores = s.cores := by unfold State.placeStore; split <;> rfl
@[simp] theorem State.placeStore_survey (k : ImageKind) : (s.placeStore k).survey = s.survey := by unfold State.placeStore; split <;> rfl
@[simp] theorem State.placeStore_faults (k : ImageKind) : (s.placeStore k).faults = s.faults := by unfold State.placeStore; split <;> rfl
@[simp] theorem State.placeStore_mode (k : ImageKind) : (s.placeStore k).mode = s.mode := by unfold State.placeStore; split <;> rfl
@[simp] theorem State.placeStore_link (k : ImageKind) : (s.placeStore k).link = s.link := by unfold State.placeStore; split <;> rfl
@[simp] theorem State.placeStore_freeUses (k : ImageKind) : (s.placeStore k).freeUses = s.freeUses := by unfold State.placeStore; split <;> rfl
@[simp] theorem State.placeStore_ev (k : ImageKind) : (s.placeStore k).ev = s.ev := by unfold State.placeStore; split <;> rfl
@[simp] theorem State.placeStore_pending (k : ImageKind) : (s.placeStore k).pending = s.pending := by unfold State.placeStore; split <;> rfl

/-! ### State.endJob -/

@[simp] theorem State.endJob_power (k : JobKind) (r : JobResult) (i : JobItems) : (s.endJob k r i).power = s.power := by unfold State.endJob; split <;> simp
@[simp] theorem State.endJob_now (k : JobKind) (r : JobResult) (i : JobItems) : (s.endJob k r i).now = s.now := by unfold State.endJob; split <;> simp
@[simp] theorem State.endJob_clock (k : JobKind) (r : JobResult) (i : JobItems) : (s.endJob k r i).clock = s.clock := by unfold State.endJob; split <;> simp
@[simp] theorem State.endJob_edit (k : JobKind) (r : JobResult) (i : JobItems) : (s.endJob k r i).edit = s.edit := by unfold State.endJob; split <;> simp
@[simp] theorem State.endJob_work (k : JobKind) (r : JobResult) (i : JobItems) : (s.endJob k r i).work = s.work := by unfold State.endJob; split <;> simp
@[simp] theorem State.endJob_tod (k : JobKind) (r : JobResult) (i : JobItems) : (s.endJob k r i).tod = s.tod := by unfold State.endJob; split <;> simp
@[simp] theorem State.endJob_inUse (k : JobKind) (r : JobResult) (i : JobItems) : (s.endJob k r i).inUse = s.inUse := by unfold State.endJob; split <;> simp
@[simp] theorem State.endJob_pendingSet (k : JobKind) (r : JobResult) (i : JobItems) : (s.endJob k r i).pendingSet = s.pendingSet := by unfold State.endJob; split <;> simp
@[simp] theorem State.endJob_staging (k : JobKind) (r : JobResult) (i : JobItems) : (s.endJob k r i).staging = s.staging := by unfold State.endJob; split <;> simp
@[simp] theorem State.endJob_groups (k : JobKind) (r : JobResult) (i : JobItems) : (s.endJob k r i).groups = s.groups := by unfold State.endJob; split <;> simp
@[simp] theorem State.endJob_engine (k : JobKind) (r : JobResult) (i : JobItems) : (s.endJob k r i).engine = s.engine := by unfold State.endJob; split <;> simp
@[simp] theorem State.endJob_dets (k : JobKind) (r : JobResult) (i : JobItems) : (s.endJob k r i).dets = s.dets := by unfold State.endJob; split <;> simp
@[simp] theorem State.endJob_occupied (k : JobKind) (r : JobResult) (i : JobItems) : (s.endJob k r i).occupied = s.occupied := by unfold State.endJob; split <;> simp
@[simp] theorem State.endJob_relays (k : JobKind) (r : JobResult) (i : JobItems) : (s.endJob k r i).relays = s.relays := by unfold State.endJob; split <;> simp
@[simp] theorem State.endJob_handed (k : JobKind) (r : JobResult) (i : JobItems) : (s.endJob k r i).handed = s.handed := by unfold State.endJob; split <;> simp
@[simp] theorem State.endJob_smc (k : JobKind) (r : JobResult) (i : JobItems) : (s.endJob k r i).smc = s.smc := by unfold State.endJob; split <;> simp
@[simp] theorem State.endJob_ftr (k : JobKind) (r : JobResult) (i : JobItems) : (s.endJob k r i).ftr = s.ftr := by unfold State.endJob; split <;> simp
@[simp] theorem State.endJob_flashBus (k : JobKind) (r : JobResult) (i : JobItems) : (s.endJob k r i).flashBus = s.flashBus := by unfold State.endJob; split <;> simp
@[simp] theorem State.endJob_monitor (k : JobKind) (r : JobResult) (i : JobItems) : (s.endJob k r i).monitor = s.monitor := by unfold State.endJob; split <;> simp
@[simp] theorem State.endJob_lockouts (k : JobKind) (r : JobResult) (i : JobItems) : (s.endJob k r i).lockouts = s.lockouts := by unfold State.endJob; split <;> simp
@[simp] theorem State.endJob_meas (k : JobKind) (r : JobResult) (i : JobItems) : (s.endJob k r i).meas = s.meas := by unfold State.endJob; split <;> simp
@[simp] theorem State.endJob_mains (k : JobKind) (r : JobResult) (i : JobItems) : (s.endJob k r i).mains = s.mains := by unfold State.endJob; split <;> simp
@[simp] theorem State.endJob_lamps (k : JobKind) (r : JobResult) (i : JobItems) : (s.endJob k r i).lamps = s.lamps := by unfold State.endJob; split <;> simp
@[simp] theorem State.endJob_cores (k : JobKind) (r : JobResult) (i : JobItems) : (s.endJob k r i).cores = s.cores := by unfold State.endJob; split <;> simp
@[simp] theorem State.endJob_survey (k : JobKind) (r : JobResult) (i : JobItems) : (s.endJob k r i).survey = s.survey := by unfold State.endJob; split <;> simp
@[simp] theorem State.endJob_faults (k : JobKind) (r : JobResult) (i : JobItems) : (s.endJob k r i).faults = s.faults := by unfold State.endJob; split <;> simp
@[simp] theorem State.endJob_mode (k : JobKind) (r : JobResult) (i : JobItems) : (s.endJob k r i).mode = s.mode := by unfold State.endJob; split <;> simp
@[simp] theorem State.endJob_store (k : JobKind) (r : JobResult) (i : JobItems) : (s.endJob k r i).store = s.store := by unfold State.endJob; split <;> simp
@[simp] theorem State.endJob_freeUses (k : JobKind) (r : JobResult) (i : JobItems) : (s.endJob k r i).freeUses = s.freeUses := by unfold State.endJob; split <;> simp
@[simp] theorem State.endJob_ev (k : JobKind) (r : JobResult) (i : JobItems) : (s.endJob k r i).ev = s.ev := by unfold State.endJob; split <;> simp
@[simp] theorem State.endJob_pending (k : JobKind) (r : JobResult) (i : JobItems) : (s.endJob k r i).pending = s.pending := by unfold State.endJob; split <;> simp

end Sys2Proof.Machine
end

