-- ==== Sys2Proof/Laws/FaultUnit.lean ====
section
/-! SUPPORT. What the operations of the fault confirmation unit can do (Machine/FaultUnit.lean): each is quiet, and each keeps the bounds of its lists. -/

namespace Sys2Proof.Machine

/-! ### The lists alone -/

/-- A change of records that keeps their keys keeps a list's keys. -/
theorem keys_map (l : List Suspicion) (f : Suspicion → Suspicion) (h : ∀ r, (f r).key = r.key) :
    (l.map f).map (·.key) = l.map (·.key) := by
  rw [List.map_map]; exact List.map_congr_left fun r _ => h r

/-- Changing suspicion records without their keys keeps the bounds. -/
theorem Faults.Sound.mapSuspicions {x : Faults} (h : x.Sound) (f : Suspicion → Suspicion) (k : ∀ r, (f r).key = r.key) :
    Faults.Sound { x with suspicions := x.suspicions.map f } := by
  obtain ⟨a, b, c, d, e, g⟩ := h
  refine ⟨a, ?_, ?_, ?_, e, g⟩
  · rw [keys_map _ _ k]; exact b
  · intro r hr
    obtain ⟨r', hr', rfl⟩ := List.mem_map.mp hr
    rw [k]; exact c r' hr'
  · rw [List.length_map]; exact d

/-- Removing suspicion records keeps the bounds. -/
theorem Faults.Sound.filterSuspicions {x : Faults} (h : x.Sound) (p : Suspicion → Bool) :
    Faults.Sound { x with suspicions := x.suspicions.filter p } := by
  obtain ⟨a, b, c, d, e, g⟩ := h
  exact ⟨a, b.sublist ((List.filter_sublist).map _), fun r hr => c r (List.mem_of_mem_filter hr),
    (List.length_filter_le _ _).trans d, e, g⟩

/-- Removing conditions from the confirmed set keeps the bounds. -/
theorem Faults.Sound.filterConfirmed {x : Faults} (h : x.Sound) (p : Cond → Bool) :
    Faults.Sound { x with confirmed := x.confirmed.filter p } := by
  obtain ⟨a, b, c, d, e, g⟩ := h
  exact ⟨a.filter _, b, fun r hr m => c r hr (List.mem_of_mem_filter m), d, e, g⟩

/-- A new alarm list within its bounds. -/
theorem Faults.Sound.withAlarms {x : Faults} (h : x.Sound) (l : List Alarm) (n : l.length ≤ 64)
    (k : (l.map (·.key)).Nodup) : Faults.Sound { x with alarms := l } :=
  ⟨h.1, h.2.1, h.2.2.1, h.2.2.2.1, n, k⟩

/-- Changing alarm records without their keys keeps the bounds. -/
theorem Faults.Sound.mapAlarms {x : Faults} (h : x.Sound) (f : Alarm → Alarm) (k : ∀ r, (f r).key = r.key) :
    Faults.Sound { x with alarms := x.alarms.map f } := by
  refine h.withAlarms _ (by rw [List.length_map]; exact h.2.2.2.2.1) ?_
  have e : (x.alarms.map f).map (·.key) = x.alarms.map (·.key) := by
    rw [List.map_map]; exact List.map_congr_left fun r _ => k r
  rw [e]; exact h.2.2.2.2.2

variable (s : State)

/-! ### Inhibit reasons and group patterns -/

/-- An inhibit reason changes a group's record and may leave work or an occasion. -/
theorem State.inhibit_eq (g : Group) (f : GroupRun → GroupRun) :
    ∃ e, s.inhibit g f = { s with groups := upd s.groups g f, ev := e } := by
  unfold State.inhibit
  dsimp only
  split
  · exact ⟨_, rfl⟩
  · split
    · exact ⟨_, rfl⟩
    · exact ⟨_, rfl⟩

/-- An inhibit reason other than GREEN_UNAVAILABLE. -/
theorem Quiet.inhibit (g : Group) (f : GroupRun → GroupRun)
    (h : ∀ r, ∃ a b, f r = { r with conflictRedOut := a, hold := b }) : Quiet s (s.inhibit g f) := by
  obtain ⟨e, he⟩ := s.inhibit_eq g f
  rw [he]
  refine (Quiet.ofGroups s (upd s.groups g f) ?_ ?_).trans (Quiet.ofEv _ _)
  · intro d
    rw [upd_get]
    split
    · obtain ⟨a, b, e⟩ := h s.groups[d]
      exact ⟨a, b, _, e⟩
    · exact ⟨_, _, _, rfl⟩
  · intro d
    rw [upd_get]
    split
    · obtain ⟨a, b, e⟩ := h s.groups[d]
      rw [e]
    · rfl

theorem Quiet.setHold (g : Group) (b : Bool) : Quiet s (s.setHold g b) :=
  Quiet.inhibit s g _ fun _ => ⟨_, _, rfl⟩

theorem Quiet.judgeConflictRedOut : Quiet s s.judgeConflictRedOut :=
  Quiet.each (fun _ t => Quiet.inhibit t _ _ fun _ => ⟨_, _, rfl⟩) _ s

theorem Quiet.reform (g : Group) : Quiet s (s.reform g) := by
  unfold State.reform
  dsimp only
  split
  · exact .refl s
  · have h := (Quiet.ofFaults s { s.faults with
      patterns := s.faults.patterns.set g (s.patternOf g)
      responses := s.faults.responses.set g (s.work.respOf (s.patternOf g)).response } id).trans
        (Quiet.setHold _ g (decide ((s.work.respOf (s.patternOf g)).response = .holdGroup)))
    split
    · exact h.trans (Quiet.ask _ _)
    · exact h

theorem Quiet.judgeResponseActive : Quiet s s.judgeResponseActive := Quiet.ofResponseActive s _

theorem Quiet.reformAll : Quiet s s.reformAll :=
  (Quiet.each (fun g t => Quiet.reform t g) allGroups s).trans (Quiet.judgeResponseActive _)

theorem Quiet.concerned (k : Cond) : Quiet s (s.concerned k) := by
  have level : ∀ t : State, Quiet t (match k.source with
      | .core c => if k.kind.insulation then
          t.updCore c fun r => { r with hist := { r.hist with level := t.levelOf c } } else t
      | _ => t) := by
    intro t
    split
    · split
      · exact Quiet.updCore t _ _ fun _ => id
      · exact .refl t
    · exact .refl t
  have pattern : ∀ t : State, Quiet t (if k.kind.flagged then t.reformAll else t) :=
    fun t => .ite (.reformAll t) (.refl t)
  have red : ∀ t : State, Quiet t (if k.kind = .redOut then t.judgeConflictRedOut else t) :=
    fun t => .ite (.judgeConflictRedOut t) (.refl t)
  exact ((level s).trans (pattern _)).trans (red _)

/-! ### The alarm list (R163, R164) -/

theorem Quiet.enterAlarm (k : Cond) (tag : ConfTag) : Quiet s (s.enterAlarm k tag) := by
  unfold State.enterAlarm
  dsimp only
  split
  · next a ha =>
    have hk : a.key = k := by simpa using List.find?_some ha
    have e : ∀ b : Alarm, b.key = k → Quiet s { s with faults := { s.faults with
        alarms := s.faults.alarms.map fun x => if x.key = k then b else x } } := fun b hb =>
      Quiet.ofFaults s _ fun x => x.mapAlarms (fun x => if x.key = k then b else x) fun r => by
        split
        · next e => rw [e, hb]
        · rfl
    have e := e { a with tag := tag, last := s.calTime, count := min 255 (a.count + 1), active := true } hk
    split
    · exact e
    · exact e.trans (Quiet.notify _ _)
  · next hn =>
    have new : ∀ x ∈ s.faults.alarms, x.key ≠ k := by simpa using hn
    split
    · next hl =>
      refine (Quiet.ofFaults s { s.faults with alarms := s.faults.alarms ++ [_] } fun x =>
        x.withAlarms _ (by simp; omega) ?_).trans (Quiet.notify _ _)
      rw [List.map_append, List.nodup_append]
      exact ⟨x.2.2.2.2.2, by simp, fun a ha b hb => by
        obtain ⟨r, hr, rfl⟩ := List.mem_map.mp ha
        simp at hb; subst hb; exact new r hr⟩
    · split
      · next old ho =>
        have mem : old ∈ s.faults.alarms := List.mem_of_find?_eq_some ho
        refine (Quiet.ofFaults s { s.faults with alarms := s.faults.alarms.erase old ++ [_] } fun x =>
          x.withAlarms _ ?_ ?_).trans (Quiet.notify _ _)
        · have := List.length_erase_of_mem mem
          have := x.2.2.2.2.1
          have := List.length_pos_of_mem mem
          simp; omega
        · rw [List.map_append, List.nodup_append]
          refine ⟨x.2.2.2.2.2.sublist ((List.erase_sublist).map _), by simp, fun a ha b hb => ?_⟩
          obtain ⟨r, hr, rfl⟩ := List.mem_map.mp ha
          simp at hb; subst hb; exact new r (List.mem_of_mem_erase hr)
      · exact (Quiet.ofFaults s { s.faults with listFull := true } id).trans (Quiet.notify _ _)

theorem Quiet.clearAlarm (k : Cond) : Quiet s (s.clearAlarm k) := by
  unfold State.clearAlarm
  refine (Quiet.ofFaults s { s.faults with alarms := s.faults.alarms.map _ } fun x => x.mapAlarms _ fun r => ?_).trans
    (Quiet.notify _ _)
  split <;> rfl

/-! ### The five forms of report -/

theorem Quiet.dropSuspicion (k : Cond) : Quiet s (s.dropSuspicion k) :=
  Quiet.ofFaults s _ fun x => x.filterSuspicions _

theorem Quiet.pass (k : Cond) : Quiet s (s.pass k) := Quiet.dropSuspicion s k

theorem Quiet.setSuspicion (r : Suspicion) : Quiet s (s.setSuspicion r) :=
  Quiet.ofFaults s _ fun x => x.mapSuspicions _ fun y => by
    split
    · next e => exact e.symm
    · rfl

theorem Quiet.confirm (k : Cond) (tag : ConfTag) : Quiet s (s.confirm k tag) := by
  unfold State.confirm
  dsimp only
  split
  · exact (Quiet.dropSuspicion s k).trans (Quiet.enterAlarm _ _ _)
  · next h =>
    have h : k ∉ s.faults.confirmed := by simpa [State.isConfirmed] using h
    refine (Quiet.trans ?_ (Quiet.enterAlarm _ k tag)).trans (Quiet.concerned _ k)
    refine Quiet.ofFaults s { s.faults with
      suspicions := s.faults.suspicions.filter (·.key ≠ k), confirmed := s.faults.confirmed ++ [k] } fun x => ?_
    obtain ⟨a, b, c, d, e, g⟩ := x.filterSuspicions fun r => decide (r.key ≠ k)
    refine ⟨?_, b, ?_, d, e, g⟩
    · rw [List.nodup_append]
      exact ⟨a, by simp, fun p hp q hq => by simp at hq; subst hq; exact fun e => h (e ▸ hp)⟩
    · intro r hr
      have := List.of_mem_filter hr
      simp only [List.mem_append, List.mem_singleton, not_or]
      exact ⟨c r hr, by simpa using this⟩

theorem Quiet.dropCond (k : Cond) : Quiet s (s.dropCond k) := by
  unfold State.dropCond
  dsimp only
  split
  · exact (Quiet.dropSuspicion s k).trans
      ((Quiet.ofFaults _ _ fun x => x.filterConfirmed _).trans (Quiet.clearAlarm _ k))
  · exact Quiet.dropSuspicion s k

theorem Quiet.endCond (k : Cond) : Quiet s (s.endCond k) :=
  .ite (.of (.concerned _ k) <| .dropCond s k) (.dropCond s k)

theorem Quiet.observe (k : Cond) : Quiet s (s.observe k) := by
  unfold State.observe
  dsimp only
  split
  · exact .confirm s k _
  split
  · exact .refl s
  next hc =>
  have hc : k ∉ s.faults.confirmed := by simpa [State.isConfirmed] using hc
  split
  · next hn =>
    have new : ∀ x ∈ s.faults.suspicions, x.key ≠ k := by simpa using hn
    split
    · next hl =>
      refine Quiet.ofFaults s _ fun x => ?_
      obtain ⟨a, b, c, d, e, g⟩ := x
      refine ⟨a, ?_, ?_, ?_, e, g⟩
      · rw [List.map_append, List.nodup_append]
        exact ⟨b, by simp, fun p hp q hq => by
          obtain ⟨r, hr, rfl⟩ := List.mem_map.mp hp
          simp at hq; subst hq; exact new r hr⟩
      · intro r hr
        rcases List.mem_append.mp hr with h | h
        · exact c r h
        · simp at h; subst h; exact hc
      · simp; omega
    · exact .confirm s k _
  · next r hr =>
    split
    · exact .ite (.confirm s k _) (.setSuspicion s _)
    · split
      · split
        · exact .refl s
        · exact .confirm s k _
      · split
        · exact .setSuspicion s _
        · exact .setSuspicion s _

theorem Quiet.litRecords (c : Chan) (f : Suspicion → Suspicion) (h : ∀ r, (f r).key = r.key) :
    Quiet s (s.litRecords c f) :=
  Quiet.ofFaults s _ fun x => x.mapSuspicions _ fun r => by
    split
    · exact h r
    · rfl

theorem Quiet.litStart (c : Chan) : Quiet s (s.litStart c) :=
  Quiet.litRecords s c _ fun r => by split <;> (try split) <;> (try split) <;> rfl

theorem Quiet.litEnd (c : Chan) : Quiet s (s.litEnd c) :=
  Quiet.litRecords s c _ fun r => by split <;> (try split) <;> rfl

theorem Quiet.darkEnd (c : Chan) : Quiet s (s.darkEnd c) :=
  Quiet.ofFaults s _ fun x => x.mapSuspicions _ fun r => by split <;> rfl

/-! ### What a report leaves in the lists -/

/-- The confirmed set, the suspicion list and the alarm list of two states are the same. -/
def SameLists (s t : State) : Prop :=
  t.faults.confirmed = s.faults.confirmed ∧ t.faults.suspicions = s.faults.suspicions
    ∧ t.faults.alarms = s.faults.alarms

theorem SameLists.refl : SameLists s s := ⟨rfl, rfl, rfl⟩

theorem SameLists.trans {s t u : State} (h : SameLists s t) (k : SameLists t u) : SameLists s u :=
  ⟨k.1.trans h.1, k.2.1.trans h.2.1, k.2.2.trans h.2.2⟩

theorem SameLists.each {α : Type} {f : α → State → State} (h : ∀ a t, SameLists t (f a t)) (l : List α) (s : State) :
    SameLists s (s.each l f) :=
  State.each_induct l s (.refl s) fun a _ t ht => ht.trans (h a t)

theorem SameLists.inhibit (g : Group) (f : GroupRun → GroupRun) : SameLists s (s.inhibit g f) := by
  obtain ⟨e, h⟩ := s.inhibit_eq g f
  rw [h]; exact .refl s

theorem SameLists.reform (g : Group) : SameLists s (s.reform g) := by
  unfold State.reform
  dsimp only
  split
  · exact .refl s
  · have h := SameLists.inhibit { s with faults := { s.faults with
      patterns := s.faults.patterns.set g (s.patternOf g)
      responses := s.faults.responses.set g (s.work.respOf (s.patternOf g)).response } } g fun r =>
        { r with hold := decide ((s.work.respOf (s.patternOf g)).response = .holdGroup) }
    split
    · exact h
    · exact h

theorem SameLists.reformAll : SameLists s s.reformAll := by
  have h := SameLists.each (fun g u => .reform u g) allGroups s
  unfold State.reformAll
  generalize (s.each allGroups fun g t => t.reform g) = t at h ⊢
  exact h

theorem SameLists.concerned (k : Cond) : SameLists s (s.concerned k) := by
  have level : ∀ t : State, SameLists t (match k.source with
      | .core c => if k.kind.insulation then
          t.updCore c fun r => { r with hist := { r.hist with level := t.levelOf c } } else t
      | _ => t) := by
    intro t
    split
    · split <;> exact .refl t
    · exact .refl t
  have pattern : ∀ t : State, SameLists t (if k.kind.flagged then t.reformAll else t) := by
    intro t
    split
    · exact .reformAll t
    · exact .refl t
  have red : ∀ t : State, SameLists t (if k.kind = .redOut then t.judgeConflictRedOut else t) := by
    intro t
    split
    · exact .each (fun g u => .inhibit u g _) allGroups t
    · exact .refl t
  exact ((level s).trans (pattern _)).trans (red _)

/-- An entry in the alarm list leaves the confirmed set and the suspicion list. -/
theorem State.enterAlarm_lists (k : Cond) (tag : ConfTag) :
    (s.enterAlarm k tag).faults.confirmed = s.faults.confirmed
      ∧ (s.enterAlarm k tag).faults.suspicions = s.faults.suspicions := by
  unfold State.enterAlarm
  dsimp only
  split
  · split
    · exact ⟨rfl, rfl⟩
    · simp
  · split
    · simp
    · split <;> simp

/-- A confirmation puts its condition in the confirmed set and removes its suspicion. -/
theorem State.confirm_lists (k : Cond) (tag : ConfTag) :
    (s.confirm k tag).faults.confirmed
        = (if k ∈ s.faults.confirmed then s.faults.confirmed else s.faults.confirmed ++ [k])
      ∧ (s.confirm k tag).faults.suspicions = s.faults.suspicions.filter (·.key ≠ k) := by
  unfold State.confirm
  dsimp only
  by_cases h : k ∈ s.faults.confirmed
  · rw [if_pos (by simpa [State.isConfirmed] using h), if_pos h]
    exact (s.dropSuspicion k).enterAlarm_lists k tag
  · rw [if_neg (by simpa [State.isConfirmed] using h), if_neg h]
    obtain ⟨a, b, -⟩ := SameLists.concerned (State.enterAlarm { s.dropSuspicion k with faults :=
      { (s.dropSuspicion k).faults with confirmed := (s.dropSuspicion k).faults.confirmed ++ [k] } } k tag) k
    obtain ⟨c, d⟩ := State.enterAlarm_lists { s.dropSuspicion k with faults :=
      { (s.dropSuspicion k).faults with confirmed := (s.dropSuspicion k).faults.confirmed ++ [k] } } k tag
    exact ⟨a.trans c, b.trans d⟩

/-- A condition that is dropped leaves the confirmed set, and its suspicion the list. -/
theorem State.dropCond_lists (k : Cond) :
    (s.dropCond k).faults.confirmed = s.faults.confirmed.filter (· ≠ k)
      ∧ (s.dropCond k).faults.suspicions = s.faults.suspicions.filter (·.key ≠ k) := by
  unfold State.dropCond
  dsimp only
  by_cases h : k ∈ s.faults.confirmed
  · rw [if_pos (by simpa [State.isConfirmed] using h)]
    exact ⟨by unfold State.clearAlarm; simp, by unfold State.clearAlarm; simp⟩
  · rw [if_neg (by simpa [State.isConfirmed] using h)]
    refine ⟨(List.filter_eq_self.mpr fun x hx => ?_).symm, rfl⟩
    simpa using fun e : x = k => h (e ▸ hx)

/-- A report of an end takes its condition from the confirmed set and removes its suspicion. -/
theorem State.endCond_lists (k : Cond) :
    (s.endCond k).faults.confirmed = s.faults.confirmed.filter (· ≠ k)
      ∧ (s.endCond k).faults.suspicions = s.faults.suspicions.filter (·.key ≠ k) := by
  obtain ⟨c, d⟩ := s.dropCond_lists k
  unfold State.endCond
  split
  · obtain ⟨a, b, -⟩ := SameLists.concerned (s.dropCond k) k
    exact ⟨a.trans c, b.trans d⟩
  · exact ⟨c, d⟩

/-! ### Kinds that touch the fault unit and the link alone -/

/-- A kind whose confirmation and end touch the fault unit and the link alone: it carries no flag, is none of the insulation kinds and is not RED_OUT. -/
def Kind.plain (k : Kind) : Bool := !k.flagged && !k.insulation && decide (k ≠ .redOut)

/-- Nothing follows from a report of a plain kind. -/
theorem State.concerned_plain {k : Cond} (h : k.kind.plain = true) : s.concerned k = s := by
  simp only [Kind.plain, Bool.and_eq_true, Bool.not_eq_true', decide_eq_true_eq] at h
  unfold State.concerned
  cases hs : k.source <;> simp [h.1.1, h.1.2, h.2]

/-- The state differs from another in the fault confirmation unit and the link alone. -/
def FaultsOnly (s t : State) : Prop := t = { s with faults := t.faults, link := t.link }

theorem FaultsOnly.refl : FaultsOnly s s := rfl

theorem FaultsOnly.trans {s t u : State} (h : FaultsOnly s t) (k : FaultsOnly t u) : FaultsOnly s u := by
  unfold FaultsOnly at *; rw [k, h]

theorem FaultsOnly.notify (n : Notice) : FaultsOnly s (s.notify n) := by
  unfold FaultsOnly State.notify; split <;> rfl

theorem FaultsOnly.each {α : Type} {f : α → State → State} {l : List α} (h : ∀ a ∈ l, ∀ t, FaultsOnly t (f a t)) (s : State) :
    FaultsOnly s (s.each l f) := by
  unfold State.each
  induction l generalizing s with
  | nil => exact .refl s
  | cons a l ih => exact (h a (by simp) s).trans (ih (fun b hb => h b (by simp [hb])) _)

theorem FaultsOnly.enterAlarm (k : Cond) (tag : ConfTag) : FaultsOnly s (s.enterAlarm k tag) := by
  have n : ∀ (f : Faults) (x : Notice), FaultsOnly s (State.notify { s with faults := f } x) :=
    fun f x => FaultsOnly.trans (t := { s with faults := f }) rfl (.notify _ x)
  unfold State.enterAlarm
  dsimp only
  split
  · split
    · rfl
    · exact n _ _
  · split
    · exact n _ _
    · split <;> exact n _ _

/-- A confirmation of a plain kind changes the fault confirmation unit and the link alone. -/
theorem FaultsOnly.confirm (k : Cond) (tag : ConfTag) (h : k.kind.plain = true) : FaultsOnly s (s.confirm k tag) := by
  unfold State.confirm
  dsimp only
  rw [State.concerned_plain _ h]
  split
  · exact FaultsOnly.trans (t := s.dropSuspicion k) rfl (.enterAlarm _ k tag)
  · exact FaultsOnly.trans (t := { s.dropSuspicion k with faults := _ }) rfl (.enterAlarm _ k tag)

/-- The end of a plain kind changes the fault confirmation unit and the link alone. -/
theorem FaultsOnly.endCond (k : Cond) (h : k.kind.plain = true) : FaultsOnly s (s.endCond k) := by
  have d : FaultsOnly s (s.dropCond k) := by
    unfold State.dropCond State.clearAlarm
    dsimp only
    split
    · exact FaultsOnly.trans (t := { s.dropSuspicion k with faults := _ }) rfl (.notify _ _)
    · rfl
  unfold State.endCond
  rw [State.concerned_plain _ h, ite_self]
  exact d

/-- A direct entry is confirmed at once (R155). -/
theorem State.observe_direct (k : Cond) (h : k.cls = 0) : s.observe k = s.confirm k .normal := by
  unfold State.observe; simp [h]

end Sys2Proof.Machine
end

