-- ==== Sys2Proof/Laws/Monitor.lean ====
section
/-! SUPPORT. What the operations of the output monitor can do (Machine/Monitor.lean): each is quiet. -/

namespace Sys2Proof.Machine

variable (s : State)

theorem Quiet.trip : Quiet s s.trip := by
  unfold State.trip
  split
  · exact .refl s
  · exact .of (.ask _ _) <| .ofLockouts s _ fun _ => Nat.min_le_left _ _

theorem Quiet.judgeMonitor : Quiet s s.judgeMonitor := by
  have ends : ∀ t : State, Quiet t (t.each allGroups fun g t =>
      t.each ((t.tripEnds g).filter t.isConfirmed) fun k u => u.endCond k) :=
    fun t => .each (fun _ t => .each (fun k u => .endCond u k) _ t) _ t
  unfold State.judgeMonitor
  dsimp only
  split
  · exact (Quiet.ofMonitor s _).trans (ends _)
  · exact .of (.trip _) <| .of (.each (fun k u => .observe u k) _ _) <| (Quiet.ofMonitor s _).trans (ends _)

end Sys2Proof.Machine
end

