-- ==== Sys2Proof/Laws/LampProver.lean ====
section
/-! SUPPORT. What the operations of the measurement scheduler's queue and of the lamp prover can do (Machine/Scheduler.lean, Machine/LampProver.lean): each is quiet, but for the two that store a reading's estimate or a learned reference. -/

namespace Sys2Proof.Machine

/-! ### The measurement queue (R106, R107) -/

theorem Subject.contends_symm (a b : Subject) : a.contends b = b.contends a := by
  cases a <;> cases b <;> simp only [Subject.contends, Bool.beq_comm]

theorem Subject.contends_trans {a b c : Subject} (h : a.contends b = true) (k : b.contends c = true) :
    a.contends c = true := by
  cases a <;> cases b <;> cases c <;> simp_all [Subject.contends]

/-- Requests that do not contend stay so where some are removed. -/
theorem Meas.Sound.sublist {m : Meas} (h : m.Sound) {q : List MeasReq} (k : q.Sublist m.queue) :
    Meas.Sound { m with queue := q } := List.Pairwise.sublist k h

variable (s : State)

theorem Quiet.withdraw (x : Subject) : Quiet s (s.withdraw x) :=
  Quiet.ofQueue s _ fun h => h.sublist List.filter_sublist

theorem Quiet.withdrawLeak : Quiet s s.withdrawLeak :=
  Quiet.ofQueue s _ fun h => h.sublist List.filter_sublist

/-- A request placed takes the place of the one it contends with, or the end of the queue. -/
theorem Quiet.place (x : Subject) (range : ConvRange) : Quiet s (s.place x range) := by
  unfold State.place
  dsimp only
  refine Quiet.ofQueue s _ fun h => ?_
  unfold Meas.Sound at h ⊢
  dsimp only
  split
  · refine List.pairwise_map.mpr (h.imp fun {a b} hab => ?_)
    by_cases ha : x.contends a.subject = true <;> by_cases hb : x.contends b.subject = true
    · exact absurd (Subject.contends_trans (by rw [Subject.contends_symm]; exact ha) hb) (by simp [hab])
    · rw [if_pos ha, if_neg hb]; show x.contends b.subject = false; simpa using hb
    · rw [if_neg ha, if_pos hb]
      show a.subject.contends x = false
      rw [Subject.contends_symm]; simpa using ha
    · rw [if_neg ha, if_neg hb]; exact hab
  · next hq =>
    refine List.pairwise_append.mpr ⟨h, List.pairwise_singleton _ _, fun a ha b hb => ?_⟩
    simp only [List.mem_singleton] at hb
    subst hb
    show a.subject.contends x = false
    rw [Subject.contends_symm]
    have : ∀ o ∈ s.meas.queue, x.contends o.subject = false := by simpa using hq
    exact this a ha

/-! ### Learning (R132 to R135) -/

theorem find_map_of_fixed {α : Type} (l : List α) (f : α → α) (p : α → Bool) (h : ∀ a, p (f a) = p a)
    (k : ∀ a, p a = true → f a = a) : (l.map f).find? p = l.find? p := by
  induction l with
  | nil => rfl
  | cons a l ih =>
    simp only [List.map_cons, List.find?_cons, h, ih]
    split
    · next e => rw [k a e]
    · rfl

theorem Quiet.markUnlearned (c : Chan) : Quiet s (s.markUnlearned c) := by
  have f : ∀ x : JobKind, x ≠ .learn → (s.markUnlearned c).job? x = s.job? x := fun x hx =>
    find_map_of_fixed _ _ _ (fun j => by split <;> rfl) fun j hj => by
      have : j.kind ≠ .learn := by simp at hj; rw [hj]; exact hx
      rw [if_neg this]
  have k : ((s.markUnlearned c).link.jobs.map (·.kind)) = s.link.jobs.map (·.kind) := by
    unfold State.markUnlearned
    rw [List.map_map]
    exact List.map_congr_left fun j _ => by dsimp only [Function.comp]; split <;> rfl
  exact {
    jobs := by rw [k]
    configJob := f .commitConfig (by decide)
    plansJob := f .commitPlans (by decide) }

theorem Quiet.learnCheck : Quiet s s.learnCheck :=
  .ite (.refl s) (.endJob s _ _ _ (.inl rfl))

theorem Quiet.stopAll : Quiet s
    { s with lamps := s.lamps.map fun (l : LampRun) => if l.learning then l.stopLearning else l } := by
  refine Quiet.ofLamps s _ fun c => ?_
  rw [map_get]
  split
  · exact Nat.le_refl _
  · exact Nat.le_refl _

theorem Quiet.learnEnd (r : JobResult) : Quiet s (s.learnEnd r) := by
  have list : ∀ t : State, Quiet t (if r = .timeLimit then
      t.each (allChans.filter fun c => (t.lamps[c]).learning) fun c u => u.markUnlearned c else t) :=
    fun t => .ite (Quiet.each (fun c u => .markUnlearned u c) _ t) (.refl t)
  exact .ite (((list s).trans (.stopAll _)).trans (.endJob _ _ _ _ (.inl rfl))) (.refl s)

theorem Quiet.learnPeriodEnd (c : Chan) : Quiet s (s.learnPeriodEnd c) := by
  unfold State.learnPeriodEnd
  dsimp only
  split
  · split
    · exact ((Quiet.updLamp s c LampRun.stopLearning fun _ => Nat.le_refl _).trans (.markUnlearned _ c)).trans
        (.learnCheck _)
    · exact .updLamp s c _ fun _ => Nat.le_refl _
  · exact .updLamp s c _ fun _ => Nat.le_refl _

/-! ### Judgement (R125 to R127) -/

theorem Quiet.reportBand (c : Chan) (b : Band) : Quiet s (s.reportBand c b) := by
  unfold State.reportBand
  split
  · exact Quiet.each (fun k t => .pass t k) _ s
  · exact .ite (.observe s _) ((Quiet.each (fun k t => .pass t k) _ s).trans (.observe _ _))

theorem Quiet.litClearing (c : Chan) (b : Band) : Quiet s (s.litClearing c b) := by
  unfold State.litClearing
  dsimp only
  split
  · split
    · have u := Quiet.updLamp s c (fun l => { l with
        litCount := min 8 ((s.lamps[c]).litCount + 1), litReached := true }) fun _ => Nat.le_refl _
      split
      · exact u.trans (Quiet.each (fun k t => .endCond t k) _ _)
      · exact u
    · exact .updLamp s c _ fun _ => Nat.le_refl _
  · exact .updLamp s c _ fun _ => Nat.le_refl _

theorem Quiet.litJudge (c : Chan) (l : Nat) (oc : Bool) : Quiet s (s.litJudge c l oc) :=
  (Quiet.reportBand s c _).trans (.litClearing _ c _)

/-! ### Periods (R120 to R123, R128) -/

/-- A change of a proving record that leaves the estimate. -/
theorem Quiet.lamp (c : Chan) (f : LampRun → LampRun) (h : ∀ r, (f r).lampsLit = r.lampsLit) : Quiet s (s.updLamp c f) :=
  .updLamp s c f fun r => (h r).le

theorem Quiet.endDark (c : Chan) : Quiet s (s.endDark c) :=
  .of (.darkEnd _ c) <| .of (.lamp _ c _ fun _ => rfl) <| .withdraw s _

theorem Quiet.endLit (c : Chan) : Quiet s (s.endLit c) :=
  .ite (.of (.learnPeriodEnd _ c) <| .of (.litEnd _ c) <| .of (.lamp _ c _ fun _ => rfl) <| .withdraw s _) (.refl s)

theorem Quiet.endFailed (c : Chan) : Quiet s (s.endFailed c) :=
  .ite (.of (.litEnd _ c) <| .lamp s c _ fun _ => rfl) (.refl s)

theorem Quiet.failedJudge (c : Chan) : Quiet s (s.failedJudge c) :=
  .of (.litJudge _ c _ _) <| .updLamp s c _ fun _ => Nat.zero_le _

theorem Quiet.beginFailed (c : Chan) : Quiet s (s.beginFailed c) := by
  have a : ∀ t : State, Quiet t (if t.commanded c then
      t.updLamp c fun l => { l with repeatTimer := some (t.now + 1000) } else t.endFailed c) :=
    fun t => .ite (.lamp t c _ fun _ => rfl) (.endFailed t c)
  exact .of (a _) <| .of (.failedJudge _ c) <| .of (.litStart _ c) <|
    .lamp s c (fun l => { l with lit := .failed, addedInPeriod := false }) fun _ => rfl

theorem Quiet.lampProvenOn (c : Chan) : Quiet s (s.lampProvenOn c) :=
  .ite (.of (.litStart _ c) <| .of (.lamp _ c _ fun _ => rfl) <| .endDark s c) (.refl s)

theorem Quiet.lampProvenOff (c : Chan) : Quiet s (s.lampProvenOff c) :=
  .ite (.lamp s c _ fun _ => rfl) (.refl s)

theorem Quiet.lampFailedOpen (c : Chan) : Quiet s (s.lampFailedOpen c) :=
  .ite (.of (.beginFailed _ c) <| .of (.endLit _ c) <| .endDark s c) (.refl s)

theorem Quiet.lampLeftReleased (c : Chan) : Quiet s (s.lampLeftReleased c) :=
  .ite (.of (.endFailed _ c) <| .endDark s c) (.refl s)

theorem Quiet.judgeFailed : Quiet s s.judgeFailed := by
  refine Quiet.each (fun c t => ?_) _ s
  split
  · split
    · exact .ite (.refl t) (.endFailed t c)
    · exact .ite (.beginFailed t c) (.refl t)
  · exact .endFailed t c

/-! ### Readings and timers (R121, R123, R128 to R130) -/

theorem Quiet.darkClearing (c : Chan) : Quiet s (s.darkClearing c) := by
  unfold State.darkClearing
  dsimp only
  split
  · split
    · exact .of (.endCond _ _) <| .of (.lamp _ c _ fun _ => rfl) <| .pass s _
    · exact .of (.lamp _ c _ fun _ => rfl) <| .pass s _
  · exact .of (.lamp _ c _ fun _ => rfl) <| .pass s _

theorem Quiet.darkEvidence (c : Chan) (b : Bool) : Quiet s (s.darkEvidence c b) :=
  .ite (.of (.judgeMonitor _) <| .ofMonitor s _) (.refl s)

theorem Quiet.darkReading (c : Chan) (i : Nat) (o : Bool) : Quiet s (s.darkReading c i o) := by
  have tail : ∀ (t : State) (leak : Bool), Quiet t (if leak then
      (t.updLamp c fun l => { l with darkCount := 0, darkReached := false }).observe ⟨.channel c, .darkCurrent⟩
      else if t.smc.proof && t.ftr.proof then t.darkClearing c else t) := by
    intro t leak
    split
    · exact .of (.observe _ _) <| .lamp t c _ fun _ => rfl
    · exact .ite (.darkClearing t c) (.refl t)
  exact .of (tail _ _) <| .of (.darkEvidence _ c _) <| .lamp s c _ fun _ => rfl

theorem Quiet.settleExpiry (c : Chan) : Quiet s (s.settleExpiry c) :=
  .of (.place _ _ _) <| .lamp s c _ fun _ => rfl

theorem Quiet.repeatExpiry (c : Chan) : Quiet s (s.repeatExpiry c) := by
  unfold State.repeatExpiry
  split
  · exact .of (.lamp _ c _ fun _ => rfl) <| .failedJudge s c
  · split
    · exact .of (.place _ _ _) <| .lamp s c _ fun _ => rfl
    · exact .lamp s c _ fun _ => rfl

theorem Quiet.darkExpiry (c : Chan) : Quiet s (s.darkExpiry c) := by
  unfold State.darkExpiry
  dsimp only
  split
  · split
    · exact .lamp s c _ fun _ => rfl
    · exact .of (.place _ _ _) <| .lamp s c _ fun _ => rfl
  · exact .lamp s c _ fun _ => rfl

theorem Quiet.lampFlashLive : Quiet s s.lampFlashLive := by
  refine Quiet.each (fun c t => ?_) _ s
  dsimp only
  split
  · exact .of (.lamp _ c _ fun _ => rfl) <| .withdraw t _
  · exact .withdraw t _

end Sys2Proof.Machine
end

