-- ==== Sys2Proof/Laws/Surveyor.lean ====
section
/-! SUPPORT. What the operations of the cable surveyor can do (Machine/Surveyor.lean): each is quiet. -/

namespace Sys2Proof.Machine

variable (s : State)

/-! ### The survey part (R147) -/

/-- The smoothed value lies between the old value and the reading, or is the reading (R147). -/
theorem smooth_bounds (old r m : Nat) (h : old ≤ m) (k : r ≤ m) : smooth old r ≤ m ∧ min old r ≤ smooth old r := by
  unfold smooth
  split
  · omega
  · rcases Nat.le_total old r with g | g
    · have e : ((r : Int) - old).tdiv 8 = ((r - old) / 8 : Nat) := by
        rw [← Nat.cast_sub g]; rfl
      rw [e]
      omega
    · have e : ((r : Int) - old).tdiv 8 = -((old - r) / 8 : Nat) := by
        have : (r : Int) - old = -((old - r : Nat) : Int) := by omega
        rw [this, Int.neg_tdiv]; rfl
      rw [e]
      omega

/-- A reading within range keeps a survey part sound. -/
theorem CoreSurvey.Sound.record {h : CoreSurvey} (x : h.Sound) (r n : Nat) (k : r ≤ 9999999) : (h.record r n).Sound := by
  unfold CoreSurvey.record
  unfold CoreSurvey.Sound at x ⊢
  cases e : h.smoothed with
  | none => exact ⟨k, r, rfl, Nat.le_refl r⟩
  | some v =>
    rw [e] at x
    obtain ⟨hv, w, hw, hle⟩ := x
    have b := smooth_bounds v r 9999999 hv k
    refine ⟨b.1, _, rfl, ?_⟩
    rw [hw]
    exact (by simp only [Option.getD_some]; omega : min ((some w).getD r) r ≤ smooth v r)

/-- A resistance is at most 9,999,999 (R144). -/
theorem resistance_le (x : Nat) : resistance x ≤ 9999999 := by
  unfold resistance
  split <;> omega

/-! ### Passes (R142, R149, R150) -/

theorem Quiet.beginPass (full : Bool) : Quiet s (s.beginPass full) := by
  have h : ∀ (x : Vector CoreRun 64) (y : Survey), (∀ k : CoreId, (x[k]).hist = (s.cores[k]).hist) →
      Quiet s { s with cores := x, survey := y } := fun x y h =>
    { hist := fun k => (congrArg CoreSurvey.Sound (h k)).mpr }
  unfold State.beginPass
  refine h _ _ fun k => ?_
  rw [mapIx_get]
  split <;> rfl

/-- A core's record changed but for its survey part. -/
theorem Quiet.core (k : CoreId) (f : CoreRun → CoreRun) (h : ∀ r, (f r).hist = r.hist) : Quiet s (s.updCore k f) :=
  .updCore s k f fun r => by rw [h]; exact id

theorem Quiet.countUntested : Quiet s s.countUntested := by
  refine Quiet.each (fun k t => ?_) _ s
  dsimp only
  split
  · split
    · exact .of (.observe _ _) <| .updCore t k _ fun _ => id
    · exact .updCore t k _ fun _ => id
  · exact .refl t

theorem Quiet.closePass (r : JobResult) : Quiet s (s.closePass r) := by
  have h : Quiet s { s with
      cores := s.cores.map fun (c : CoreRun) =>
        { c with mark := .none, test := if c.test = TestState.releasing then .releasing else .idle }
      survey := { s.survey with active := false, window := none, eligibility := none } } := by
    refine .of (.ofSurvey _ _) <| .ofCores s (s.cores.map fun (c : CoreRun) =>
        { c with mark := .none, test := if c.test = TestState.releasing then .releasing else .idle }) fun k => ?_
    rw [map_get]; exact id
  exact .of (.endJob _ _ _ _ (.inr rfl)) <| .of (.placeStore _ _) h

theorem Quiet.endPass : Quiet s s.endPass := by
  have tail : ∀ t : State, Quiet t (if t.survey.startHeld && !t.survey.halted then
      (t.beginPass false).wantSelection else t) :=
    fun t => .ite (.of (.wantSelection _) <| .beginPass t _) (.refl t)
  exact .of (tail _) <| .of (.closePass _ _) <| .countUntested s

theorem Quiet.haltSurvey : Quiet s s.haltSurvey := by
  have tail : ∀ t : State, Quiet t (if t.survey.active then t.closePass .halted else t) :=
    fun t => .ite (.closePass t _) (.refl t)
  exact .of (tail _) <| .of (.ofSurvey _ _) <| .withdrawLeak s

/-! ### One test (R142 to R146) -/

theorem Quiet.testStart (k : CoreId) : Quiet s (s.testStart k) :=
  .of (.core _ k _ fun _ => rfl) <| .ofSurvey s _

theorem Quiet.clearWaits : Quiet s s.clearWaits := by
  refine Quiet.ofCores s _ fun k => ?_
  rw [map_get]
  split <;> exact id

theorem Quiet.selection : Quiet s s.selection := by
  unfold State.selection
  dsimp only
  split
  · split
    · exact .endPass s
    · split
      · exact .of (.testStart _ _) <| .clearWaits s
      · split
        · exact .of (.ofSurvey _ _) <| .of (.core _ _ _ fun _ => rfl) <| .clearWaits s
        · exact .of (.core _ _ _ fun _ => rfl) <| .clearWaits s
  · exact .refl s

theorem Quiet.selections (n : Nat) : Quiet s (s.selections n) := by
  induction n generalizing s with
  | zero => exact .refl s
  | succ n ih =>
    unfold State.selections
    split
    · exact .of (ih _) <| .of (.selection _) <| .ofEv s _
    · exact .refl s

theorem Quiet.enterReleasing (k : CoreId) : Quiet s (s.enterReleasing k) :=
  .of (.core _ k _ fun _ => rfl) <| .ofSurvey s _

theorem Quiet.abandon (k : CoreId) (counted : Bool) : Quiet s (s.abandon k counted) := by
  have count : ∀ t : State, Quiet t (if counted then
      t.updCore k fun r => { r with
        abandons := min 5 ((t.cores[k]).abandons + 1)
        mark := if min 5 ((t.cores[k]).abandons + 1) = 5 && r.mark.isDue then .deferred else r.mark }
      else t) :=
    fun t => .ite (.core t k _ fun _ => rfl) (.refl t)
  exact .ite (.of (.enterReleasing _ k) <| .of (count _) <| .withdraw s _) (.refl s)

theorem Quiet.abandonIf (p : CoreCfg → Bool) : Quiet s (s.abandonIf p) := by
  unfold State.abandonIf
  split
  · exact .ite (.abandon s _ _) (.refl s)
  · exact .refl s

theorem Quiet.surveyPending (g : Group) : Quiet s (s.surveyPending g) := .abandonIf s _

theorem Quiet.surveySupply : Quiet s s.surveySupply := .abandonIf s _

theorem Quiet.surveyFlash : Quiet s s.surveyFlash := .abandonIf s _

theorem Quiet.testEnd : Quiet s s.testEnd := by
  have tail : ∀ t : State, Quiet t (if t.survey.halted then t
      else if t.survey.active && t.survey.window.isNone then t.endPass else t.wantSelection) :=
    fun t => .ite (.refl t) (.ite (.endPass t) (.wantSelection t))
  unfold State.testEnd
  split
  · next k _ =>
    split
    · exact .of (tail _) <| .of (.core _ k _ fun _ => rfl) <| .ofSurvey s _
    · exact .refl s
  · exact .refl s

theorem Quiet.chargeExpiry : Quiet s s.chargeExpiry := by
  have h := Quiet.ofSurvey s { s.survey with charge := none }
  unfold State.chargeExpiry
  dsimp only
  split
  · next k _ =>
    split
    · exact .of (.place _ _ _) <| .of (.core _ k _ fun _ => rfl) h
    · exact .of (.haltSurvey _) <| .of (.observe _ _) <| .of (.core _ k _ fun _ => rfl) <| .ofSurvey s _
  · exact h

theorem Quiet.releaseExpiry : Quiet s s.releaseExpiry := by
  unfold State.releaseExpiry
  split
  · split
    · exact .of (.haltSurvey _) <| .of (.observe _ _) <| .ofSurvey s _
    · exact .testEnd s
  · exact .ofSurvey s _

/-! ### Readings (R144, R147, R148) -/

theorem Quiet.judgeLevel (k : CoreId) (kind : Kind) (v t : Nat) : Quiet s (s.judgeLevel k kind v t) :=
  .ite (.observe s _) (.ite (.endCond s _) (.ite (.refl s) (.pass s _)))

theorem Quiet.record (k : CoreId) (reading : Nat) (earth : Bool) (h : reading ≤ 9999999) :
    Quiet s (s.record k reading earth) := by
  have untestable : ∀ (t : State) (b : Bool), Quiet t (if b then t.endCond ⟨.core k, .coreUntestable⟩ else t) :=
    fun t b => .ite (.endCond t _) (.refl t)
  have fault : ∀ t : State, Quiet t (if earth then t.observe ⟨.core k, .earthFault⟩
      else if t.work.thr.low ≤ reading then t.endCond ⟨.core k, .earthFault⟩ else t) :=
    fun t => .ite (.observe t _) (.ite (.endCond t _) (.refl t))
  exact .of (.judgeLevel _ k _ _ _) <| .of (.judgeLevel _ k _ _ _) <| .of (fault _) <| .of (untestable _ _) <|
    .updCore s k (fun r => { r with hist := r.hist.record reading s.survey.passNo, mark := .tested })
      fun r x => x.record _ _ h

theorem Quiet.leakResult (r : Result) : Quiet s (s.leakResult r) := by
  unfold State.leakResult
  split
  · next k _ =>
    dsimp only
    split
    · split
      · exact .abandon s k _
      · split
        · exact .place s _ _
        · split
          · split
            · exact .of (.place _ _ _) <| .core s k _ fun _ => rfl
            · exact .of (.enterReleasing _ k) <| .record s k 0 true (by omega)
          · exact .of (.enterReleasing _ k) <| .record s k _ false (resistance_le _)
    · exact .refl s
  · exact .refl s

end Sys2Proof.Machine
end

