-- ==== Sys2Proof/Laws/Switch.lean ====
section
/-! SUPPORT. What the operations of the switch controller can do (Machine/Switch.lean): each is quiet, but for the hand-over of aspects, which records what was handed over. -/

namespace Sys2Proof.Machine

variable (s : State)

/-! ### One load relay (R88 to R93) -/

/-- A relay record as setRelay leaves it: outside RELEASED the dark-since time is none (R93). -/
def Relay.kept (r : Relay) : Relay := { r with darkSince := if r.state = .released then r.darkSince else none }

/-- Whether setRelay sets or removes GREEN_UNAVAILABLE: a green relay enters or leaves FAILED_OPEN (R16). -/
def Relay.turns (c : Chan) (o n : Relay) : Prop :=
  (colourOf c).val = 2 ∧ ¬(o.state = .failedOpen ↔ n.state = .failedOpen)

/-- What setRelay does with the new record in hand. -/
def State.putRelay (s : State) (c : Chan) (n : Relay) : State :=
  let o := s.relays[c]
  let t := s.updRelay c fun _ => n
  if o.state = n.state then t
  else
    let t := t.mark
    let t := if n.state = .released then t.wantSelection else t
    if (colourOf c).val = 2 then
      let g := groupOf c
      let t := if o.state = .released then
          { t with monitor := upd t.monitor g fun m => { m with darkCurrent := false } }
        else t
      if (o.state = .failedOpen) ≠ (n.state = .failedOpen) then
        t.setGreenUnavailable g (n.state = .failedOpen)
      else t
    else t

theorem State.setRelay_eq (c : Chan) (f : Relay → Relay) : s.setRelay c f = s.putRelay c (f s.relays[c]).kept := rfl

/-- All that setRelay can do: the relay's record, GREEN_UNAVAILABLE where a green relay enters or leaves FAILED_OPEN, the dark-current evidence, and what is passed on in the event. -/
theorem State.putRelay_spec (c : Chan) (n : Relay) :
    ∃ ev mon grp, s.putRelay c n = { s with
        relays := upd s.relays c (fun _ => n), ev := ev, monitor := mon, groups := grp }
      ∧ (Relay.turns c s.relays[c] n → grp = upd s.groups (groupOf c) fun r =>
          { r with greenUnavailable := decide (n.state = .failedOpen) })
      ∧ (¬ Relay.turns c s.relays[c] n → grp = s.groups) := by
  unfold State.putRelay
  dsimp only
  split
  · next e =>
    refine ⟨_, _, _, rfl, fun t => ?_, fun _ => rfl⟩
    exact absurd (by rw [e]) t.2
  · split
    · next e =>
      have out : ∀ t : State, (∃ ev mon, t = { s with
            relays := upd s.relays c (fun _ => n), ev := ev, monitor := mon }) →
          ∃ ev mon grp, (if ((s.relays[c]).state = .failedOpen) ≠ (n.state = .failedOpen)
            then t.setGreenUnavailable (groupOf c) (decide (n.state = .failedOpen)) else t)
            = { s with relays := upd s.relays c (fun _ => n), ev := ev, monitor := mon, groups := grp }
          ∧ (Relay.turns c s.relays[c] n → grp = upd s.groups (groupOf c) fun r =>
            { r with greenUnavailable := decide (n.state = .failedOpen) })
          ∧ (¬ Relay.turns c s.relays[c] n → grp = s.groups) := by
        rintro t ⟨ev, mon, rfl⟩
        split
        · next d =>
          obtain ⟨ev, h⟩ := State.inhibit_eq
            { s with relays := upd s.relays c (fun _ => n), ev := ev, monitor := mon } (groupOf c) fun r =>
              { r with greenUnavailable := decide (n.state = .failedOpen) }
          exact ⟨ev, _, _, h, fun _ => rfl, fun m => absurd ⟨e, fun i => d (propext i)⟩ m⟩
        · next d => exact ⟨_, _, _, rfl, fun m => absurd (iff_of_eq (not_not.mp d)) m.2, fun _ => rfl⟩
      refine out _ ?_
      split <;> split <;> exact ⟨_, _, rfl⟩
    · next e => split <;> exact ⟨_, _, _, rfl, fun m => absurd m.1 e, fun _ => rfl⟩

/-- The green relay of a group is that of its third channel. -/
theorem chan_green {c : Chan} {g : Group} : c = chanOf g 2 ↔ (colourOf c).val = 2 ∧ groupOf c = g := by
  constructor
  · rintro rfl; simp
  · rintro ⟨h, rfl⟩
    ext
    simp only [chanOf, groupOf, colourOf] at h ⊢
    show c.val = 3 * (c.val / 3) + 2
    omega

theorem Quiet.setRelay (c : Chan) (f : Relay → Relay) : Quiet s (s.setRelay c f) := by
  generalize hn : (f s.relays[c]).kept = n
  rw [State.setRelay_eq, hn]
  obtain ⟨ev, mon, grp, h, turn, stay⟩ := s.putRelay_spec c n
  rw [h]
  have same : SameAspects s.groups grp := by
    by_cases t : Relay.turns c s.relays[c] n
    · rw [turn t]
      intro g
      rw [upd_get]
      split
      · exact ⟨_, _, _, rfl⟩
      · exact ⟨_, _, _, rfl⟩
    · rw [stay t]; exact SameAspects.refl _
  refine { groups := same, greens := fun a g => ?_ }
  show (grp[g]).greenUnavailable = true ↔ ((upd s.relays c fun _ => n)[chanOf g 2]).state = .failedOpen
  have a := a g
  rw [upd_get]
  by_cases e : c = chanOf g 2
  · obtain ⟨e2, eg⟩ := chan_green.mp e
    rw [if_pos e]
    by_cases t : Relay.turns c s.relays[c] n
    · rw [turn t, upd_get, if_pos eg]
      exact decide_eq_true_iff
    · have ec : (s.relays[chanOf g 2]).state = (s.relays[c]).state :=
        congrArg (fun x : Chan => (s.relays[x]).state) e.symm
      rw [stay t, a, ec]
      exact not_not.mp fun m => t ⟨e2, m⟩
  · rw [if_neg e, ← a]
    by_cases t : Relay.turns c s.relays[c] n
    · rw [turn t, upd_get, if_neg fun eg => e (chan_green.mpr ⟨t.1, eg⟩)]
    · rw [stay t]

/-- A relay record changed but for its state. -/
theorem Quiet.relay (c : Chan) (f : Relay → Relay) (h : ∀ r, (f r).state = r.state) : Quiet s (s.updRelay c f) :=
  .updRelay s c f h

theorem Quiet.energize (c : Chan) : Quiet s (s.energize c) := by
  unfold State.energize
  exact .setRelay s c _

theorem Quiet.operateReleased (c : Chan) : Quiet s (s.operateReleased c) := by
  unfold State.operateReleased
  split
  · exact .of (.abandon _ _ _) <| .relay s c _ fun _ => rfl
  · exact .energize s c

theorem Quiet.operate (c : Chan) : Quiet s (s.operate c) := by
  unfold State.operate
  split
  · exact .refl s
  · split
    · exact .ite (.refl s) (.of (.wantSelection _) <| .operateReleased s c)
    · exact .of (.wantSelection _) <| .relay s c _ fun _ => rfl
    · exact .wantSelection s
    · exact .wantSelection s
    · exact .refl s
    · exact .refl s

theorem Quiet.startRelease (c : Chan) : Quiet s (s.startRelease c) :=
  .of (.endLit _ c) <| .setRelay s c _

theorem Quiet.release (c : Chan) : Quiet s (s.release c) := by
  unfold State.release
  split
  · exact .of (.wantSelection _) <| .relay s c _ fun _ => rfl
  · exact .of (.wantSelection _) <| .startRelease s c
  · exact .of (.wantSelection _) <| .startRelease s c
  · exact .of (.wantSelection _) <| .relay s c _ fun _ => rfl
  · exact .refl s
  · exact .refl s

theorem Quiet.failOpen (c : Chan) (o : FailureOrigin) : Quiet s (s.failOpen c o) :=
  .of (.lampFailedOpen _ c) <| .setRelay s c _

theorem Quiet.uncommanded (c : Chan) : Quiet s (s.uncommanded c) := by
  unfold State.uncommanded
  dsimp only
  exact .of (.abandonIf _ _) <| .of (.lampLeftReleased _ c) <| .of (.observe _ _) <| .setRelay s c _

theorem Quiet.enterReleased (c : Chan) : Quiet s (s.enterReleased c) := by
  unfold State.enterReleased
  dsimp only
  split
  · exact .of (.wantSelection _) <| .of (.operateReleased _ c) <| .of (.lampProvenOff _ c) <| .setRelay s c _
  · exact .of (.lampProvenOff _ c) <| .setRelay s c _

theorem Quiet.relayClosed (c : Chan) : Quiet s (s.relayClosed c) := by
  have h := Quiet.relay s c (fun r => { r with proof := true }) fun _ => rfl
  unfold State.relayClosed
  dsimp only
  split
  · exact .of (.lampProvenOn _ c) <| .of (.setRelay _ c _) h
  · exact .of (.uncommanded _ c) h
  · exact .of (.uncommanded _ c) h
  · exact .of (.mark _) h
  · exact .of (.mark _) h
  · exact .of (.mark _) h

theorem Quiet.relayOpened (c : Chan) : Quiet s (s.relayOpened c) := by
  have h := Quiet.relay s c (fun r => { r with proof := false }) fun _ => rfl
  unfold State.relayOpened
  dsimp only
  split
  · exact .of (.observe _ _) <| .of (.failOpen _ c _) <| .of (.lampProvenOff _ c) <| .of (.endLit _ c) <|
      .of (.relay _ c _ fun _ => rfl) h
  · exact .of (.enterReleased _ c) h
  · exact .of (.mark _) h
  · exact .of (.mark _) h
  · exact .of (.mark _) h
  · exact .of (.mark _) h

theorem Quiet.relayOperateExpiry (c : Chan) : Quiet s (s.relayOperateExpiry c) :=
  .of (.observe _ _) <| .failOpen s c _

theorem Quiet.relayReleaseExpiry (c : Chan) : Quiet s (s.relayReleaseExpiry c) :=
  .ite (.of (.observe _ _) <| .setRelay s c _) (.enterReleased s c)

theorem Quiet.waitExpiry (c : Chan) : Quiet s (s.waitExpiry c) := by
  unfold State.waitExpiry
  dsimp only
  split
  · exact .of (.failOpen _ c _) <| .of (.haltSurvey _) <| .observe s _
  · exact .of (.failOpen _ c _) <| .haltSurvey s

theorem Quiet.lineOpened : Quiet s s.lineOpened :=
  .of (.testEnd _) <| .of (.each (fun c t => .of (.wantSelection _) <| .energize t c) _ _) <| .ofSurvey s _

theorem Quiet.releaseAll : Quiet s s.releaseAll := .each (fun c t => .release t c) _ s

theorem Quiet.resetRelay (c : Chan) : Quiet s (s.resetRelay c) :=
  .of (.lampProvenOff _ c) <| .of (.endFailed _ c) <| .of (.endCond _ _) <| .of (.endCond _ _) <| .setRelay s c _

theorem Quiet.resetRelays : Quiet s s.resetRelays :=
  .of (.each (fun c t => .uncommanded t c) _ _) <| .of (.judgeMonitor _) <| .each (fun c t => .resetRelay t c) _ s

/-! ### The flash bus and the supply relays (R96 to R98) -/

theorem Quiet.judgeFlashBus : Quiet s s.judgeFlashBus := by
  unfold State.judgeFlashBus
  dsimp only
  split
  · exact .refl s
  · split
    · exact .of (.surveyFlash _) <| .of (.lampFlashLive _) <| .of (.wantSelection _) <| .ofFlashBus s _
    · exact .of (.wantSelection _) <| .ofFlashBus s _

theorem Quiet.setSmc (f : SupplyRelay → SupplyRelay) : Quiet s (s.setSmc f) := .ofSmc s _

theorem Quiet.setFtr (f : SupplyRelay → SupplyRelay) : Quiet s (s.setFtr f) := .ofFtr s _

theorem Quiet.supplyCutFailed : Quiet s s.supplyCutFailed := .of (.ask _ _) <| .observe s _

theorem Quiet.smcBeginClose : Quiet s s.smcBeginClose := by
  have tail : ∀ t : State, Quiet t (if t.ftr.proof then t else t.surveyFlash) :=
    fun t => .ite (.refl t) (.surveyFlash t)
  exact .of (tail _) <| .of (.surveySupply _) <| .setSmc s _

theorem Quiet.smcClose : Quiet s s.smcClose := by
  unfold State.smcClose
  split
  · exact .smcBeginClose s
  · exact .setSmc s _
  · exact .refl s
  · exact .refl s
  · exact .refl s

theorem Quiet.smcOpen : Quiet s s.smcOpen := by
  unfold State.smcOpen
  split
  · exact .setSmc s _
  · exact .setSmc s _
  · exact .setSmc s _
  · exact .refl s
  · exact .refl s

theorem Quiet.smcEnterOpen : Quiet s s.smcEnterOpen := by
  have tail : ∀ (t : State) (b : Bool), Quiet t (if b then t.smcBeginClose else t) :=
    fun t b => .ite (.smcBeginClose t) (.refl t)
  exact .of (tail _ _) <| .of (.wantSelection _) <| .setSmc s _

theorem Quiet.smcClosed : Quiet s s.smcClosed := by
  have act : ∀ t : State, Quiet t (match t.smc.state with
      | .rest => (t.setSmc SupplyRelay.fail).supplyCutFailed
      | .operating => t.setSmc fun r => { r with state := .operated, opTimer := none }
      | .operated | .releasing | .failed => t) := by
    intro t
    split
    · exact .of (.supplyCutFailed _) <| .setSmc t _
    · exact .setSmc t _
    · exact .refl t
    · exact .refl t
    · exact .refl t
  exact .of (.judgeFlashBus _) <| .of (.surveySupply _) <| .of (act _) <| .of (.wantSelection _) <| .setSmc s _

theorem Quiet.smcOpened : Quiet s s.smcOpened := by
  have act : ∀ t : State, Quiet t (match t.smc.state with
      | .operated => (t.setSmc SupplyRelay.fail).observe ⟨.supply .smc, .relayNoOperate⟩
      | .releasing => t.smcEnterOpen
      | .rest | .operating | .failed => t) := by
    intro t
    split
    · exact .of (.observe _ _) <| .setSmc t _
    · exact .smcEnterOpen t
    · exact .refl t
    · exact .refl t
    · exact .refl t
  exact .of (.judgeFlashBus _) <| .of (act _) <| .of (.wantSelection _) <| .setSmc s _

theorem Quiet.smcOperateExpiry : Quiet s s.smcOperateExpiry := .of (.observe _ _) <| .setSmc s _

theorem Quiet.smcReleaseExpiry : Quiet s s.smcReleaseExpiry :=
  .ite (.of (.supplyCutFailed _) <| .setSmc s _) (.smcEnterOpen s)

theorem Quiet.resetSmc : Quiet s s.resetSmc := by
  have tail : ∀ t : State, Quiet t (if t.smc.proof then (t.setSmc SupplyRelay.fail).supplyCutFailed else t) :=
    fun t => .ite (.of (.supplyCutFailed _) <| .setSmc t _) (.refl t)
  exact .ite (.of (tail _) <| .of (.endCond _ _) <| .of (.endCond _ _) <| .setSmc s _) (.refl s)

theorem Quiet.ftrBeginNormal : Quiet s s.ftrBeginNormal := by
  unfold State.ftrBeginNormal
  exact .setFtr s _

theorem Quiet.ftrToNormal : Quiet s s.ftrToNormal := by
  unfold State.ftrToNormal
  split
  · exact .ftrBeginNormal s
  · exact .setFtr s _
  · exact .refl s
  · exact .refl s
  · exact .refl s

theorem Quiet.ftrToFlash : Quiet s s.ftrToFlash := by
  unfold State.ftrToFlash
  split
  · exact .setFtr s _
  · exact .setFtr s _
  · exact .setFtr s _
  · exact .ite (.smcOpen s) (.refl s)
  · exact .refl s

theorem Quiet.ftrWelded : Quiet s s.ftrWelded := .of (.smcOpen _) <| .of (.observe _ _) <| .setFtr s _

theorem Quiet.ftrEnterFlash : Quiet s s.ftrEnterFlash := by
  have tail : ∀ (t : State) (b : Bool), Quiet t (if b then t.ftrBeginNormal else t) :=
    fun t b => .ite (.ftrBeginNormal t) (.refl t)
  exact .of (tail _ _) <| .setFtr s _

theorem Quiet.ftrClosed : Quiet s s.ftrClosed := by
  have act : ∀ t : State, Quiet t (match t.ftr.state with
      | .rest => t.ftrWelded
      | .operating => t.setFtr fun r => { r with state := .operated, opTimer := none }
      | .operated | .releasing | .failed => t) := by
    intro t
    split
    · exact .ftrWelded t
    · exact .setFtr t _
    · exact .refl t
    · exact .refl t
    · exact .refl t
  exact .of (.judgeFlashBus _) <| .of (act _) <| .setFtr s _

theorem Quiet.ftrOpened : Quiet s s.ftrOpened := by
  have act : ∀ t : State, Quiet t (match t.ftr.state with
      | .operated => (t.setFtr SupplyRelay.fail).observe ⟨.supply .ftr, .relayNoOperate⟩
      | .releasing => t.ftrEnterFlash
      | .rest | .operating | .failed => t) := by
    intro t
    split
    · exact .of (.observe _ _) <| .setFtr t _
    · exact .ftrEnterFlash t
    · exact .refl t
    · exact .refl t
    · exact .refl t
  exact .of (.judgeFlashBus _) <| .of (act _) <| .setFtr s _

theorem Quiet.ftrOperateExpiry : Quiet s s.ftrOperateExpiry := .of (.observe _ _) <| .setFtr s _

theorem Quiet.ftrReleaseExpiry : Quiet s s.ftrReleaseExpiry := .ite (.ftrWelded s) (.ftrEnterFlash s)

theorem Quiet.resetFtr : Quiet s s.resetFtr := by
  have tail : ∀ t : State, Quiet t (if t.ftr.proof then t.ftrWelded else t) :=
    fun t => .ite (.ftrWelded t) (.refl t)
  exact .ite (.of (tail _) <| .of (.endCond _ _) <| .of (.endCond _ _) <| .setFtr s _) (.refl s)

/-! ### The hand-over of aspects (R5) -/

/-- What commandGroup does besides the relay commands: the group's aspect is handed over. -/
theorem State.commandGroup_handed (g : Group) :
    Kept s (s.commandGroup g) ∧ (s.commandGroup g).groups.map (·.aspect) = s.groups.map (·.aspect)
      ∧ ((s.commandGroup g).handed[g]) = (s.groups[g]).aspect
      ∧ ∀ h : Group, h ≠ g → (s.commandGroup g).handed[h] = s.handed[h] := by
  have aspects : ∀ {t u : State}, Quiet t u → u.groups.map (·.aspect) = t.groups.map (·.aspect) := by
    intro t u q
    ext i hi
    obtain ⟨a, b, c, e⟩ := q.groups ⟨i, hi⟩
    simp only [Vector.getElem_map]
    have : u.groups[i] = _ := e
    rw [this]; rfl
  unfold State.commandGroup
  dsimp only
  split
  · next e => exact ⟨.refl s, rfl, e, fun _ _ => rfl⟩
  · have q : Quiet { s with handed := s.handed.set g (s.groups[g]).aspect }
        (State.each { s with handed := s.handed.set g (s.groups[g]).aspect } (List.finRange 3) fun k t =>
          if !t.work.used (chanOf g k) || (s.handed[g]).operates k == ((s.groups[g]).aspect).operates k then t
          else if ((s.groups[g]).aspect).operates k then t.operate (chanOf g k) else t.release (chanOf g k)) := by
      refine Quiet.each (fun k t => ?_) _ _
      exact .ite (.refl t) (.ite (.operate t _) (.release t _))
    have hq := aspects q
    refine ⟨(Kept.ofHanded s _).trans q.toKept, hq, ?_, fun h hn => ?_⟩
    · refine (congrArg (fun v : Vector Aspect 16 => v[g]) q.handed).trans ?_
      exact (set_get s.handed g g _).trans (if_pos rfl)
    · refine (congrArg (fun v : Vector Aspect 16 => v[h]) q.handed).trans ?_
      exact (set_get s.handed g h _).trans (if_neg (Ne.symm hn))

theorem Kept.commandGroup (g : Group) : Kept s (s.commandGroup g) := (s.commandGroup_handed g).1

theorem Kept.commandAspects : Kept s s.commandAspects :=
  .each (fun g t => .ite (.refl t) (.of (Quiet.wantSelection _).toKept <| .commandGroup t g)) _ s

end Sys2Proof.Machine
end

