-- ==== Sys2Proof/Laws/Event.lean ====
section
/-! SUPPORT. What the operations of the plan set, the sequence engine and the mode controller can do inside an event (Machine/Plans.lean, Detectors.lean, Sequence.lean, Modes.lean, Cascade.lean): each keeps what Laws/Frame.lean calls kept. -/

namespace Sys2Proof.Machine

variable (s : State)

/-! ### Quiet operations, as far as they are kept -/

theorem Kept.mark : Kept s s.mark := (Quiet.mark s).toKept

theorem Kept.occasion : Kept s s.occasion := (Quiet.occasion s).toKept

theorem Kept.ask (r : ModeReq) : Kept s (s.ask r) := (Quiet.ask s r).toKept

theorem Kept.ofEv (x : Ev) : Kept s { s with ev := x } := (Quiet.ofEv s x).toKept

theorem Kept.notify (n : Notice) : Kept s (s.notify n) := (Quiet.notify s n).toKept

theorem Kept.observe (k : Cond) : Kept s (s.observe k) := (Quiet.observe s k).toKept

theorem Kept.endCond (k : Cond) : Kept s (s.endCond k) := (Quiet.endCond s k).toKept

/-- A group's record changed but for GREEN_UNAVAILABLE. -/
theorem Kept.group (g : Group) (f : GroupRun → GroupRun) (h : ∀ r, (f r).greenUnavailable = r.greenUnavailable) :
    Kept s (s.updGroup g f) := .updGroup s g f h

/-- The aspects of two states whose groups differ in their inhibit reasons only. -/
theorem Quiet.aspect {s t : State} (h : Quiet s t) (g : Group) : (t.groups[g]).aspect = (s.groups[g]).aspect := by
  obtain ⟨a, b, c, e⟩ := h.groups g
  rw [e]

/-! ### Plans (Machine/Plans.lean) -/

theorem Kept.translateFor (ref : PlanRef) : Kept s (s.translateFor ref).1 := by
  unfold State.translateFor
  split
  · exact .observe s _
  · exact .of (.ofEngine _ _) <| .each (fun k t => .endCond t _) _ s

/-- A translation by the engine changes its plan and record alone, and the record only with the plan (R37). -/
theorem State.translateFor_spec (ref : PlanRef) :
    ((s.translateFor ref).2 = false → Quiet s (s.translateFor ref).1)
    ∧ ((s.translateFor ref).2 = true → ∃ p, s.inUse.translate ref = .ok p
      ∧ (s.translateFor ref).1.engine = { s.engine with plan := some p, record := none }
      ∧ (s.translateFor ref).1.inUse = s.inUse ∧ SameAspects s.groups (s.translateFor ref).1.groups) := by
  unfold State.translateFor
  split
  · exact ⟨fun _ => .observe s _, fun h => (nomatch h)⟩
  · next p hp =>
    have q : Quiet s (s.each translationKinds fun k t => t.endCond ⟨.plan p.number, k⟩) :=
      .each (fun k t => .endCond t _) _ s
    refine ⟨fun h => (nomatch h), fun _ => ⟨p, hp, ?_, q.inUse, q.groups⟩⟩
    dsimp only
    rw [q.engine]

theorem Kept.planChanged (c : PlanCause) (n : Option Nat) : Kept s (s.planChanged c n) := .notify s _

theorem Quiet.judgeUsable : Quiet s s.judgeUsable := .ite (.endCond s _) (.ite (.refl s) (.observe s _))

theorem Kept.judgeVoids : Kept s s.judgeVoids := .of (Quiet.judgeUsable _).toKept <| .ofInUse s _

theorem Kept.adoptSet (p : PendingSet) : Kept s (s.adoptSet p) := by
  have h : Kept s { s with inUse := p.set.setVoids s.work, pendingSet := none } :=
    (Kept.ofInUse s (p.set.setVoids s.work)).trans (Kept.ofPendingSet _ none)
  exact .of (Quiet.judgeUsable _).toKept <| .of (.each (fun k t => .endCond t _) _ _) h

theorem Kept.adoptPending : Kept s s.adoptPending := by
  unfold State.adoptPending
  split
  · exact .refl s
  · exact .of (.notify _ _) <| .adoptSet s _

/-! ### Demands (Machine/Detectors.lean) -/

theorem Kept.enterDemand (st : Fin 16) : Kept s (s.enterDemand st) :=
  .ite (.refl s) (.of (.occasion _) <| .ofEngine s _)

theorem Kept.enterDemands (d : StageSet) : Kept s (s.enterDemands d) := .each (fun st t => .enterDemand t st) _ s

theorem Kept.startGap (n : Nat) : Kept s (s.startGap n) := .ite (.ofEngine s _) (.ofEngine s _)

theorem Kept.stopGap : Kept s s.stopGap := .ofEngine s _

theorem Kept.leftForce (st : Nat) : Kept s (s.leftForce st) := by
  unfold State.leftForce
  split
  · exact .refl s
  · exact .ite (.enterDemand s _) (.refl s)

/-! ### The sequence engine (Machine/Sequence.lean) -/

theorem Kept.endGreen (g : Group) : Kept s (s.endGreen g) := by
  unfold State.endGreen
  dsimp only
  split
  · exact .of (.mark _) <| .group s g _ fun _ => rfl
  · exact .of (.mark _) <| .group s g _ fun _ => rfl
  · exact .of (.mark _) <| .group s g _ fun _ => rfl
  · exact .of (.mark _) <| .group s g _ fun _ => rfl

theorem Kept.giveGreen (g : Group) : Kept s (s.giveGreen g) :=
  .of (Quiet.wantSelection _).toKept <| .of (.mark _) <| .group s g _ fun _ => rfl

theorem Kept.dropGaining (g : Group) : Kept s (s.dropGaining g) := .of (.mark _) <| .group s g _ fun _ => rfl

/-- What the advance of a group can do: nothing; give it green at its green-release time, but not in the event in which its last inhibit reason has gone; or show RED_AMBER until that time. -/
theorem State.advanceGroup_cases (g : Group) :
    s.advanceGroup g = s
    ∨ ((s.groups[g]).pendingGreen = true ∧ (s.groups[g]).aspect ≠ .amber
        ∧ (∃ x, (s.groups[g]).greenRelease = some x ∧ x ≤ s.now) ∧ g ∉ s.ev.freed ∧ s.advanceGroup g = s.giveGreen g)
    ∨ ((s.groups[g]).pendingGreen = true ∧ (s.groups[g]).aspect = .red
        ∧ (∃ y, (s.groups[g]).redAmberStart = some y ∧ y ≤ s.now)
        ∧ s.advanceGroup g
          = (s.updGroup g fun r => { r with aspect := .redAmber, redAmberTimer := r.greenRelease }).mark) := by
  unfold State.advanceGroup
  dsimp only
  split
  · exact .inl rfl
  · rename_i h
    simp only [Bool.or_eq_true, Bool.not_eq_true', decide_eq_true_eq, not_or, Bool.not_eq_false] at h
    split
    · rename_i k
      split
      · exact .inl rfl
      · exact .inr (.inl ⟨h.1, h.2, by simpa [Option.any_eq_true] using k, ‹_›, rfl⟩)
    · split
      · rename_i k
        simp only [Bool.and_eq_true, decide_eq_true_eq] at k
        exact .inr (.inr ⟨h.1, k.1, by simpa [Option.any_eq_true] using k.2, rfl⟩)
      · exact .inl rfl

theorem Kept.advanceGroup (g : Group) : Kept s (s.advanceGroup g) := by
  obtain e | ⟨-, -, -, -, e⟩ | ⟨-, -, -, e⟩ := s.advanceGroup_cases g <;> rw [e]
  · exact .refl s
  · exact .giveGreen s g
  · exact .of (.mark _) <| .group s g _ fun _ => rfl

theorem Kept.setGaining (g : Group) (n : Nat) (o : Option Nat) : Kept s (s.setGaining g n o) :=
  .of (.advanceGroup _ g) <| .of (Quiet.wantSelection _).toKept <| .of (Quiet.surveyPending _ g).toKept <|
    .group s g _ fun _ => rfl

theorem Kept.amberEnd (g : Group) : Kept s (s.amberEnd g) := by
  unfold State.amberEnd
  dsimp only
  exact .of (.advanceGroup _ g) <| .of (.mark _) <| .group s g _ fun _ => rfl

theorem Kept.stopTimers : Kept s s.stopTimers := {}

theorem Kept.engineTo (x : EngineState) : Kept s (s.engineTo x) := {}

theorem Kept.beginGreen (k : PlanKind) (i : Nat) (r : ResolvedRecord) : Kept s (s.beginGreen k i r) := by
  have gap : ∀ t : State, Kept t (if k = .fixed then t else if t.occupied[r.stage] then t.stopGap else t.startGap r.gap) :=
    fun t => .ite (.refl t) (.ite (.stopGap t) (.startGap t _))
  exact .of (.mark _) <| .of (gap _) <| .of (.ofEngine _ _) <| .of (.engineTo _ _) <| .stopTimers s

theorem Kept.leave (old : Nat) : Kept s
    (if old = 0 then s else { s with ev := { s.ev with leftForce := s.ev.leftForce ++ [old] } }) :=
  .ite (.refl s) (.ofEv s _)

theorem Kept.beginChange (i : Nat) (r : ResolvedRecord) (entry : Bool) : Kept s (s.beginChange i r entry) := by
  have gain : ∀ (l : List Group) (t : State), Kept t (t.each l fun g t =>
      if entry then
        if t.work.groups[g].type = .vehicle then
          t.setGaining g (t.now + tenths t.work.groups[g].redAmber) (some t.now)
        else t.setGaining g t.now none
      else t.setGaining g (t.releaseTime g) (t.redAmberTime g (t.releaseTime g))) :=
    fun l t => .each (fun g u => .ite (.ite (.setGaining u g _ _) (.setGaining u g _ _)) (.setGaining u g _ _)) l t
  unfold State.beginChange
  exact .of (.mark _) <| .of (gain _ _) <| .of (.ofEngine _ _) <| .of (.each (fun g t => .endGreen t g) _ _) <|
    .of (.ofEngine _ _) <| .of (.engineTo _ _) <| .of (.stopTimers _) <| .leave s _

theorem Kept.takeChange (c : PendingChange) : Kept s (s.takeChange c).1 :=
  .of (.translateFor _ _) <| .ofEngine s _

theorem Kept.reResolve : Kept s s.reResolve := by
  have back : ∀ (t : State), Kept t (match t.engine.plan with
      | none => t
      | some p =>
        let (s, done) := t.translateFor p.ref
        if done then s
        else
          let (s, done) := s.translateFor baseRef
          if done then s else { s with engine := { s.engine with plan := none, record := none } }) := by
    intro t
    split
    · exact .refl t
    · next p _ =>
      have h := Kept.translateFor t p.ref
      dsimp only
      split
      · exact h
      · have h2 := h.trans (Kept.translateFor _ baseRef)
        split
        · exact h2
        · exact h2.trans (.ofEngine _ _)
  have h : Kept s (match s.engine.change with
      | some c => s.takeChange c
      | none => (s, false)).1 := by
    split
    · exact .takeChange s _
    · exact .refl s
  unfold State.reResolve
  exact .ite h (h.trans (back _))

theorem Kept.crossBoundary : Kept s s.crossBoundary.1 := by
  unfold State.crossBoundary
  split
  · exact .of (.planChanged _ _ _) <| .of (.reResolve _) <| .adoptSet s _
  · split
    · exact .refl s
    · next c _ =>
      have h := Kept.takeChange s c
      generalize s.takeChange c = x at h ⊢
      obtain ⟨u, done⟩ := x
      dsimp only at h ⊢
      split
      · exact h.trans (.planChanged _ _ _)
      · exact h

theorem Kept.scanPlan : Kept s s.scanPlan.1 := by
  unfold State.scanPlan
  split
  · exact .refl s
  · next p _ =>
    generalize s.engine.scanOrder p = o
    obtain ⟨before, after⟩ := o
    dsimp only
    split
    · exact .refl s
    · split
      · exact .refl s
      · have h := Kept.crossBoundary s
        generalize s.crossBoundary = x at h ⊢
        obtain ⟨u, fresh⟩ := x
        dsimp only at h ⊢
        split
        · split
          · exact h
          · exact h
        · exact h

theorem Kept.toAllRed : Kept s s.toAllRed := .of (.mark _) <| .of (.ofEngine _ _) <| .engineTo s _

theorem Kept.takeDecision : Kept s s.takeDecision := by
  unfold State.takeDecision
  refine .ite (.refl s) ?_
  split
  · exact .refl s
  · have h := Kept.scanPlan s
    generalize s.scanPlan = x at h ⊢
    obtain ⟨u, taken⟩ := x
    dsimp only at h ⊢
    split
    · split
      · exact .of (.beginGreen u _ _ _) h
      · exact .of (.beginChange u _ _ _) h
    · split
      · exact .of (.mark _) <| .of (.ofEngine _ _) <| .of (.engineTo _ _) <| .of (.stopTimers u) h
      · exact .of (.toAllRed _) <| .of (.leave _ _) <| .of (.stopTimers u) h

/-- An engine that is barred, or has no current plan, takes no decision (R61). -/
theorem State.takeDecision_none (h : s.engine.barred = true ∨ s.engine.plan = none) : s.takeDecision = s := by
  unfold State.takeDecision
  split
  · rfl
  · obtain h | h := h
    · contradiction
    · rw [h]

theorem Kept.enterPlan (c : PlanCause) : Kept s (s.enterPlan c) :=
  .of (.mark _) <| .of (.takeDecision _) <| .of (.planChanged _ _ _) <| .stopTimers s

theorem Kept.fallBack : Kept s s.fallBack.1 := by
  unfold State.fallBack
  split
  · exact .refl s
  · exact .translateFor s _

/-- What the taking of a PROMPT change can do: nothing, where none is pending; enter the plan of the change; or report the failure, and then enter P1 where no plan is current and the base reference translates (R37, R64). -/
theorem State.takePrompt_cases :
    s.takePrompt = (s, false)
    ∨ ∃ c, s.engine.change = some c ∧ c.timing = .prompt
      ∧ (((s.takeChange c).2 = true ∧ s.takePrompt = ((s.takeChange c).1.enterPlan c.origin.cause, true))
        ∨ ((s.takeChange c).2 = false ∧ (s.takeChange c).1.fallBack.2 = true
          ∧ s.takePrompt = ((s.takeChange c).1.fallBack.1.enterPlan .baseFallback, true))
        ∨ ((s.takeChange c).2 = false ∧ (s.takeChange c).1.fallBack.2 = false
          ∧ s.takePrompt = ((s.takeChange c).1.fallBack.1, false))) := by
  unfold State.takePrompt
  split
  · exact .inl rfl
  · next c e =>
    split
    · refine .inr ⟨c, e, ‹_›, ?_⟩
      dsimp only
      split
      · exact .inl ⟨‹_›, rfl⟩
      · have n := Bool.eq_false_of_not_eq_true ‹_›
        split
        · exact .inr (.inl ⟨n, ‹_›, rfl⟩)
        · exact .inr (.inr ⟨n, Bool.eq_false_of_not_eq_true ‹_›, rfl⟩)
    · exact .inl rfl

theorem Kept.takePrompt : Kept s s.takePrompt.1 := by
  obtain e | ⟨c, -, -, ⟨-, e⟩ | ⟨-, -, e⟩ | ⟨-, -, e⟩⟩ := s.takePrompt_cases <;> rw [e]
  · exact .refl s
  · exact .of (.enterPlan _ _) <| .takeChange s c
  · exact .of (.enterPlan _ _) <| .of (.fallBack _) <| .takeChange s c
  · exact .of (.fallBack _) <| .takeChange s c

theorem Kept.dropInhibited : Kept s s.dropInhibited := by
  refine Kept.each (fun g t => ?_) _ s
  dsimp only
  split
  · exact .refl t
  · have h : Kept t (if (t.groups[g]).aspect = .green then t.endGreen g else t) := .ite (.endGreen t g) (.refl t)
    exact .ite (.of (.dropGaining _ g) h) h

/-- What a gaining group of the change under way is: one sorted as gaining at its decision that waits for its green or has been given it (R56, R57). -/
theorem State.isGaining_iff (g : Group) : s.isGaining g = true ↔ s.engine.state = .changing
    ∧ s.engine.gaining[g] = true ∧ ((s.groups[g]).pendingGreen = true ∨ (s.groups[g]).aspect = .green) := by
  simp only [State.isGaining, Bool.and_eq_true, Bool.or_eq_true, decide_eq_true_eq, and_assoc]

/-- A group whose gaining is dropped is no gaining group of the change (R17, R58). -/
theorem State.dropGaining_isGaining (g : Group) (h : (s.groups[g]).aspect ≠ .green) :
    (s.dropGaining g).isGaining g = false := by
  have e : (s.dropGaining g).groups[g] = { s.groups[g] with
      aspect := if (s.groups[g]).aspect = .redAmber then .red else (s.groups[g]).aspect, pendingGreen := false
      redAmberTimer := none, greenRelease := none, redAmberStart := none } := upd_same _ _ _
  refine Bool.eq_false_of_not_eq_true fun k => ?_
  obtain ⟨-, -, k⟩ := ((s.dropGaining g).isGaining_iff g).mp k
  rw [e] at k
  obtain k | k := k
  · contradiction
  · dsimp only at k
    split at k
    · cases k
    · exact h k

theorem Kept.workChanging : Kept s s.workChanging := by
  unfold State.workChanging
  split
  · exact .refl s
  · split
    · split
      · exact .beginGreen s _ _ _
      · exact .refl s
    · exact .of (.takeDecision _) <| .toAllRed s

theorem Kept.startMaximum : Kept s s.startMaximum := by
  unfold State.startMaximum
  split
  · exact .ite (.ofEngine s _) (.refl s)
  · exact .refl s

theorem Kept.workGreen (b : Bool) : Kept s (s.workGreen b) := by
  have rest : ∀ t : State, Kept t (match t.engine.plan with
      | none => t
      | some p =>
        if p.kind = .fixed then (if t.engine.greenTimer.isNone then t.stopTimers.takeDecision else t)
        else
          let s := t.startMaximum
          if s.engine.greenTimer.isNone && (s.ev.maxOut || (s.engine.gapped && s.opposing)) then
            s.stopTimers.takeDecision
          else s) := by
    intro t
    split
    · exact .refl t
    · split
      · exact .ite (.of (.takeDecision _) <| .stopTimers t) (.refl t)
      · dsimp only
        split
        · exact .of (.takeDecision _) <| .of (.stopTimers _) <| .startMaximum t
        · exact .startMaximum t
  unfold State.workGreen
  split
  · exact .of (.takeDecision _) <| .stopTimers s
  · have h : Kept s (if s.engine.greenTimer.isNone then s.takePrompt else (s, false)).1 := by
      split
      · exact .takePrompt s
      · exact .refl s
    generalize (if s.engine.greenTimer.isNone then s.takePrompt else (s, false)) = x at h ⊢
    obtain ⟨u, taken⟩ := x
    dsimp only at h ⊢
    split
    · exact h
    · exact h.trans (rest u)

theorem Kept.workIdle (b : Bool) : Kept s (s.workIdle b) := by
  have prompt : ∀ t : State, Kept t (if t.engine.state = .resting ∨ t.engine.state = .allRed then t.takePrompt.1 else t) :=
    fun t => .ite (.takePrompt t) (.refl t)
  have go : ∀ (t : State) (g : Bool), Kept t (if g then t.takeDecision else t) :=
    fun t g => .ite (.takeDecision t) (.refl t)
  exact .of (prompt _) <| .of (go _ _) <| .ofEv s _

theorem Kept.engineWork : Kept s s.engineWork := by
  unfold State.engineWork
  split
  · exact .refl s
  · have h := Kept.dropInhibited s
    dsimp only
    split
    · exact h
    · exact .of (.workChanging _) h
    · exact .of (.workGreen _ _) h
    · exact .of (.workIdle _ _) h
    · exact .of (.workIdle _ _) h

theorem Kept.passLeftForce : Kept s s.passLeftForce :=
  .of (.each (fun st t => .leftForce t st) _ _) <| .ofEv s _

theorem Kept.leaveRunning : Kept s s.leaveRunning :=
  .of (.mark _) <| .of (.ofEngine _ _) <| .of (.engineTo _ _) <| .of (.stopTimers _) <|
    .of (.each (fun g t => .dropGaining t g) _ _) <| .leave s _

theorem Kept.endGreens : Kept s s.endGreens := .each (fun g t => .ite (.endGreen t g) (.refl t)) _ s

theorem Kept.entryChange : Kept s s.entryChange := by
  unfold State.entryChange
  split
  · exact .refl s
  · split
    · split
      · exact .beginChange s _ _ _
      · have h := Kept.scanPlan s
        generalize s.scanPlan = x at h ⊢
        obtain ⟨u, taken⟩ := x
        dsimp only at h ⊢
        split
        · exact h.trans (.beginChange u _ _ _)
        · exact h.trans (.mark u)
    · exact .refl s

theorem Kept.bar : Kept s s.bar := .of (.mark _) <| .ofEngine s _

theorem Kept.enterRunning : Kept s s.enterRunning := by
  have flash : ∀ t : State, Kept t (match t.engine.source, t.clock.valid, t.engine.tableAction with
      | .timeTable, true, .flash => t.ask .flash
      | _, _, _ => t) := by
    intro t
    split
    · exact .ask t _
    · exact .refl t
  have enter : ∀ (t : State) (done : Bool) (c : PlanCause),
      Kept t (if done then (t.planChanged c none).entryChange else t.bar) :=
    fun t done c => .ite (.of (.entryChange _) <| .planChanged t _ _) (.bar t)
  unfold State.enterRunning
  dsimp only
  have h : Kept s { s.adoptPending.engineTo .allRed with
      engine := { (s.adoptPending.engineTo .allRed).engine with stage := some 0, record := none } } :=
    .of (.ofEngine _ _) <| .of (.engineTo _ _) <| .adoptPending s
  generalize { s.adoptPending.engineTo .allRed with
      engine := { (s.adoptPending.engineTo .allRed).engine with stage := some 0, record := none } } = t at h ⊢
  have h1 := h.trans (Kept.translateFor t s.adoptPending.entryRef)
  generalize t.translateFor s.adoptPending.entryRef = x at h1 ⊢
  obtain ⟨u, done⟩ := x
  dsimp only at h1 ⊢
  have h2 : Kept s (if done then (u, true, PlanCause.entry)
      else
        let (s, done) := u.translateFor baseRef
        (s, done, PlanCause.baseFallback)).1 := by
    split
    · exact h1
    · exact h1.trans (.translateFor u baseRef)
  dsimp only at h2
  generalize (if done = true then (u, true, PlanCause.entry)
      else ((u.translateFor baseRef).1, (u.translateFor baseRef).2, PlanCause.baseFallback)) = y at h2 ⊢
  obtain ⟨v, d, c⟩ := y
  exact .of (flash _) <| .of (enter v d c) h2

/-! ### The mode controller (Machine/Modes.lean) -/

theorem Quiet.supplyCommands : Quiet s s.supplyCommands := by
  unfold State.supplyCommands
  dsimp only
  split
  · exact .of (.ftrToFlash _) <| .smcOpen s
  · exact .of (.ftrToFlash _) <| .smcOpen s
  · exact .ite (.of (.ftrToFlash _) <| .smcOpen s) (.of (.ftrToFlash _) <| .smcClose s)
  · exact .of (.ftrToFlash _) <| .smcClose s
  · exact .of (.ftrToFlash _) <| .smcClose s
  · exact .of (.ftrToNormal _) <| .smcClose s
  · exact .of (.ftrToNormal _) <| .smcClose s
  · exact .of (.ftrToNormal _) <| .smcClose s
  · exact .ite (.of (.ftrToFlash _) <| .smcOpen s) (.of (.ftrToFlash _) <| .smcClose s)

theorem Quiet.resetFailed : Quiet s s.resetFailed :=
  .of (.judgeMonitor _) <| .of (.resetFtr _) <| .of (.resetSmc _) <| .resetRelays s

theorem Kept.setAspects : Kept s s.setAspects := by
  have h : Kept s { s with groups := s.groupsByMode } := Kept.ofGroups s _ fun g => by
    unfold State.groupsByMode
    rw [mapIx_get]
    split <;> rfl
  unfold State.setAspects
  exact h.trans (.ofEv _ _)

theorem Kept.clearGreens : Kept s s.clearGreens := by
  have h : Kept s { s with groups := s.groups.map fun (r : GroupRun) =>
      { r with greenMark := false, lastGreenOff := none } } :=
    Kept.ofGroups s _ fun g => by rw [map_get]
  exact h.trans (Quiet.ofMonitor _ _).toKept

theorem Kept.modeChanged (old : Mode) : Kept s (s.modeChanged old) := .notify s _

theorem Kept.enterMode (m : Mode) : Kept s (s.enterMode m) := by
  have a : ∀ (t : State) (b : Prop) [Decidable b], Kept t (if b then t.leaveRunning else t) :=
    fun t b _ => .ite (.leaveRunning t) (.refl t)
  have b : ∀ t : State, Kept t (if m = .failsafe ∨ m = .mainsOut then t.releaseAll else t) :=
    fun t => .ite (Quiet.releaseAll t).toKept (.refl t)
  have r : ∀ t : State, Kept t (if m = .startFlash then t.resetFailed else t) :=
    fun t => .ite (Quiet.resetFailed t).toKept (.refl t)
  have c : ∀ t : State, Kept t (if m = .startRed then t.clearGreens else t) :=
    fun t => .ite (.clearGreens t) (.refl t)
  have d : ∀ t : State, Kept t (if m = .unconfigured ∨ m = .standby ∨ m = .failsafe then t.adoptPending else t) :=
    fun t => .ite (.adoptPending t) (.refl t)
  have e : ∀ t : State, Kept t (if learnEnds m none then t.learnEnd .abandoned else t) :=
    fun t => .ite (Quiet.learnEnd t _).toKept (.refl t)
  unfold State.enterMode
  exact .of (.mark _) <| .of (e _) <| .of (d _) <| .of (.modeChanged _ _) <| .of (c _) <| .of (.setAspects _) <|
    .of (Quiet.supplyCommands _).toKept <| .of (r _) <| .of (b _) <| .of (.ofMode _ _) <| a s _

theorem Kept.failsafeEntry : Kept s s.failsafeEntry := .observe s _

theorem Kept.enterFailsafe (c : Cause) (dark : Bool) : Kept s (s.enterFailsafe c dark) := by
  unfold State.enterFailsafe
  split
  · exact .refl s
  · split
    · dsimp only
      split
      · exact .of (.mark _) <| .of (Quiet.smcOpen _).toKept <| .of (.setAspects _) <| .of (.ofMode _ _) <|
          .failsafeEntry s
      · exact .failsafeEntry s
    · exact .of (.failsafeEntry _) <| .of (.enterMode _ _) <| .ofMode s _

theorem Kept.enterStartFlash : Kept s s.enterStartFlash :=
  .ite (.enterFailsafe s _ _) (.enterMode s _)

theorem Kept.enterShutdown (t : Target) (dark : Bool) : Kept s (s.enterShutdown t dark) := by
  have e : ∀ u : State, Kept u (if learnEnds .shutdown (some t) then u.learnEnd .abandoned else u) :=
    fun u => .ite (Quiet.learnEnd u _).toKept (.refl u)
  unfold State.enterShutdown
  exact .of (.mark _) <| .of (e _) <| .of (.modeChanged _ _) <| .of (Quiet.supplyCommands _).toKept <|
    .of (.ofMode _ _) <| .of (.endGreens _) <| .leaveRunning s

theorem Kept.startEndRed : Kept s s.startEndRed := .ite (.ofMode s _) (.refl s)

theorem Kept.targetFailsafe (dark : Bool) : Kept s (s.targetFailsafe dark) := .ofMode s _

theorem Kept.goRunning : Kept s s.goRunning := by
  unfold State.goRunning
  exact .of (.mark _) <| .of (.enterRunning _) <| .of (.modeChanged _ _) <| .of (Quiet.supplyCommands _).toKept <|
    .ofMode s _

theorem Kept.endRedExpiry : Kept s s.endRedExpiry := by
  unfold State.endRedExpiry
  split
  · exact .enterMode s _
  · exact .enterFailsafe s _ _
  · exact .ite (.enterMode s _) (.enterMode s _)
  · exact .ite (.enterMode s _) (.enterMode s _)

theorem Kept.modeLoss : Kept s s.modeLoss := by
  unfold State.modeLoss
  have out : ∀ r, Kept s (State.enterMode { s with mode := { s.mode with returnMode := r } } .mainsOut) :=
    fun r => .of (.enterMode _ _) <| .ofMode s _
  dsimp only
  split
  · exact .enterFailsafe s _ _
  · exact out .standby
  · exact out .startFlash
  · exact out .startFlash
  · exact out .startFlash
  · exact out .startFlash
  · exact out .startFlash
  · exact .refl s
  · exact .refl s
  · exact .refl s
  · exact .refl s

theorem Kept.modeReturn : Kept s s.modeReturn := by
  unfold State.modeReturn
  split
  · split
    · exact .enterStartFlash s
    · exact .enterMode s _
  · exact .refl s

theorem Kept.startFlashExpiry : Kept s s.startFlashExpiry := .ite (.enterMode s _) (.enterFailsafe s _ _)

theorem Kept.startRedExpiry : Kept s s.startRedExpiry := .ite (.goRunning s) (.enterFailsafe s _ _)

theorem Kept.junctionRequest (dark immediate : Bool) : Kept s (s.junctionRequest dark immediate) := by
  unfold State.junctionRequest
  split
  · exact .enterFailsafe s _ _
  · split
    · exact .refl s
    · exact .refl s
    · exact .enterFailsafe s _ _
    · exact .enterFailsafe s _ _
    · exact .enterFailsafe s _ _
    · exact .enterFailsafe s _ _
    · exact .enterFailsafe s _ _
    · exact .of (.enterShutdown _ _ _) <| .ofMode s _
    · exact .targetFailsafe s _

theorem Kept.modeRequest (r : ModeReq) : Kept s (s.modeRequest r) := by
  unfold State.modeRequest
  split
  · exact .enterFailsafe s _ _
  · exact .enterFailsafe s _ _
  · exact .junctionRequest s _ _
  · exact .ite (.enterShutdown s _ _) (.refl s)
  · exact .ite (.enterMode s _) (.refl s)

theorem Kept.modeWork : Kept s s.modeWork :=
  .of (.each (fun r t => .modeRequest t r) _ _) <| .ofEv s _

/-! ### One event (Machine/Cascade.lean) -/

theorem Kept.settle (n : Nat) : Kept s (s.settle n) := by
  induction n generalizing s with
  | zero => exact .refl s
  | succ n ih =>
    unfold State.settle
    split
    · exact .of (ih _) <| .of (.engineWork _) <| .of (.startEndRed _) <| .of (.modeWork _) <| .ofEv s _
    · split
      · exact .refl s
      · exact .of (ih _) <| .of (.mark _) <| .passLeftForce s

theorem Kept.judged (n : Nat) : Kept s (s.judged n) := by
  induction n generalizing s with
  | zero => exact .refl s
  | succ n ih =>
    unfold State.judged
    have h : Kept s (s.settle 200).judgeMonitor := .of (Quiet.judgeMonitor _).toKept <| .settle s _
    have k := h.trans (Quiet.judgeFailed _).toKept
    exact .ite (.of (ih _) h) (.ite (.of (ih _) k) k)

theorem Kept.round : Kept s s.round :=
  .of (Quiet.judgeMonitor _).toKept <| .of (.commandAspects _) <| .judged s _

theorem Kept.rounds (n : Nat) : Kept s (s.rounds n) := by
  induction n generalizing s with
  | zero => exact .refl s
  | succ n ih =>
    unfold State.rounds
    exact .ite (.of (ih _) <| .round s) (.round s)

/-- What the blocks make of an event keeps what the block that received it has left. -/
theorem Kept.spread (before : State) : Kept s (before.spread s) := by
  have tail : ∀ t : State, Kept t (if before.selectionCause t then t.wantSelection else t) :=
    fun t => .ite (Quiet.wantSelection t).toKept (.refl t)
  unfold State.spread
  exact .of (Quiet.selections _ _).toKept <| .of (tail _) <| .of (.rounds _ _) <| .mark s

end Sys2Proof.Machine
end

