-- ==== Sys2Proof/Laws/Ops.lean ====
section
/-! SUPPORT. What the shared operations outside the blocks can do: time, the job table, the end of an event, a whole event, and the arrival of a request. -/

namespace Sys2Proof.Machine

variable (s : State)

/-! ### Time (R1, R71) -/

/-- Time passes to t, the calendar clock with it; nothing where the count stands there or beyond. -/
theorem State.elapseTo_spec (t : Nat) :
    (t ≤ s.now → s.elapseTo t = s)
    ∧ (s.now < t → s.elapseTo t = { s with now := t, clock := s.clock.advance (t - s.now) }) := by
  unfold State.elapseTo
  exact ⟨fun h => if_pos h, fun h => if_neg (by omega)⟩

theorem State.elapseTo_now (t : Nat) : (s.elapseTo t).now = max s.now t := by
  rcases Nat.lt_or_ge s.now t with h | h
  · rw [(s.elapseTo_spec t).2 h]
    exact (Nat.max_eq_right h.le).symm
  · rw [(s.elapseTo_spec t).1 h, Nat.max_eq_left h]

/-- The calendar clock goes on showing a time of the week. -/
theorem Clock.Sound.advance {c : Clock} (ms : Nat) : (c.advance ms).Sound := by
  unfold Clock.advance Clock.Sound
  dsimp only
  omega

@[simp] theorem State.elapseTo_power (t : Nat) : (s.elapseTo t).power = s.power := by
  unfold State.elapseTo; split <;> rfl

@[simp] theorem State.elapseTo_edit (t : Nat) : (s.elapseTo t).edit = s.edit := by
  unfold State.elapseTo; split <;> rfl

@[simp] theorem State.elapseTo_work (t : Nat) : (s.elapseTo t).work = s.work := by
  unfold State.elapseTo; split <;> rfl

@[simp] theorem State.elapseTo_tod (t : Nat) : (s.elapseTo t).tod = s.tod := by
  unfold State.elapseTo; split <;> rfl

@[simp] theorem State.elapseTo_inUse (t : Nat) : (s.elapseTo t).inUse = s.inUse := by
  unfold State.elapseTo; split <;> rfl

@[simp] theorem State.elapseTo_pendingSet (t : Nat) : (s.elapseTo t).pendingSet = s.pendingSet := by
  unfold State.elapseTo; split <;> rfl

@[simp] theorem State.elapseTo_staging (t : Nat) : (s.elapseTo t).staging = s.staging := by
  unfold State.elapseTo; split <;> rfl

@[simp] theorem State.elapseTo_groups (t : Nat) : (s.elapseTo t).groups = s.groups := by
  unfold State.elapseTo; split <;> rfl

@[simp] theorem State.elapseTo_engine (t : Nat) : (s.elapseTo t).engine = s.engine := by
  unfold State.elapseTo; split <;> rfl

@[simp] theorem State.elapseTo_dets (t : Nat) : (s.elapseTo t).dets = s.dets := by
  unfold State.elapseTo; split <;> rfl

@[simp] theorem State.elapseTo_occupied (t : Nat) : (s.elapseTo t).occupied = s.occupied := by
  unfold State.elapseTo; split <;> rfl

@[simp] theorem State.elapseTo_relays (t : Nat) : (s.elapseTo t).relays = s.relays := by
  unfold State.elapseTo; split <;> rfl

@[simp] theorem State.elapseTo_handed (t : Nat) : (s.elapseTo t).handed = s.handed := by
  unfold State.elapseTo; split <;> rfl

@[simp] theorem State.elapseTo_smc (t : Nat) : (s.elapseTo t).smc = s.smc := by
  unfold State.elapseTo; split <;> rfl

@[simp] theorem State.elapseTo_ftr (t : Nat) : (s.elapseTo t).ftr = s.ftr := by
  unfold State.elapseTo; split <;> rfl

@[simp] theorem State.elapseTo_flashBus (t : Nat) : (s.elapseTo t).flashBus = s.flashBus := by
  unfold State.elapseTo; split <;> rfl

@[simp] theorem State.elapseTo_monitor (t : Nat) : (s.elapseTo t).monitor = s.monitor := by
  unfold State.elapseTo; split <;> rfl

@[simp] theorem State.elapseTo_lockouts (t : Nat) : (s.elapseTo t).lockouts = s.lockouts := by
  unfold State.elapseTo; split <;> rfl

@[simp] theorem State.elapseTo_meas (t : Nat) : (s.elapseTo t).meas = s.meas := by
  unfold State.elapseTo; split <;> rfl

@[simp] theorem State.elapseTo_mains (t : Nat) : (s.elapseTo t).mains = s.mains := by
  unfold State.elapseTo; split <;> rfl

@[simp] theorem State.elapseTo_lamps (t : Nat) : (s.elapseTo t).lamps = s.lamps := by
  unfold State.elapseTo; split <;> rfl

@[simp] theorem State.elapseTo_cores (t : Nat) : (s.elapseTo t).cores = s.cores := by
  unfold State.elapseTo; split <;> rfl

@[simp] theorem State.elapseTo_survey (t : Nat) : (s.elapseTo t).survey = s.survey := by
  unfold State.elapseTo; split <;> rfl

@[simp] theorem State.elapseTo_faults (t : Nat) : (s.elapseTo t).faults = s.faults := by
  unfold State.elapseTo; split <;> rfl

@[simp] theorem State.elapseTo_mode (t : Nat) : (s.elapseTo t).mode = s.mode := by
  unfold State.elapseTo; split <;> rfl

@[simp] theorem State.elapseTo_link (t : Nat) : (s.elapseTo t).link = s.link := by
  unfold State.elapseTo; split <;> rfl

@[simp] theorem State.elapseTo_store (t : Nat) : (s.elapseTo t).store = s.store := by
  unfold State.elapseTo; split <;> rfl

@[simp] theorem State.elapseTo_freeUses (t : Nat) : (s.elapseTo t).freeUses = s.freeUses := by
  unfold State.elapseTo; split <;> rfl

@[simp] theorem State.elapseTo_ev (t : Nat) : (s.elapseTo t).ev = s.ev := by
  unfold State.elapseTo; split <;> rfl

@[simp] theorem State.elapseTo_pending (t : Nat) : (s.elapseTo t).pending = s.pending := by
  unfold State.elapseTo; split <;> rfl

/-- The passing of time keeps the bounds. -/
theorem State.Sound.elapseTo {s : State} (h : s.Sound) (t : Nat) : (s.elapseTo t).Sound := by
  rcases Nat.lt_or_ge s.now t with g | g
  · rw [(s.elapseTo_spec t).2 g]
    obtain ⟨a, b, c, _, d⟩ := h
    exact ⟨a, b, c, Clock.Sound.advance _, d⟩
  · rw [(s.elapseTo_spec t).1 g]; exact h

theorem State.GreensAvailable.elapseTo {s : State} (h : s.GreensAvailable) (t : Nat) :
    (s.elapseTo t).GreensAvailable := fun g => by simpa using h g

/-! ### Jobs (R180) -/

/-- A job is entered with the next job number, and the number after it avoids those in the table while it can. -/
theorem State.addJob_spec (k : JobKind) (l : Timer) :
    (s.addJob k l).link = { s.link with
      jobs := s.link.jobs ++ [⟨s.link.nextJob, k, l, []⟩]
      nextJob := nextNumber (s.link.jobs ++ [⟨s.link.nextJob, k, l, []⟩]) 5 s.link.nextJob } := rfl

/-- A job that stands in the table leaves it with its notice; where none stands nothing happens. -/
theorem State.endJob_spec (k : JobKind) (r : JobResult) (items : JobItems) :
    (s.job? k = none → s.endJob k r items = s)
    ∧ (∀ j, s.job? k = some j → s.endJob k r items
        = State.notify { s with link := { s.link with jobs := s.link.jobs.filter (·.kind ≠ k) } }
            (.jobDone j.number k r items)) := by
  unfold State.endJob
  constructor
  · intro h; rw [h]
  · intro j h; rw [h]

/-- After the end of a job the table holds none of its kind, and the others as before. -/
theorem State.endJob_jobs (k : JobKind) (r : JobResult) (items : JobItems) :
    (s.endJob k r items).link.jobs = s.link.jobs.filter (·.kind ≠ k) := by
  have jobs : ∀ (t : State) (n : Notice), (t.notify n).link.jobs = t.link.jobs := by
    intro t n
    unfold State.notify
    split <;> rfl
  cases h : s.job? k with
  | none =>
    rw [(s.endJob_spec k r items).1 h]
    refine (List.filter_eq_self.mpr fun j hj => ?_).symm
    have := (List.find?_eq_none.mp h) j hj
    simpa using this
  | some j => rw [(s.endJob_spec k r items).2 j h, jobs]

/-! ### The end of an event (R108, R182, R184) -/

/-- A notice queued changes the notice queue and the lost flag alone. -/
theorem State.notify_spec (n : Notice) :
    (s.link.notices.length < 16 → s.notify n = { s with link := { s.link with notices := s.link.notices ++ [n] } })
    ∧ (16 ≤ s.link.notices.length → s.notify n = { s with link := { s.link with lost := true } }) := by
  unfold State.notify
  exact ⟨fun h => if_pos h, fun h => if_neg (by omega)⟩

/-- The transmitter's choice changes the link alone, and of it the frame in transmission, the busy list, the notices and the lost flag. -/
theorem State.transmit_spec : ∃ x b n l, s.transmit = { s with
      link := { s.link with tx := x, busy := b, notices := n, lost := l } }
    ∧ b.length ≤ s.link.busy.length ∧ n.length ≤ s.link.notices.length := by
  unfold State.transmit
  split
  · exact ⟨_, _, _, _, rfl, le_rfl, le_rfl⟩
  · split
    · next e => exact ⟨_, _, _, _, rfl, by rw [e]; simp, le_rfl⟩
    · split
      · exact ⟨_, _, _, _, rfl, le_rfl, le_rfl⟩
      · split
        · next e => exact ⟨_, _, _, _, rfl, le_rfl, by rw [e]; simp⟩
        · exact ⟨_, _, _, _, rfl, le_rfl, le_rfl⟩

/-- The store's choice changes the store alone: nothing while a write is in progress or none waits; else the oldest request becomes the write in progress. -/
theorem State.beginWrite_spec :
    (∀ w, s.store.writing = some w → s.beginWrite = s) ∧ (s.store.queue = [] → s.beginWrite = s)
    ∧ (∀ k ks, s.store.writing = none → s.store.queue = k :: ks → ∃ st, s.beginWrite = { s with store := st }
      ∧ st.queue = ks ∧ st.writing = some
        { image := k, generation := nextGeneration (s.store.image k).generation, content := s.imageContent k
          forCommit := (k = .config && s.hasJob .commitConfig) || (k = .plans && s.hasJob .commitPlans) }
      ∧ st.blocks k = none ∧ st.image k = ⟨0, false⟩
      ∧ ∀ x, x ≠ k → st.blocks x = s.store.blocks x ∧ st.image x = s.store.image x) := by
  unfold State.beginWrite
  refine ⟨fun w h => ?_, fun h => ?_, fun k ks h g => ?_⟩
  · rw [h]
  · rw [h]; cases s.store.writing <;> rfl
  · rw [h, g]
    refine ⟨_, rfl, rfl, rfl, ?_, ?_, fun x hx => ?_⟩
    · cases k <;> rfl
    · cases k <;> rfl
    · cases k <;> cases x <;> first | exact absurd rfl hx | exact ⟨rfl, rfl⟩

/-- The grant changes the scheduler alone: the request granted leaves the queue. -/
theorem State.grant_spec : ∃ m, s.grant = { s with meas := m } ∧ m.queue.Sublist s.meas.queue := by
  unfold State.grant
  split
  · split
    · exact ⟨_, rfl, .refl _⟩
    · dsimp only
      split
      · exact ⟨_, rfl, List.erase_sublist⟩
      · exact ⟨_, rfl, List.erase_sublist⟩
  · exact ⟨_, rfl, .refl _⟩

/-- The end of an event changes the scheduler, the link and the store alone, and clears what the blocks passed one another. -/
theorem State.close_spec : ∃ m l st, s.close = { s with meas := m, link := l, store := st, ev := .none }
    ∧ l.rx = s.link.rx ∧ l.rxTimer = s.link.rxTimer ∧ l.queue = s.link.queue ∧ l.slot = s.link.slot
    ∧ l.jobs = s.link.jobs ∧ l.nextJob = s.link.nextJob ∧ l.restarting = s.link.restarting := by
  obtain ⟨m, hm, -⟩ := s.grant_spec
  unfold State.close State.finish
  rw [hm]
  have w : ∃ st, State.beginWrite { s with meas := m, ev := .none } = { s with meas := m, ev := .none, store := st } := by
    generalize hu : ({ s with meas := m, ev := .none } : State) = u
    obtain ⟨a, b, c⟩ := u.beginWrite_spec
    cases e : u.store.writing with
    | some w => exact ⟨_, by rw [a w e, ← hu]⟩
    | none =>
      cases f : u.store.queue with
      | nil => exact ⟨_, by rw [b f, ← hu]⟩
      | cons k ks =>
        obtain ⟨st, h, -⟩ := c k ks e f
        exact ⟨st, by rw [h, ← hu]⟩
  obtain ⟨st, hst⟩ := w
  rw [hst]
  obtain ⟨x, b, n, l, h, -⟩ := State.transmit_spec { s with meas := m, ev := .none, store := st }
  exact ⟨m, _, st, h, rfl, rfl, rfl, rfl, rfl, rfl, rfl⟩

/-- An image's content formed from a sound state is sound. -/
theorem State.Sound.imageContent {s : State} (h : s.Sound) (k : ImageKind) : (s.imageContent k).Sound := by
  cases k with
  | config => trivial
  | plans => trivial
  | survey =>
    intro c
    show CoreSurvey.Sound ((mapIx s.cores fun _ r => r.hist)[c])
    rw [mapIx_get]
    exact h.2.2.2.2.2.2.2 c

/-- The end of an event keeps the bounds. -/
theorem State.Sound.close {s : State} (h : s.Sound) : s.close.Sound := by
  obtain ⟨m, hm, hq⟩ := s.grant_spec
  have g : State.Sound { s with meas := m, ev := .none } := by
    obtain ⟨a, b, c, d, e, f⟩ := h
    exact ⟨a, b, c, d, List.Pairwise.sublist hq e, f⟩
  have w : State.Sound (State.beginWrite { s with meas := m, ev := .none }) := by
    generalize ({ s with meas := m, ev := .none } : State) = u at g
    obtain ⟨a, b, c⟩ := u.beginWrite_spec
    cases e : u.store.writing with
    | some w => rw [a w e]; exact g
    | none =>
      cases f : u.store.queue with
      | nil => rw [b f]; exact g
      | cons k ks =>
        obtain ⟨st, h, hq, hw, hb, -, ho⟩ := c k ks e f
        rw [h]
        have content := g.imageContent k
        obtain ⟨x1, x2, ⟨x3, x4, x5⟩, x6⟩ := g
        refine ⟨x1, x2, ⟨?_, ?_, ?_⟩, x6⟩
        · show st.queue.Nodup
          rw [hq]; rw [f] at x3; exact (List.nodup_cons.mp x3).2
        · intro y hy
          by_cases hk : ImageKind.survey = k
          · have : st.blocks .survey = none := by rw [hk]; exact hb
            exact absurd (hy.symm.trans this) (by simp)
          · exact x4 y ((ho _ hk).1.symm.trans hy)
        · intro w hy
          have e : w = _ := Option.some.inj (hy.symm.trans hw)
          rw [e]; exact content
  unfold State.close State.finish
  rw [hm]
  obtain ⟨x, b, n, l, ht, hb, hn⟩ := State.transmit_spec (State.beginWrite { s with meas := m, ev := .none })
  rw [ht]
  obtain ⟨y1, ⟨y2, y3, y4, y5⟩, y6⟩ := w
  exact ⟨y1, ⟨y2, hb.trans y3, hn.trans y4, y5⟩, y6⟩

theorem State.GreensAvailable.close {s : State} (h : s.GreensAvailable) : s.close.GreensAvailable := by
  obtain ⟨m, l, st, e, -⟩ := s.close_spec
  rw [e]; exact h

/-! ### A whole event, and a timer's event -/

/-- A whole event keeps the bounds, whatever the block that received it has done within them. -/
theorem State.Sound.cascade (before : State) {s : State} (h : s.Sound) : (before.cascade s).Sound :=
  ((Kept.spread s before).sound h).close

theorem State.GreensAvailable.cascade (before : State) {s : State} (h : s.GreensAvailable) :
    (before.cascade s).GreensAvailable := State.GreensAvailable.close ((Kept.spread s before).greens h)

/-- The event of a timer: nothing while it is stopped; else what its block does at its end is spread. -/
theorem State.due_spec (t : Timer) (f : State → State) :
    (t = none → s.due t f = s)
    ∧ (∀ e, t = some e → s.due t f = (s.elapseTo e).cascade (f (s.elapseTo e))) :=
  ⟨fun h => by rw [h]; rfl, fun e h => by rw [h]; rfl⟩

/-- A timer's event keeps a property that time, its block and every whole event keep. -/
theorem State.due_induct {P : State → Prop} {s : State} (t : Timer) (f : State → State) (h : P s)
    (time : ∀ e, P (s.elapseTo e)) (block : ∀ u, P u → P (f u)) (event : ∀ u v, P u → P v → P (u.cascade v)) :
    P (s.due t f) := by
  cases t with
  | none => exact h
  | some e => exact event _ _ (time e) (block _ (time e))

/-! ### The arrival of a request (R176) -/

/-- A request that arrives is discarded, received, or taken in its own event with its answer in the slot. -/
theorem State.arrive_spec (i : Instr) (act : State → Answer) (restarts : Bool) :
    (s.listening = false → s.arrive i act restarts = s)
    ∧ (s.listening = true → ¬(s.link.queue = [] ∧ s.link.slot = none) →
        s.arrive i act restarts = (s.receive (.command i)).close)
    ∧ (s.listening = true → s.link.queue = [] → s.link.slot = none →
        s.arrive i act restarts
          = State.close ((act s).1.putReply ⟨requestTag i, (act s).2.1, (act s).2.2, restarts⟩)) := by
  unfold State.arrive State.serve
  refine ⟨fun h => by simp [h], fun h g => ?_, fun h g k => by simp [h, g, k]⟩
  rw [if_neg (by simp [h]), if_neg]
  simpa [List.isEmpty_iff] using g

/-- A request received joins the queue, or its TAG the busy list, or is discarded. -/
theorem State.receive_spec (r : Received) :
    (s.link.queue.length < 4 → s.receive r = { s with link := { s.link with queue := s.link.queue ++ [r] } })
    ∧ (4 ≤ s.link.queue.length → s.link.busy.length < 4 →
        s.receive r = { s with link := { s.link with busy := s.link.busy ++ [r.tag] } })
    ∧ (4 ≤ s.link.queue.length → 4 ≤ s.link.busy.length → s.receive r = s) := by
  unfold State.receive
  refine ⟨fun h => if_pos h, fun h g => ?_, fun h g => ?_⟩
  · rw [if_neg (by omega), if_pos g]
  · rw [if_neg (by omega), if_neg (by omega)]

end Sys2Proof.Machine
end

