-- ==== Sys2Proof/Laws/Safety.lean ====
section
/-! SUPPORT. The conflict law, the intergreen law and the aspects of the modes under the quiet operations, under the passing of time and at the end of an event; and the facts about plans, greens and mode aspects from which the other operations keep them. -/

namespace Sys2Proof.Machine

/-! ### Quiet operations -/

theorem Quiet.group {s t : State} (h : Quiet s t) (g : Group) :
    (t.groups[g]).aspect = (s.groups[g]).aspect ∧ (t.groups[g]).pendingGreen = (s.groups[g]).pendingGreen
      ∧ (t.groups[g]).amberTimer = (s.groups[g]).amberTimer
      ∧ (t.groups[g]).redAmberTimer = (s.groups[g]).redAmberTimer
      ∧ (t.groups[g]).greenRelease = (s.groups[g]).greenRelease
      ∧ (t.groups[g]).lastGreenOff = (s.groups[g]).lastGreenOff
      ∧ (t.groups[g]).greenMark = (s.groups[g]).greenMark := by
  obtain ⟨a, b, c, e⟩ := h.groups g
  rw [e]
  exact ⟨rfl, rfl, rfl, rfl, rfl, rfl, rfl⟩

theorem Quiet.calls {s t : State} (h : Quiet s t) (g : Group) : (t.groups[g]).calls = (s.groups[g]).calls := by
  obtain ⟨a, p, -⟩ := h.group g
  unfold GroupRun.calls
  rw [a, p]

theorem Quiet.modeMode {s t : State} (h : Quiet s t) : t.mode.mode = s.mode.mode := by
  obtain ⟨b, e⟩ := h.mode
  rw [e]

theorem Quiet.modeStyle {s t : State} (h : Quiet s t) : t.mode.style = s.mode.style := by
  obtain ⟨b, e⟩ := h.mode
  rw [e]

theorem Kept.hasConfigJob {s t : State} (h : Kept s t) : t.hasJob .commitConfig = s.hasJob .commitConfig := by
  unfold State.hasJob
  rw [h.configJob]

theorem Kept.writing {s t : State} (h : Kept s t) : t.store.writing = s.store.writing := by
  obtain ⟨q, e, -⟩ := h.store
  rw [e]

/-- A quiet operation keeps the conflict law. -/
theorem Quiet.lawful {s t : State} (h : Quiet s t) (x : s.Lawful) : t.Lawful where
  peaceful := fun i j n a b => by
    rw [h.calls] at a b
    rw [h.work]; exact x.peaceful i j n a b
  records := by rw [h.engine, h.work]; exact x.records
  voids := by
    have := x.voids
    unfold State.VoidsSet at this ⊢
    rw [h.inUse, h.work]; exact this
  gaining := fun g a => by
    rw [(h.group g).2.1] at a
    rw [h.engine]; exact x.gaining g a
  redAmber := fun g a => by
    rw [(h.group g).2.2.2.1] at a
    rw [(h.group g).2.1]; exact x.redAmber g a
  engine := by rw [h.modeMode, h.engine]; exact x.engine
  commit := by rw [h.hasConfigJob, h.modeMode]; exact x.commit
  write := by rw [h.writing, h.hasConfigJob]; exact x.write
  start := by rw [h.power, h.modeMode, h.hasConfigJob, h.queue]; exact x.start

/-- A quiet operation keeps the intergreen law. -/
theorem Quiet.timed {s t : State} (h : Quiet s t) (x : s.Timed) : t.Timed where
  release := fun j a => by
    rw [(h.group j).2.1] at a
    obtain ⟨r, e, f⟩ := x.release j a
    refine ⟨r, by rw [(h.group j).2.2.2.2.1]; exact e, fun i ig off n c m l => ?_⟩
    rw [h.work] at c
    rw [(h.group i).2.2.2.2.2.2] at m
    rw [(h.group i).2.2.2.2.2.1] at l
    exact f i ig off n c m l
  redAmber := fun j e a => by
    rw [(h.group j).2.2.2.1] at a
    rw [(h.group j).2.2.2.2.1]; exact x.redAmber j e a
  redAmberAspect := fun g a => by
    rw [(h.group g).2.2.2.1] at a
    rw [(h.group g).1]; exact x.redAmberAspect g a
  amber := fun g a => by
    rw [(h.group g).2.2.1] at a
    rw [(h.group g).1]; exact x.amber g a
  marked := fun i a => by
    rw [(h.group i).2.2.2.2.2.2] at a
    rw [(h.group i).1, (h.group i).2.2.2.2.2.1]; exact x.marked i a
  startRed := fun m i => by
    rw [h.modeMode] at m
    rw [(h.group i).2.2.2.2.2.2]; exact x.startRed m i

/-- A quiet operation keeps the aspects of the mode. -/
theorem Quiet.byMode {s t : State} (h : Quiet s t) (x : s.ByMode) : t.ByMode := fun a b g => by
  rw [h.modeMode] at a b
  have := x a b g
  rw [h.modeMode, h.modeStyle, h.work, (h.group g).1, (h.group g).2.1, (h.group g).2.2.1, (h.group g).2.2.2.1,
    (h.group g).2.2.2.2.1]
  exact this

/-! ### Time, and the end of an event -/

theorem State.Lawful.elapseTo {s : State} (x : s.Lawful) (n : Nat) : (s.elapseTo n).Lawful := by
  rcases Nat.lt_or_ge s.now n with g | g
  · rw [(s.elapseTo_spec n).2 g]
    exact ⟨x.peaceful, x.records, x.voids, x.gaining, x.redAmber, x.engine, x.commit, x.write, x.start⟩
  · rw [(s.elapseTo_spec n).1 g]; exact x

theorem State.Timed.elapseTo {s : State} (x : s.Timed) (n : Nat) : (s.elapseTo n).Timed := by
  rcases Nat.lt_or_ge s.now n with g | g
  · rw [(s.elapseTo_spec n).2 g]
    exact ⟨x.release, x.redAmber, x.redAmberAspect, x.amber, x.marked, x.startRed⟩
  · rw [(s.elapseTo_spec n).1 g]; exact x

theorem State.ByMode.elapseTo {s : State} (x : s.ByMode) (n : Nat) : (s.elapseTo n).ByMode := by
  rcases Nat.lt_or_ge s.now n with g | g
  · rw [(s.elapseTo_spec n).2 g]; exact x
  · rw [(s.elapseTo_spec n).1 g]; exact x

/-- The end of an event keeps the conflict law: a write that it begins for a commit has its job in the table. -/
theorem State.Lawful.close {s : State} (x : s.Lawful) : s.close.Lawful := by
  obtain ⟨m, hm, -⟩ := s.grant_spec
  have y : State.Lawful { s with meas := m, ev := .none } :=
    ⟨x.peaceful, x.records, x.voids, x.gaining, x.redAmber, x.engine, x.commit, x.write, x.start⟩
  have w : State.Lawful (State.beginWrite { s with meas := m, ev := .none }) := by
    generalize ({ s with meas := m, ev := .none } : State) = u at y
    obtain ⟨a, b, c⟩ := u.beginWrite_spec
    cases e : u.store.writing with
    | some w => rw [a w e]; exact y
    | none =>
      cases f : u.store.queue with
      | nil => rw [b f]; exact y
      | cons k ks =>
        obtain ⟨st, h, -, hw, -⟩ := c k ks e f
        rw [h]
        refine ⟨y.peaceful, y.records, y.voids, y.gaining, y.redAmber, y.engine, y.commit, ?_, y.start⟩
        intro w hy fc im
        have e : w = _ := Option.some.inj (hy.symm.trans hw)
        subst e
        dsimp only at fc im
        subst im
        have fc : u.hasJob .commitConfig = true := by simpa using fc
        exact fc
  unfold State.close State.finish
  rw [hm]
  obtain ⟨a, b, n, l, ht, -⟩ := State.transmit_spec (State.beginWrite { s with meas := m, ev := .none })
  rw [ht]
  exact ⟨w.peaceful, w.records, w.voids, w.gaining, w.redAmber, w.engine, w.commit, w.write, w.start⟩

theorem State.Timed.close {s : State} (x : s.Timed) : s.close.Timed := by
  obtain ⟨m, l, st, e, -⟩ := s.close_spec
  rw [e]
  exact ⟨x.release, x.redAmber, x.redAmberAspect, x.amber, x.marked, x.startRed⟩

theorem State.ByMode.close {s : State} (x : s.ByMode) : s.close.ByMode := by
  obtain ⟨m, l, st, e, -⟩ := s.close_spec
  rw [e]; exact x

/-! ### Plans (R24, R25, R35, R36) -/

/-- A set of groups fit to be shown holds no two that conflict. -/
theorem Settings.peaceful_of_fit {cfg : Settings} {gs : GroupSet} (h : cfg.fit gs = true) : cfg.Peaceful gs := by
  intro i j n hi hj
  unfold Settings.fit at h
  have mem : ∀ g : Group, gs[g] = true → g ∈ members gs := fun g hg => by
    exact List.mem_filter.mpr ⟨List.mem_finRange g, hg⟩
  have a := List.all_eq_true.mp h i (mem i hi)
  rw [Bool.and_eq_true] at a
  have b := List.all_eq_true.mp a.2 j (mem j hj)
  simpa [n] using b

/-- A set with no member holds no two that conflict. -/
theorem Settings.peaceful_of_unwritten {cfg : Settings} {d : StageDef} (h : d.written = false) :
    cfg.Peaceful d.groups := by
  intro i j _ hi _
  unfold StageDef.written at h
  have : d.groups.toList.any id = true := by
    refine List.any_eq_true.mpr ⟨d.groups[i], ?_, hi⟩
    simp
  rw [this] at h
  exact absurd h (by simp)

/-- Void marks set by a copy of the configuration leave no stage definition unmarked whose groups conflict under it (R25). -/
theorem PlanSet.setVoids_peaceful (ps : PlanSet) (cfg : Settings) (st : Fin 16)
    (h : ((ps.setVoids cfg).stages[st]).void = false) : cfg.Peaceful ((ps.setVoids cfg).stages[st]).groups := by
  unfold PlanSet.setVoids at h ⊢
  dsimp only at h ⊢
  rw [map_get] at h ⊢
  by_cases w : (ps.stages[st]).written = true
  · rw [if_pos w] at h ⊢
    exact Settings.peaceful_of_fit (by simpa using h)
  · rw [if_neg w]
    exact Settings.peaceful_of_unwritten (by simpa using w)

theorem State.voidsSet_of_setVoids {s : State} {ps : PlanSet} (h : s.inUse = ps.setVoids s.work) : s.VoidsSet := by
  intro st
  rw [h]
  exact ps.setVoids_peaceful s.work st

/-- Every record of a resolved plan holds the groups of a defined stage definition (R35, R36). -/
theorem PlanSet.translate_records {ps : PlanSet} {ref : PlanRef} {p : ResolvedPlan} (h : ps.translate ref = .ok p) :
    ∀ r ∈ p.records, (ps.stages[r.stage]).defined = true ∧ r.groups = (ps.stages[r.stage]).groups := by
  have one : ∀ n r, ps.resolveRecord n = some r →
      (ps.stages[r.stage]).defined = true ∧ r.groups = (ps.stages[r.stage]).groups := by
    intro n r h
    unfold PlanSet.resolveRecord at h
    split at h
    · cases h
    · split at h
      · cases h
      · split at h
        · next d => cases h; exact ⟨d, rfl⟩
        · cases h
  have all : ∀ (l : List Nat) (f : Nat → Nat) rs, l.mapM (fun i => ps.resolveRecord (f i)) = some rs →
      ∀ r ∈ rs, (ps.stages[r.stage]).defined = true ∧ r.groups = (ps.stages[r.stage]).groups := by
    intro l f
    induction l with
    | nil => intro rs h r hr; cases h; cases hr
    | cons a l ih =>
      intro rs h r hr
      rw [List.mapM_cons] at h
      cases e : ps.resolveRecord (f a) with
      | none => rw [e] at h; cases h
      | some x =>
        rw [e] at h
        cases e' : l.mapM (fun i => ps.resolveRecord (f i)) with
        | none => rw [e'] at h; cases h
        | some xs =>
          rw [e'] at h
          cases h
          rcases List.mem_cons.mp hr with rfl | hr
          · exact one _ _ e
          · exact ih xs e' r hr
  unfold PlanSet.translate at h
  split at h
  · cases h
  · split at h
    · cases h
    · split at h
      · cases h
      · split at h
        · cases h
        · split at h
          · cases h
          · split at h
            · cases h
            · next e => cases h; exact all _ _ _ e

/-- The records of a plan translated against the set in use hold no two groups that conflict. -/
theorem State.VoidsSet.records {s : State} (x : s.VoidsSet) {ref : PlanRef} {p : ResolvedPlan}
    (h : s.inUse.translate ref = .ok p) : ∀ r ∈ p.records, s.work.Peaceful r.groups := by
  intro r hr
  obtain ⟨d, e⟩ := PlanSet.translate_records h r hr
  rw [e]
  unfold StageDef.defined at d
  rw [Bool.and_eq_true, Bool.not_eq_true'] at d
  exact x r.stage d.2

/-! ### Greens (R8, R19, R20, R21) -/

/-- Giving green to a gaining group changes no call for green. -/
theorem GroupRun.given_calls (r : GroupRun) : r.given.calls = true := by
  simp [GroupRun.given, GroupRun.calls]

/-- No aspect that a mode sets is GREEN (Table 1-5). -/
theorem modeAspect_ne_green (m : Mode) (d y : Display) (t : GroupType) : modeAspect m d y t ≠ some .green := by
  cases m <;> cases d <;> cases y <;> cases t <;> decide

/-- In a mode that sets the aspects no group calls for green. -/
theorem GroupRun.setByMode_calls (r : GroupRun) (a : Aspect) (n : Nat) (h : a ≠ .green) :
    (r.setByMode a n).calls = false := by
  simp [GroupRun.setByMode, GroupRun.calls, h]

/-- The aspects of Table 1-5 leave every group's record as setByMode gives, and RUNNING and SHUTDOWN as it was. -/
theorem State.setAspects_get (s : State) (g : Group) : (s.setAspects.groups)[g]
    = match modeAspect s.mode.mode s.work.junction.standbyDisplay s.mode.style s.work.groups[g].type with
      | some a => (s.groups[g]).setByMode a s.now
      | none => s.groups[g] := by
  unfold State.setAspects State.groupsByMode
  dsimp only
  rw [mapIx_get]
  all_goals rfl

/-- A mode other than RUNNING and SHUTDOWN sets an aspect for every type. -/
theorem modeAspect_some (m : Mode) (d y : Display) (t : GroupType) (h : m ≠ .running) (k : m ≠ .shutdown) :
    ∃ a, modeAspect m d y t = some a := by
  cases m <;> first | exact absurd rfl h | exact absurd rfl k | exact ⟨_, rfl⟩

/-- The setting of the aspects gives what R9 asks. -/
theorem State.byMode_setAspects (s : State) : s.setAspects.ByMode := by
  intro a b g
  rw [s.setAspects_get g]
  obtain ⟨x, e⟩ := modeAspect_some s.mode.mode s.work.junction.standbyDisplay s.mode.style s.work.groups[g].type a b
  rw [e]
  exact ⟨e, rfl, rfl, rfl, rfl⟩

/-- A green-release time is no earlier than the decision and than the intergreen after the last green-off of every marked group (R21). -/
theorem State.releaseTime_ge (s : State) (j : Group) :
    s.now ≤ s.releaseTime j ∧ ∀ (i : Group) (ig off : Nat), s.work.ig[i][j] = some ig →
      (s.groups[i]).greenMark = true → (s.groups[i]).lastGreenOff = some off → off + tenths ig ≤ s.releaseTime j := by
  let step : Nat → Group → Nat := fun t i => match s.work.ig[i][j], (s.groups[i]).lastGreenOff with
    | some ig, some off => if (s.groups[i]).greenMark then max t (off + tenths ig) else t
    | _, _ => t
  have up : ∀ t i, t ≤ step t i := by
    intro t i
    dsimp only [step]
    split
    · split
      · exact Nat.le_max_left _ _
      · exact Nat.le_refl _
    · exact Nat.le_refl _
  have mono : ∀ (l : List Group) t, t ≤ l.foldl step t := by
    intro l
    induction l with
    | nil => exact fun t => Nat.le_refl t
    | cons a l ih => exact fun t => (up t a).trans (ih _)
  have hit : ∀ (l : List Group) t (i : Group) (ig off : Nat), i ∈ l → s.work.ig[i][j] = some ig →
      (s.groups[i]).greenMark = true → (s.groups[i]).lastGreenOff = some off → off + tenths ig ≤ l.foldl step t := by
    intro l
    induction l with
    | nil => intro t i ig off hi; cases hi
    | cons a l ih =>
      intro t i ig off hi h m o
      rcases List.mem_cons.mp hi with rfl | hi
      · refine Nat.le_trans ?_ (mono l _)
        dsimp only [step]
        rw [h, o, m]
        exact Nat.le_max_right _ _
      · exact ih _ i ig off hi h m o
  have base : ∀ x, allGroups.foldl step s.now ≤ (if (s.groups[j]).aspect = .amber then
      max (allGroups.foldl step s.now) x else allGroups.foldl step s.now) := by
    intro x
    split
    · exact Nat.le_max_left _ _
    · exact Nat.le_refl _
  refine ⟨(mono _ _).trans (base _), fun i ig off h m o => (hit allGroups s.now i ig off ?_ h m o).trans (base _)⟩
  exact List.mem_finRange i

end Sys2Proof.Machine
end

