-- ==== Sys2Proof/WellFormed.lean ====
section
/-! DEFINITION. Well-formed commands: the numbers and lists a request may carry, and the readings an event may bring. A request field of a well-formed command may still lie outside the values its rule accepts; the controller then refuses it (R177). -/

namespace Sys2Proof

/-- A number that two bytes of a payload can carry. -/
def fits (n : Nat) : Bool := decide (n < 65536)

/-- A number that one byte of a payload can carry (Section 2.7). -/
def fitsByte (n : Nat) : Bool := decide (n < 256)

/-- Both fields of a plan reference are bytes (Section 2.7). -/
def wfRef (r : PlanRef) : Bool := fitsByte r.plan && fitsByte r.tag

/-- A list of stage numbers fits a payload of at most 240 bytes (R174). -/
def wfStages (l : List Nat) : Bool := decide (l.length ≤ 240) && l.all fitsByte

/-- The fields of a SET_GROUP. -/
def GroupFields.wf (f : GroupFields) : Bool :=
  fits f.amber && fits f.redAmber && fitsByte f.lampsRed && fitsByte f.lampsAmber && fitsByte f.lampsGreen
    && fitsByte f.rmin

/-- The fields of a SET_CHANNEL that names a channel. -/
def ChannelFields.wf (f : ChannelFields) : Bool := fits f.nominal && fits f.operateLimit && fits f.releaseLimit

/-- The fields of a SET_RESPONSE that names JUNCTION. -/
def JunctionFields.wf (f : JunctionFields) : Bool := fits f.startFlash && fits f.startRed && fits f.endRed

/-- The fields of a SET_DETECTOR. -/
def DetectorFields.wf (f : DetectorFields) : Bool :=
  wfStages f.demands && f.extend.all fitsByte && fits f.debounce && fits f.stuckOn && fits f.quiet

/-- The role a SET_CORE carries. -/
def RoleField.wf : RoleField → Bool
  | .load c => fitsByte c
  | .common | .spare | .unused | .other => true

/-- The channel a SET_THRESHOLDS names. -/
def ChannelSel.wf : ChannelSel → Bool
  | .all => true
  | .one c => fitsByte c

/-- The threshold a SET_THRESHOLDS carries. -/
def LeakThreshold.wf : LeakThreshold → Bool
  | .milliamps x => fits x
  | .typeDefault => true

/-- The parts of a SET_THRESHOLDS. -/
def ThresholdFields.wf (f : ThresholdFields) : Bool :=
  f.leak.all (fun x => x.1.wf && x.2.wf) && f.warn.all fits && f.low.all fits && f.hours.all fits && f.lampK.all fits
    && f.cableK.all fits && f.holdMin.all fits

/-- The fields of a RECORD item. -/
def RecordFields.wf (f : RecordFields) : Bool := fitsByte f.stage && fits f.min && fits f.max && fits f.gap

/-- The fields of a present ENTRY item. -/
def EntryFields.wf (f : EntryFields) : Bool := fits f.tag && fitsByte f.first && fitsByte f.count && fitsByte f.start

/-- The item of a READ_PLAN. -/
def PlanItem.wf : PlanItem → Bool
  | .plan r => wfRef r
  | .directory => true
  | .stage n => fitsByte n
  | .record n => fitsByte n
  | .other => true

/-- The action of a TOD_WRITE. -/
def TodAction.wf : TodAction → Bool
  | .plan r => wfRef r
  | .flash => true
  | .base => true

/-- The target of a TOD_DELETE. -/
def TodTarget.wf : TodTarget → Bool
  | .all => true
  | .entry _ h m => fitsByte h && fitsByte m

/-- The name of a READ_CHANNEL. -/
def ChannelName.wf : ChannelName → Bool
  | .channel c => fitsByte c
  | .supply _ => true

/-- A well-formed command. -/
def Instr.wf : Instr → Bool
  | .setGroup _ g f => fitsByte g && f.wf
  | .setIntergreen _ i j v => fitsByte i && fitsByte j && v.all fits
  | .setChannel _ c f => fitsByte c && f.wf
  | .setChannelSupply _ _ op rel => fits op && fits rel
  | .setCore _ k cable number role => fitsByte k && fitsByte cable && fitsByte number && role.wf
  | .setResponse _ p _ _ => fitsByte p
  | .setResponseJunction _ f => f.wf
  | .setDetector _ d f => fitsByte d && f.wf
  | .setThresholds _ f => f.wf
  | .planWriteStage _ st _ => fitsByte st
  | .planWriteRecord _ p f => fitsByte p && f.wf
  | .planWritePoolLength _ n => fits n
  | .planWriteEntry _ p f => fitsByte p && f.all EntryFields.wf
  | .readPlan _ _ item => item.wf
  | .todWrite _ _ h m a => fitsByte h && fitsByte m && a.all TodAction.wf
  | .todDelete _ t => t.wf
  | .setClock _ w h m s => fitsByte w && fitsByte h && fitsByte m && fitsByte s
  | .selectPlan _ r _ => wfRef r
  | .demand _ l => wfStages l
  | .cancelJob _ n => fitsByte n
  | .readGroup _ g _ => fitsByte g
  | .readChannel _ n => n.wf
  | .readCore _ k _ => fitsByte k
  | .readDetector _ d _ => fitsByte d
  | .readAlarms _ p => fitsByte p
  | .readStatus _ _ p => fitsByte p
  | .mainsZeroCrossing level _ => fits level
  | .powerOn _ | .powerLoss | .referenceConversionEnd .. | .startEvent .. | .byteReceived .. | .interByteTimeout
  | .requestTaken | .frameTransmitted | .identify _ | .commitConfig _ | .planWriteCopy .. | .commitPlans _ | .start _
  | .stop _ | .resume _ | .clearOverride _ | .learn _ | .surveyNow _ | .ackAlarms _ | .restart _ | .clockMinuteChange
  | .amberTimerExpiry _ | .redAmberStartReached _ | .redAmberTimerExpiry _ | .greenReleaseTimeReached _
  | .greenTimerExpiry | .maximumTimerExpiry | .gapTimerExpiry | .detectorRawChange .. | .debounceTimerExpiry _
  | .stuckOnTimerExpiry _ | .quietTimerExpiry _ | .loadProofClosed _ | .loadProofOpened _ | .operateTimerExpiry _
  | .releaseTimerExpiry _ | .crosspointWaitTimerExpiry _ | .smcProofClosed | .smcProofOpened
  | .smcOperateTimerExpiry | .smcReleaseTimerExpiry | .ftrProofClosed | .ftrProofOpened | .ftrOperateTimerExpiry
  | .ftrReleaseTimerExpiry | .boundaryTimeout _ | .mainsLossTimerExpiry | .mainsReturnTimerExpiry | .converterGrant
  | .settleTimerExpiry _ | .repeatTimerExpiry _ | .darkTimerExpiry _ | .learnTimeLimitExpiry | .intervalTimerExpiry
  | .windowTimerExpiry | .eligibilityTimerExpiry | .chargeTimerExpiry | .surveyorReleaseTimerExpiry
  | .crosspointLineOpened | .crosspointLineClosed | .holdTimerExpiry .. | .startFlashExpiry | .startRedExpiry
  | .endRedExpiry | .storeWriteBegin | .storeWriteComplete _ => true

end Sys2Proof
end

