-- ==== Sys2Proof/Tests/Slice0.lean ====
section
/-! SUPPORT. Tests of the model, each on a small state and one step, with expected values read from the spec; and for every statement with hypotheses a witness that its hypotheses can be met. -/

namespace Sys2Proof.Tests

open Sys2Proof Sys2Proof.Machine

-- One kernel evaluation at a time: the tests are checked in order.
set_option Elab.async false

/-! ### Small states -/

/-- The state an outcome holds. -/
def after (o : Out) : State :=
  match o with
  | .next t => t
  | .fault _ => State.unpowered
  | .refused _ => State.unpowered

/-- The reply a request leaves in the transmitter. -/
def answer (o : Out) : Option (Status × ReplyBody) :=
  match (after o).link.tx with
  | some (.reply r) => some (r.status, r.body)
  | _ => none

/-- A controller after its start event, at rest in a mode. -/
def ready (m : Mode) : State :=
  { State.unpowered with
    power := { State.unpowered.power with phase := .running }
    mode := { ModeCtl.default with mode := m } }

/-- Two vehicle groups in conflict, 5.5 s and 6.0 s, and one pedestrian group. -/
def junctionCfg : Settings :=
  { Settings.default with
    groups := ((Settings.default.groups.set 0 ⟨.vehicle, 30, 20, 2, 1, 1, 1⟩).set 1 ⟨.vehicle, 30, 20, 2, 1, 1, 1⟩).set 2
      ⟨.pedestrian, 30, 0, 1, 0, 1, 1⟩
    ig := (Settings.default.ig.set 0 ((Vector.replicate 16 none).set 1 (some 55))).set 1
      ((Vector.replicate 16 none).set 0 (some 60)) }

/-- The groups of a list. -/
def groupSet (l : List Group) : GroupSet := Vector.ofFn fun g => decide (g ∈ l)

/-- Stages S1 of G1 and S2 of G2, one FIXED plan P1 with tag 7 over both. -/
def junctionPlans : PlanSet :=
  { PlanSet.empty with
    stages := (PlanSet.empty.stages.set 0 ⟨groupSet [0], false⟩).set 1 ⟨groupSet [1], false⟩
    pool := [⟨some 0, .always, 100, 300, 20⟩, ⟨some 1, .onDemand, 80, 300, 0⟩]
    dir := PlanSet.empty.dir.set 0 (some ⟨true, .fixed, 7, 1, 2, 1⟩) }

/-- The plan P1 of the junction, resolved. -/
def planOne (k : PlanKind) : ResolvedPlan :=
  ⟨⟨1, 0⟩, 1, 7, k, 1, [⟨0, .always, 100, 300, 20, groupSet [0]⟩, ⟨1, .onDemand, 80, 300, 0, groupSet [1]⟩]⟩

/-- The junction in a mode, with its plan set in use. -/
def junction (m : Mode) : State :=
  { ready m with work := junctionCfg, edit := junctionCfg, inUse := junctionPlans, staging := junctionPlans }

/-- The junction in RUNNING, stage 1 in green until 20.0 s, at 10.0 s. -/
def running (k : PlanKind) : State :=
  { junction .running with
    now := 10000
    engine := { Engine.default with
      state := .green, plan := some (planOne k), record := some 1, stage := some 1, greenTimer := some 20000 }
    groups := ((junction .running).groups.set 0 { GroupRun.default with aspect := .green, greenMark := true }).set 1
      { GroupRun.default with aspect := .red }
    handed := ((junction .running).handed.set 0 .green).set 1 .red }

/-! ### Well-formed commands: one ill-formed term for each check -/

theorem test_wf_group : (Instr.setGroup 1 256 ⟨none, 0, 0, 0, 0, 0, 0⟩).wf = false := by decide
theorem test_wf_group_amber : (Instr.setGroup 1 1 ⟨none, 65536, 0, 0, 0, 0, 0⟩).wf = false := by decide
theorem test_wf_group_red_amber : (Instr.setGroup 1 1 ⟨none, 0, 65536, 0, 0, 0, 0⟩).wf = false := by decide
theorem test_wf_group_lamps_red : (Instr.setGroup 1 1 ⟨none, 0, 0, 256, 0, 0, 0⟩).wf = false := by decide
theorem test_wf_group_lamps_amber : (Instr.setGroup 1 1 ⟨none, 0, 0, 0, 256, 0, 0⟩).wf = false := by decide
theorem test_wf_group_lamps_green : (Instr.setGroup 1 1 ⟨none, 0, 0, 0, 0, 256, 0⟩).wf = false := by decide
theorem test_wf_group_rmin : (Instr.setGroup 1 1 ⟨none, 0, 0, 0, 0, 0, 256⟩).wf = false := by decide
theorem test_wf_intergreen : (Instr.setIntergreen 1 256 1 none).wf = false ∧ (Instr.setIntergreen 1 1 256 none).wf = false
    ∧ (Instr.setIntergreen 1 1 2 (some 65536)).wf = false := by decide
theorem test_wf_channel : (Instr.setChannel 1 256 ⟨none, 0, 0, 0⟩).wf = false
    ∧ (Instr.setChannel 1 1 ⟨none, 65536, 0, 0⟩).wf = false ∧ (Instr.setChannel 1 1 ⟨none, 0, 65536, 0⟩).wf = false
    ∧ (Instr.setChannel 1 1 ⟨none, 0, 0, 65536⟩).wf = false := by decide
theorem test_wf_supply : (Instr.setChannelSupply 1 .smc 65536 0).wf = false
    ∧ (Instr.setChannelSupply 1 .ftr 0 65536).wf = false := by decide
theorem test_wf_core : (Instr.setCore 1 256 1 1 .spare).wf = false ∧ (Instr.setCore 1 1 256 1 .spare).wf = false
    ∧ (Instr.setCore 1 1 1 256 .spare).wf = false ∧ (Instr.setCore 1 1 1 1 (.load 256)).wf = false := by decide
theorem test_wf_response : (Instr.setResponse 1 256 none false).wf = false := by decide
theorem test_wf_junction : (Instr.setResponseJunction 1 ⟨none, none, none, 65536, 0, 0⟩).wf = false
    ∧ (Instr.setResponseJunction 1 ⟨none, none, none, 0, 65536, 0⟩).wf = false
    ∧ (Instr.setResponseJunction 1 ⟨none, none, none, 0, 0, 65536⟩).wf = false := by decide
theorem test_wf_detector : (Instr.setDetector 1 256 ⟨none, [], none, 0, 0, 0⟩).wf = false
    ∧ (Instr.setDetector 1 1 ⟨none, [256], none, 0, 0, 0⟩).wf = false
    ∧ (Instr.setDetector 1 1 ⟨none, [], some 256, 0, 0, 0⟩).wf = false
    ∧ (Instr.setDetector 1 1 ⟨none, [], none, 65536, 0, 0⟩).wf = false
    ∧ (Instr.setDetector 1 1 ⟨none, [], none, 0, 65536, 0⟩).wf = false
    ∧ (Instr.setDetector 1 1 ⟨none, [], none, 0, 0, 65536⟩).wf = false := by decide
theorem test_wf_thresholds : (Instr.setThresholds 1 ⟨some (.one 256, .typeDefault), none, none, none, none, none, none⟩).wf = false
    ∧ (Instr.setThresholds 1 ⟨some (.all, .milliamps 65536), none, none, none, none, none, none⟩).wf = false
    ∧ (Instr.setThresholds 1 ⟨none, some 65536, none, none, none, none, none⟩).wf = false
    ∧ (Instr.setThresholds 1 ⟨none, none, some 65536, none, none, none, none⟩).wf = false
    ∧ (Instr.setThresholds 1 ⟨none, none, none, some 65536, none, none, none⟩).wf = false
    ∧ (Instr.setThresholds 1 ⟨none, none, none, none, some 65536, none, none⟩).wf = false
    ∧ (Instr.setThresholds 1 ⟨none, none, none, none, none, some 65536, none⟩).wf = false
    ∧ (Instr.setThresholds 1 ⟨none, none, none, none, none, none, some 65536⟩).wf = false := by decide
theorem test_wf_plan_write : (Instr.planWriteStage 1 256 (groupSet [])).wf = false
    ∧ (Instr.planWriteRecord 1 256 ⟨0, none, 0, 0, 0⟩).wf = false ∧ (Instr.planWriteRecord 1 1 ⟨256, none, 0, 0, 0⟩).wf = false
    ∧ (Instr.planWriteRecord 1 1 ⟨0, none, 65536, 0, 0⟩).wf = false ∧ (Instr.planWriteRecord 1 1 ⟨0, none, 0, 65536, 0⟩).wf = false
    ∧ (Instr.planWriteRecord 1 1 ⟨0, none, 0, 0, 65536⟩).wf = false ∧ (Instr.planWritePoolLength 1 65536).wf = false
    ∧ (Instr.planWriteEntry 1 256 none).wf = false ∧ (Instr.planWriteEntry 1 1 (some ⟨true, none, 65536, 0, 0, 0⟩)).wf = false
    ∧ (Instr.planWriteEntry 1 1 (some ⟨true, none, 0, 256, 0, 0⟩)).wf = false
    ∧ (Instr.planWriteEntry 1 1 (some ⟨true, none, 0, 0, 256, 0⟩)).wf = false
    ∧ (Instr.planWriteEntry 1 1 (some ⟨true, none, 0, 0, 0, 256⟩)).wf = false := by decide
theorem test_wf_read_plan : (Instr.readPlan 1 none (.plan ⟨256, 0⟩)).wf = false
    ∧ (Instr.readPlan 1 none (.plan ⟨0, 256⟩)).wf = false ∧ (Instr.readPlan 1 none (.stage 256)).wf = false
    ∧ (Instr.readPlan 1 none (.record 256)).wf = false := by decide
theorem test_wf_time : (Instr.todWrite 1 (some (.replicate 7 true)) 256 0 none).wf = false
    ∧ (Instr.todWrite 1 (some (.replicate 7 true)) 0 256 none).wf = false
    ∧ (Instr.todWrite 1 (some (.replicate 7 true)) 0 0 (some (.plan ⟨256, 0⟩))).wf = false
    ∧ (Instr.todDelete 1 (.entry (.replicate 7 true) 256 0)).wf = false
    ∧ (Instr.todDelete 1 (.entry (.replicate 7 true) 0 256)).wf = false ∧ (Instr.setClock 1 256 0 0 0).wf = false
    ∧ (Instr.setClock 1 1 256 0 0).wf = false ∧ (Instr.setClock 1 1 0 256 0).wf = false
    ∧ (Instr.setClock 1 1 0 0 256).wf = false := by decide
theorem test_wf_control : (Instr.selectPlan 1 ⟨1, 256⟩ none).wf = false ∧ (Instr.demand 1 [256]).wf = false
    ∧ (Instr.demand 1 (List.replicate 241 1)).wf = false ∧ (Instr.cancelJob 1 256).wf = false := by decide +kernel
theorem test_wf_read : (Instr.readGroup 1 256 none).wf = false ∧ (Instr.readChannel 1 (.channel 256)).wf = false
    ∧ (Instr.readCore 1 256 none).wf = false ∧ (Instr.readDetector 1 256 false).wf = false
    ∧ (Instr.readAlarms 1 256).wf = false ∧ (Instr.readStatus 1 .fault 256).wf = false := by decide
theorem test_wf_mains : (Instr.mainsZeroCrossing 65536 0).wf = false := by decide

/-! ### One step of the commands -/

/-- R2: a PEDESTRIAN group stores 0 amber lamps. -/
theorem test_set_group_stores_zero :
    answer (exec (.setGroup 7 16 ⟨some .pedestrian, 50, 0, 4, 9, 1, 4⟩) (ready .standby))
      = some (.ok, .group ⟨.pedestrian, 50, 0, 4, 0, 1, 4⟩) := by decide +kernel

/-- R2: rmin above the red lamp count is refused, and so is amber below 3.0 s. -/
theorem test_set_group_refused :
    answer (exec (.setGroup 7 1 ⟨some .vehicle, 30, 20, 2, 1, 1, 3⟩) (ready .standby)) = some (.refusedValue, .empty)
      ∧ answer (exec (.setGroup 7 1 ⟨some .vehicle, 29, 20, 2, 1, 1, 1⟩) (ready .standby)) = some (.refusedValue, .empty)
      ∧ answer (exec (.setGroup 7 1 ⟨some .vehicle, 30, 20, 2, 1, 1, 1⟩) (ready .running)) = some (.refusedMode, .empty) := by
  decide +kernel

/-- R10: 1.0 s is the shortest intergreen; the entry written is the ordered one. -/
theorem test_set_intergreen :
    (after (exec (.setIntergreen 7 2 1 (some 10)) (ready .standby))).edit.ig[(1 : Group)][(0 : Group)] = some 10
      ∧ (after (exec (.setIntergreen 7 2 1 (some 10)) (ready .standby))).edit.ig[(0 : Group)][(1 : Group)] = none
      ∧ answer (exec (.setIntergreen 7 2 1 (some 9)) (ready .standby)) = some (.refusedValue, .empty) := by decide +kernel

/-- R117: a new nominal current becomes Iref. -/
theorem test_set_channel :
    (after (exec (.setChannel 7 48 ⟨some .led, 60, 40, 60⟩) (ready .standby))).edit.channels[(47 : Chan)]
      = ⟨.led, 60, 60, false, .typeDefault, ⟨40, 60⟩⟩ := by decide +kernel

/-- R87: the limits of the SMC alone. -/
theorem test_set_channel_supply :
    (after (exec (.setChannelSupply 7 .smc 200 10) (ready .standby))).edit.smc = ⟨200, 10⟩
      ∧ (after (exec (.setChannelSupply 7 .smc 200 10) (ready .standby))).edit.ftr = ⟨40, 60⟩ := by decide +kernel

/-- R138: a LOAD core names its channel. -/
theorem test_set_core :
    (after (exec (.setCore 7 64 8 16 (.load 3)) (ready .standby))).edit.cores[(63 : CoreId)] = ⟨8, 16, .load 2⟩ := by
  decide +kernel

/-- R12: the junction's configuration passes; an intergreen below the amber, 3.0 s, names the pair. -/
theorem test_config_validation :
    junctionCfg.validate = none
      ∧ Settings.validate { junctionCfg with ig := junctionCfg.ig.set 0 ((Vector.replicate 16 none).set 1 (some 29)) }
        = some (.igBelowAmber 0 1)
      ∧ Settings.validate { junctionCfg with ig := junctionCfg.ig.set 1 (Vector.replicate 16 none) }
        = some (.igAsymmetric 0 1)
      ∧ Settings.default.validate = some .noGroups := by decide +kernel

/-- R40: the plan set passes; with stage 2 of both groups it holds a conflict. -/
theorem test_plan_validation :
    junctionPlans.validate junctionCfg = none
      ∧ PlanSet.validate { junctionPlans with stages := junctionPlans.stages.set 1 ⟨groupSet [0, 1], false⟩ } junctionCfg
        = some (.stageConflict 1 0 1)
      ∧ PlanSet.empty.validate junctionCfg = some .baseAbsent := by decide +kernel

/-- R35: the tag of a reference, where it is not 0, is that of the entry. -/
theorem test_translation :
    (match junctionPlans.translate ⟨1, 7⟩ with
      | .ok p => decide (p.records = (planOne .fixed).records)
      | .error _ => false) = true
      ∧ (match junctionPlans.translate ⟨1, 8⟩ with
      | .ok _ => false
      | .error k => decide (k = .planTagMismatch)) = true
      ∧ (match junctionPlans.translate ⟨17, 0⟩ with
      | .ok _ => false
      | .error k => decide (k = .planAbsent)) = true := by decide +kernel

/-- R167, Table 1-5: START in STANDBY flashes the vehicle ambers for 10.0 s and closes the SMC. -/
theorem test_start :
    (after (exec (.start 7) (junction .standby))).mode.mode = .startFlash
      ∧ (after (exec (.start 7) (junction .standby))).mode.timer = some 10000
      ∧ ((after (exec (.start 7) (junction .standby))).groups.map (·.aspect))[(0 : Group)] = .flashAmber
      ∧ (after (exec (.start 7) (junction .standby))).smc.state = .operating := by decide +kernel

/-- R168: STOP in RUNNING ends the green; the amber of 3.0 s runs, and the end-red waits for it. -/
theorem test_stop_running :
    (after (exec (.stop 7) (running .fixed))).mode.mode = .shutdown
      ∧ (after (exec (.stop 7) (running .fixed))).mode.timer = none
      ∧ ((after (exec (.stop 7) (running .fixed))).groups[(0 : Group)]).aspect = .amber
      ∧ ((after (exec (.stop 7) (running .fixed))).groups[(0 : Group)]).amberTimer = some 13000 := by decide +kernel

/-- R48, R54, R56: a FIXED green that ends with a demand for stage 2 begins the change; G2 waits 5.5 s from the green-off of G1, with its red-amber 2.0 s before. -/
theorem test_green_timer :
    let s := after (exec .greenTimerExpiry (after (exec (.demand 7 [2]) (running .fixed))))
    s.engine.state = .changing ∧ (s.groups[(0 : Group)]).aspect = .amber
      ∧ (s.groups[(1 : Group)]).greenRelease = some 25500 ∧ (s.groups[(1 : Group)]).redAmberStart = some 23500 := by
  decide +kernel

/-- R54: without a demand the plan returns to record 1 and a new green period of stage 1 begins. -/
theorem test_green_timer_same_stage :
    (after (exec .greenTimerExpiry (running .fixed))).engine.greenTimer = some 30000
      ∧ (after (exec .greenTimerExpiry (running .fixed))).engine.state = .green := by decide +kernel

/-- R110: the first boundary below 85 % is a dip; an ABSENT one starts the loss timer of 200 ms. -/
theorem test_mains_dip :
    (after (exec (.mainsZeroCrossing 84 0) (ready .standby))).mains.state = .dip
      ∧ (after (exec (.mainsZeroCrossing 84 0) (ready .standby))).mains.lossTimer = none
      ∧ (after (exec (.mainsZeroCrossing 49 0) (ready .standby))).mains.lossTimer = some 200
      ∧ (after (exec (.mainsZeroCrossing 85 0) (ready .standby))).mains.timeout = some 15 := by decide +kernel

/-- R169: LOSS takes RUNNING to MAINS_OUT with every load relay released. -/
theorem test_mains_loss :
    (after (exec .mainsLossTimerExpiry { running .fixed with mains := { Mains.default with state := .dip, lossTimer := some 10100 } })).mode.mode
      = .mainsOut := by decide +kernel

/-- R124 to R126: the worked limits of the lamp arithmetic. -/
theorem test_lamp_arithmetic :
    lampCurrent 65534 8000 = (7999, false) ∧ lampCurrent 65535 2000 = (1999, true) ∧ lampsLit 30 60 1 = 1
      ∧ lampsLit 90 60 2 = 2 ∧ lampsLit 29 60 1 = 0 ∧ bandOf true false 1 2 2 = .redOut
      ∧ bandOf false false 1 2 1 = .partly := by decide

/-- R144, R147: the resistance and the step rule. -/
theorem test_survey_arithmetic :
    resistance 0 = 9999999 ∧ resistance 62499 = 800 ∧ smooth 1000 249 = 249 ∧ smooth 1000 250 = 907
      ∧ smooth 1000 1007 = 1000 ∧ smooth 1000 1008 = 1001 := by decide

/-- R76: the debounce time is counted from the scan that finds the input changed. -/
theorem test_debounce :
    let s := { ready .running with work := { Settings.default with
      dets := Settings.default.dets.set 0 { DetCfg.default with kind := .presence } } }
    ((after (exec (.detectorRawChange 0 true) s)).dets[(0 : Det)]).debounce = some 60
      ∧ ((after (exec (.debounceTimerExpiry 0) (after (exec (.detectorRawChange 0 true) s)))).dets[(0 : Det)]).state = .active := by
  decide +kernel

/-- R90: an OPERATING relay whose proof closes is OPERATED, its generation advanced, its lamp settling. -/
theorem test_relay_operated :
    let s := (running .fixed).operate 2
    ((s.relays[(2 : Chan)]).opTimer = some 10040)
      ∧ ((after (exec (.loadProofClosed 2) s)).relays[(2 : Chan)]).state = .operated
      ∧ ((after (exec (.loadProofClosed 2) s)).relays[(2 : Chan)]).gen = 1
      ∧ ((after (exec (.loadProofClosed 2) s)).lamps[(2 : Chan)]).settle = some 10200 := by decide +kernel

/-- R100, R102: a green relay that closes without a command on a conflicting group trips the output monitor. -/
theorem test_uncommanded_green :
    (after (exec (.loadProofClosed 5) (running .fixed))).mode.mode = .failsafe
      ∧ (after (exec (.loadProofClosed 5) (running .fixed))).mode.cause = .outputMonitor
      ∧ (after (exec (.loadProofClosed 5) (running .fixed))).lockouts = 1 := by decide +kernel

/-- R5, R90, R100: where the green of a group proven by dark current ends while its relay is in OPERATING, the relay is in RELEASING in the same event, and nothing trips. -/
theorem test_release_in_operating :
    let s := { running .fixed with
      relays := (running .fixed).relays.set 2 { Relay.default with state := .operating, coil := true, opTimer := some 40 }
      monitor := (running .fixed).monitor.set 0 ⟨false, true, true, none⟩ }
    let t := s.cascade (s.setHold 0 true)
    (t.groups[(0 : Group)]).aspect = .amber ∧ (t.relays[(2 : Chan)]).state = .releasing ∧ t.lockouts = 0
      ∧ t.mode.mode = .running := by decide +kernel

/-- R102, R179: a green found welded by the COMMIT_CONFIG that leaves UNCONFIGURED is confirmed in that mode, and not counted: STANDBY is entered after it. -/
theorem test_commit_welded :
    let s := after (exec (.commitConfig 7) { junction .unconfigured with
      work := Settings.default
      relays := (junction .unconfigured).relays.set 2 { Relay.default with state := .failedClosed, proof := true } })
    let t := after (exec (.storeWriteComplete true) s)
    t.mode.mode = .standby ∧ t.lockouts = 0 ∧ (⟨.group 0, .uncommandedGreen⟩ : Cond) ∈ t.faults.confirmed := by
  decide +kernel

/-- R174: a field of two bytes is read most significant byte first, and goes out so. -/
theorem test_field_bytes : readBits [7, 0x12, 0x34] 8 16 = some 0x1234
    ∧ packBits (msbBits 16 0x1234 ++ msbBits 8 5) = [0x12, 0x34, 5] := by decide

/-- R5: a green relay that closes uncommanded takes the junction to FAILSAFE; the net change of the group in green is to the aspect of that mode, and its amber relay gets no command for an AMBER between. -/
theorem test_net_change :
    let s := { running .fixed with work := { junctionCfg with junction := { junctionCfg.junction with failsafeStyle := .dark } } }
    ((after (exec (.loadProofClosed 5) s)).relays[(1 : Chan)]) = (s.relays[(1 : Chan)])
      ∧ ((after (exec (.loadProofClosed 5) s)).groups[(0 : Group)]).aspect = .dark := by decide +kernel

/-- R73: Dd lies at drive line ((d - 1) div 4) + 1 and sense line ((d - 1) mod 4) + 1: D6 at 2 and 2, D32 at 8 and 4. -/
theorem test_matrix : (driveOf 5, senseOf 5) = (1, 1) ∧ (driveOf 31, senseOf 31) = (7, 3) ∧ detAt 7 3 = 31 := by decide

/-- R140: Kk lies at row (k - 1) div 8 and column (k - 1) mod 8: K1 at 0 and 0, K64 at 7 and 7, K10 at 1 and 1. -/
theorem test_crosspoint : crosspoint 0 = (0, 0) ∧ crosspoint 63 = (7, 7) ∧ crosspoint 9 = (1, 1) := by decide

/-- R171: a green relay still welded at the reset fails again, and the monitor trips again within START. -/
theorem test_resume_trips_again :
    let s := after (exec (.loadProofClosed 5) (running .fixed))
    let t := State.close { s with mode := { s.mode with responseActive := false }, link := Link.default }
    s.lockouts = 1 ∧ s.mode.mode = .failsafe ∧ (after (exec (.resume 7) t)).mode.mode = .failsafe
      ∧ (after (exec (.resume 7) t)).mode.cause = .outputMonitor ∧ (after (exec (.resume 7) t)).lockouts = 2 := by
  decide +kernel

/-- R105, R108: a request that stands queued is granted at the end of the reference conversion. -/
theorem test_reference_grants :
    let s := State.reset.place (.lit 3) .lampHigh
    (after (exec (.referenceConversionEnd 52429 (.replicate 48 false) false false false) s)).meas.conv = .armed := by
  decide +kernel

/-- R183: the check value of this CRC-32 (04C11DB7, FFFFFFFF, inverted, unreflected) over the digits 1 to 9. -/
theorem test_crc32 : crc32 [0x31, 0x32, 0x33, 0x34, 0x35, 0x36, 0x37, 0x38, 0x39] = 0xFC891918#32 := by decide +kernel

/-- R174, R182: the LINK_BUSY of TAG 9 is A5 00 02 09 06 and its CRC. -/
theorem test_busy_bytes : ((TxFrame.busy 9).bytes).take 5 = [0xA5, 0, 2, 9, 6] ∧ ((TxFrame.busy 9).bytes).length = 7 := by
  decide +kernel

/-- R184: an image under write holds generation 0, not valid. -/
theorem test_write_begin :
    let s := { junction .unconfigured with store := { (ready .standby).store with config := ⟨5, true⟩ } }
    (after (exec (.commitConfig 7) s)).store.config = ⟨0, false⟩
      ∧ (after (exec (.commitConfig 7) s)).store.writing.map (·.generation) = some 6 := by decide +kernel

/-- R174: the check value of this CRC-16 over the digits 1 to 9. -/
theorem test_crc : crc16 [0x31, 0x32, 0x33, 0x34, 0x35, 0x36, 0x37, 0x38, 0x39] = 0x29B1#16 := by decide +kernel

/-- R175: an IDENTIFY frame, byte by byte, is answered. -/
theorem test_identify_frame :
    let s := (encodeFrame 1 9 1 []).foldl (fun t b => after (exec (.byteReceived b false) t)) (ready .standby)
    s.link.tx.map TxFrame.header = some (2, 9, 0) := by decide +kernel

/-- R184, R185: a CONFIG write takes the generation after the one held. -/
theorem test_store :
    let s := after (exec (.commitConfig 7) { junction .unconfigured with work := Settings.default })
    s.store.writing.map (·.generation) = some 1 ∧ s.hasJob .commitConfig = true
      ∧ (after (exec (.storeWriteComplete true) s)).mode.mode = .standby
      ∧ (after (exec (.storeWriteComplete true) s)).store.config = ⟨1, true⟩
      ∧ (after (exec (.storeWriteComplete true) s)).work.groups[(0 : Group)] = ⟨.vehicle, 30, 20, 2, 1, 1, 1⟩ := by
  decide +kernel

/-- R105, R172, R173: a start with a good reference and no image ends in UNCONFIGURED; with a count outside the window the code says so. -/
theorem test_start_event :
    let s (n : BitVec 16) :=
      after (exec (.startEvent true (.replicate 32 false))
        (after (exec (.referenceConversionEnd n (.replicate 48 false) false false false) State.reset)))
    (s 52429).mode.mode = .unconfigured ∧ (s 52429).mode.bringUp = .ok ∧ (s 52429).now = 20
      ∧ (s 51380).mode.bringUp = .converterFault := by decide +kernel

/-- The table gives no row any bits. -/
theorem test_no_table_word : decodeTableWord 8 1 = none := by decide

/-! ### Witnesses: the hypotheses of the statements can be met -/

/-- A request is taken at once by a controller at rest. -/
theorem takes_ready (m : Mode) : (ready m).takes := ⟨rfl, rfl, rfl⟩

theorem takes_junction (m : Mode) : (junction m).takes := ⟨rfl, rfl, rfl⟩

theorem takes_running (k : PlanKind) : (running k).takes := ⟨rfl, rfl, rfl⟩

theorem editable_ready : (ready .standby).editable ∧ (ready .unconfigured).editable := by
  unfold State.editable; decide +kernel

/-- A controller with a job in its table. -/
def withJob (s : State) (k : JobKind) : State := s.addJob k (some 5000)

/-- The front command of a queue. -/
theorem witness_StepRunsFrontCommand : (State.pending { State.reset with pending := [.converterGrant] }) = .converterGrant :: [] := rfl

/-- The clauses of an empty queue: without power, in the reference conversion, before the start event, with a timer due, and with none, a minute ahead or a millisecond before its end. -/
theorem witness_StepOnEmptyQueue :
    State.unpowered.pending = [] ∧ State.unpowered.power.phase = .off ∧ State.reset.pending = []
      ∧ State.reset.power.phase = .reference ∧ State.reset.meas.refEnd = some 20
      ∧ (State.firstDue { ready .standby with smc := { SupplyRelay.default with opTimer := some 0 } } = some .smcOperateTimerExpiry)
      ∧ (ready .standby).firstDue = none ∧ (ready .standby).clock.toMinute = 60000
      ∧ Clock.toMinute ⟨7, 23, 59, 59, 999, true⟩ = 1 := by decide +kernel

theorem sound_unpowered : State.unpowered.Sound := by
  refine ⟨?_, ?_, ?_, ?_, ?_, ?_, ?_, ?_⟩
  · refine ⟨List.nodup_nil, List.nodup_nil, ?_, by decide, by decide, List.nodup_nil⟩
    intro r h; cases h
  · exact ⟨by decide, by decide, by decide, List.nodup_nil⟩
  · refine ⟨List.nodup_nil, ?_, ?_⟩
    · intro x h; cases h
    · intro w h; cases h
  · unfold Clock.Sound; decide
  · exact List.Pairwise.nil
  · exact ⟨by decide +kernel, fun _ => ⟨rfl, by decide +kernel⟩⟩
  · decide
  · intro k; unfold CoreSurvey.Sound
    have : (State.unpowered.cores[k]).hist.smoothed = none := by revert k; decide +kernel
    rw [this]; trivial

/-- A sound state from which a step goes on. -/
theorem witness_SoundKept : State.unpowered.Sound ∧ ∃ t, step State.unpowered = .next t := ⟨sound_unpowered, _, rfl⟩

/-- The junction in RUNNING with a STOP waiting. -/
def going : State := { running .fixed with pending := [.stop 7] }

theorem lawful_going : going.Lawful where
  peaceful := by unfold State.Peaceful; decide +kernel
  records := by
    intro p hp r hr
    cases hp
    revert r
    unfold Settings.Peaceful
    decide +kernel
  voids := by unfold State.VoidsSet Settings.Peaceful; decide +kernel
  gaining := by decide +kernel
  redAmber := by decide +kernel
  engine := by decide +kernel
  commit := by decide +kernel
  write := by intro w h; cases h
  start := by decide +kernel

theorem timed_going : going.Timed where
  release := by
    intro j h
    have : ∀ j : Group, (going.groups[j]).pendingGreen = false := by decide +kernel
    rw [this j] at h; cases h
  redAmber := by
    intro j e h
    have : ∀ j : Group, (going.groups[j]).redAmberTimer = none := by decide +kernel
    rw [this j] at h; cases h
  redAmberAspect := by decide +kernel
  amber := by decide +kernel
  marked := by decide +kernel
  startRed := by decide +kernel

/-- A lawful state in RUNNING, with a green, and a step of it. -/
theorem witness_LawfulKept : going.Lawful ∧ (∃ t, step going = .next t) ∧ (going.groups[(0 : Group)]).aspect = .green :=
  ⟨lawful_going, ⟨_, rfl⟩, by decide +kernel⟩

/-- The change to stage 2, with G2 gaining after the green of G1. -/
def changing : State := after (exec .greenTimerExpiry (after (exec (.demand 7 [2]) (running .fixed))))

/-- The intergreen law is not idle: a step of a lawful state with its times in order gives G2 its green. -/
theorem witness_IntergreenKept : going.Lawful ∧ going.Timed ∧ (∃ t, step going = .next t)
    ∧ ((after (exec (.redAmberTimerExpiry 1) (after (exec (.redAmberStartReached 1)
        (after (exec (.amberTimerExpiry 0) changing)))))).groups[(1 : Group)]).aspect = .green
    ∧ junctionCfg.ig[(0 : Group)][(1 : Group)] = some 55 := ⟨lawful_going, timed_going, ⟨_, rfl⟩, by decide +kernel⟩

/-- The junction in START_RED, its vehicle and pedestrian groups in RED, with an event waiting. -/
def startingRed : State :=
  { (junction .startRed).setAspects with
    mode := { ModeCtl.default with mode := .startRed, timer := some 5000 }, pending := [.startRedExpiry] }

theorem witness_ModeAspectsKept : startingRed.Lawful ∧ startingRed.ByMode ∧ (∃ t, step startingRed = .next t)
    ∧ startingRed.mode.mode ≠ .running ∧ (startingRed.groups[(2 : Group)]).aspect = .red := by
  refine ⟨?_, by unfold State.ByMode; decide +kernel, ⟨_, rfl⟩, by decide +kernel, by decide +kernel⟩
  constructor
  · unfold State.Peaceful; decide +kernel
  · intro p hp; cases hp
  · unfold State.VoidsSet Settings.Peaceful; decide +kernel
  · decide +kernel
  · decide +kernel
  · decide +kernel
  · decide +kernel
  · intro w h; cases h
  · decide +kernel

/-- A green relay that has failed open, and one that has not. -/
theorem witness_GreenUnavailableKept :
    ((running .fixed).failOpen 5 .noOperate).GreensAvailable ∧ (running .fixed).GreensAvailable
      ∧ (((running .fixed).failOpen 5 .noOperate).groups[(1 : Group)]).greenUnavailable = true ∧ ∃ t, step going = .next t := by
  unfold State.GreensAvailable
  exact ⟨by decide +kernel, by decide +kernel, by decide +kernel, _, rfl⟩

/-- The clauses of the end of an event: a grant, an idle queue, and each choice of the transmitter and of the store. -/
theorem witness_EventEnd :
    (ready .standby).meas.conv = .idle ∧ chooseReq (((ready .standby).place (.lit 3) .lampHigh).meas.queue) ≠ none
      ∧ State.reset.meas.conv ≠ .idle ∧ (ready .standby).link.tx = none ∧ (ready .standby).link.busy = []
      ∧ (ready .standby).link.slot = none ∧ ((ready .standby).notify (.alarmCleared ⟨.junction, .failsafe⟩ none)).link.notices ≠ []
      ∧ (ready .standby).store.writing = none ∧ ((ready .standby).placeStore .config).store.queue = [.config] := by
  decide +kernel

theorem witness_ReceiverReadsFrames : Link.default.rx = none ∧ (List.replicate 240 (0 : Byte)).length ≤ 240
    ∧ (2 : Byte) ≠ 1 ∧ [0, 0] ≠ crcBytes (crc16 (frameBody 1 9 1 [])) := by decide +kernel

/-- A receiver inside a frame: hunting, before LEN, in the middle, at a wrong CRC and at the last byte, with the slot full, and at the last byte of a reply. -/
theorem witness_ReceiverEvents :
    (ready .standby).listening = true ∧ State.reset.listening = false ∧ (ready .standby).link.rx = none
      ∧ (State.takes { ready .standby with link := { Link.default with rx := some [0, 1, 9, 1] } })
      ∧ collect [0xF0] = .more [0xF0] ∧ collect [0xF1] = .discard ∧ (240 < (0xF1 : Byte).toNat)
      ∧ collect ([0, 1, 9, 1, 0] ++ [0]) = .discard
      ∧ collect (frameBody 1 9 1 [] ++ crcBytes (crc16 (frameBody 1 9 1 []))) = .whole 1 9 1 []
      ∧ collect (frameBody 2 9 0 [] ++ crcBytes (crc16 (frameBody 2 9 0 []))) = .whole 2 9 0 [] ∧ (2 : Byte) ≠ 1
      ∧ (let s := { ready .standby with link := { Link.default with rx := some [], slot := some ⟨9, .ok, .empty, false⟩ } }
        s.listening = true ∧ s.link.slot ≠ none)
      ∧ (let s := { ready .standby with link := { Link.default with rx := some [], queue := [.command (.identify 9)] } }
        s.listening = true ∧ s.link.slot = none ∧ (s.receive (.frame 8 1 [])).link.queue
          = .command (.identify 9) :: [.frame 8 1 []])
      ∧ (Link.rxTimer { Link.default with rx := some [], rxTimer := some 21 }) = some 21 := by
  unfold State.takes; decide +kernel

theorem witness_FrameTaken : (0 : Byte) = 0 ∧ 32 < (33 : Byte).toNat ∧ plainRequest 9 1 = some (.identify 9)
    ∧ plainRequest 9 32 = some (.restart 9) ∧ ([0] : List Byte) ≠ [] ∧ (ready .standby).takes
    ∧ plainRequest 9 21 = none ∧ (requestFields 9 [] 21).isSome = true
    ∧ (0xFFFF : Nat) < 256 ^ 2 ∧ (some (0, 16) : Option (Nat × Nat)) ∈ [some (0, 16), none] ∧ 0 + 16 ≤ 8 * ([1, 2] : List Byte).length
    ∧ 8 * ([1] : List Byte).length < 0 + 16 :=
  ⟨rfl, by decide, rfl, rfl, by decide, takes_ready _, rfl, rfl, by decide, by decide, by decide, by decide⟩

/-- Fields of the requests shown, a set in the form in which sets are held, and an item of no known kind. -/
theorem witness_RequestFields :
    (∃ read : FormReader, ∀ form, read form = []) ∧ (∃ read : FormReader, read "" = [some 24])
    ∧ (∃ read : FormReader, read "" = [some 1, some 23, some 59, some 59])
    ∧ (∃ read : FormReader, read "" = [some 16, some (Config.nameCode (.groupType .arrow)), some 30, some 20, some 0, some 1, some 1, some 1])
    ∧ (∃ (read : FormReader) (l : List Nat) (gs : GroupSet), read "" = [some (Config.nameCode (.word "STAGE"))]
      ∧ read "STAGE" = some 16 :: l.map some ∧ setIn "groups" 16 l = some gs)
    ∧ ∃ x : Nat, ∀ w ∈ ["STAGE", "RECORD", "POOL_LENGTH", "ENTRY", "COPY"], Config.nameCode (.word w) ≠ x := by
  refine ⟨⟨fun _ => [], fun _ => rfl⟩, ⟨fun _ => _, rfl⟩, ⟨fun _ => _, rfl⟩, ⟨fun _ => _, rfl⟩, ?_, ?_⟩
  · have h : ∃ l, (setIn "groups" 16 l).isSome = true := by
      by_cases h : Config.setsListed "groups" = true
      · exact ⟨[], by simp [setIn, h]⟩
      · exact ⟨List.replicate 16 (Config.nameCode (.flag true)), by simp [setIn, h, flagIn, nameIn, isName]⟩
    obtain ⟨l, h⟩ := h
    obtain ⟨gs, h⟩ := Option.isSome_iff_exists.1 h
    exact ⟨fun form => if form = "" then [some (Config.nameCode (.word "STAGE"))] else some 16 :: l.map some, l, gs,
      rfl, rfl, h⟩
  · refine ⟨(["STAGE", "RECORD", "POOL_LENGTH", "ENTRY", "COPY"].map fun w => Config.nameCode (.word w)).sum + 1, ?_⟩
    intro w hw
    have := List.single_le_sum (l := ["STAGE", "RECORD", "POOL_LENGTH", "ENTRY", "COPY"].map fun w => Config.nameCode (.word w))
      (by simp) _ (List.mem_map_of_mem hw)
    omega

/-- A queue to serve, a reply that leaves, a busy answer that leaves before a full slot and queue, and before a queue alone. -/
theorem witness_QueueServed :
    let s := { ready .standby with link := { Link.default with queue := [.command (.identify 9)] } }
    let t := { ready .standby with link := { Link.default with tx := some (.reply ⟨9, .ok, .empty, false⟩) } }
    let u := { ready .standby with link := { Link.default with tx := some (.busy 9) } }
    s.power.phase = .running ∧ s.link.slot = none ∧ s.link.queue ≠ [] ∧ t.link.queue = []
      ∧ u.link.slot = none ∧ u.link.queue = []
      ∧ (let v := { u with link := { u.link with slot := some ⟨8, .ok, .empty, false⟩, queue := [.command (.identify 9)] } }
        v.link.tx = some (.busy 9) ∧ v.link.slot ≠ none ∧ (after (exec .frameTransmitted v)).link.queue = v.link.queue)
      ∧ (let v := { u with link := { u.link with queue := [.command (.identify 7)] } }
        v.link.slot = none ∧ (after (exec .frameTransmitted v)).link.tx.map TxFrame.header = some (2, 7, 0)) := by
  decide +kernel

/-- Queues with room, full, and past their bound. -/
theorem witness_LinkTables :
    (List.replicate 3 (Received.frame 9 1 [])).length < 4 ∧ 4 ≤ (List.replicate 4 (Received.frame 9 1 [])).length
      ∧ (List.replicate 15 (Notice.alarmCleared ⟨.junction, .failsafe⟩ none)).length < 16
      ∧ 16 ≤ (List.replicate 16 (Notice.alarmCleared ⟨.junction, .failsafe⟩ none)).length
      ∧ (withJob (ready .running) .learn).link.jobs.length ≤ 3 ∧ (withJob (ready .running) .learn).link.nextJob = 2
      ∧ ((withJob (ready .running) .learn).job? .learn).isSome = true
      ∧ nextNumber [⟨255, .learn, none, []⟩, ⟨1, .surveyNow, none, []⟩] 5 255 = 2 := by decide +kernel

theorem witness_RequestArrives : requestCode (.identify 9) ≠ 0 ∧ State.reset.listening = false
    ∧ (ready .standby).listening = true ∧ (ready .standby).takes
    ∧ (State.link { ready .standby with link := { Link.default with slot := some ⟨9, .ok, .empty, false⟩ } }).slot ≠ none :=
  ⟨by decide, by decide, by decide, takes_ready _, by decide⟩

theorem witness_RefusedChangesNothing :
    (State.act (.start 9) (ready .running)).2.1 = .refusedMode ∧ Status.refusedMode ≠ .ok ∧ Status.refusedMode ≠ .inProgress := by
  decide +kernel

/-- SET_GROUP at the ends of its ranges: amber 3.0 and 5.0 s, red-amber 3.0 s, lamps 1 and 4, Rmin 1 and the red count. -/
theorem witness_SetGroup : (ready .standby).takes ∧ (ready .standby).editable ∧ (16 : Nat) = (15 : Group).val + 1
    ∧ checkGroup ⟨some .vehicle, 50, 30, 4, 4, 4, 4⟩ ≠ none ∧ checkGroup ⟨some .vehicle, 30, 0, 1, 1, 1, 1⟩ ≠ none
    ∧ checkGroup ⟨some .unused, 30, 0, 0, 0, 0, 0⟩ ≠ none ∧ checkGroup ⟨some .vehicle, 51, 0, 1, 1, 1, 1⟩ = none
    ∧ checkGroup ⟨some .vehicle, 30, 31, 1, 1, 1, 1⟩ = none ∧ checkGroup ⟨some .arrow, 30, 0, 0, 1, 5, 1⟩ = none :=
  ⟨takes_ready _, editable_ready.1, rfl, by decide, by decide, by decide, by decide, by decide, by decide⟩

theorem witness_SetIntergreenCoreResponse : (ready .standby).takes ∧ (ready .standby).editable
    ∧ intergreenOk (some 10) = true ∧ intergreenOk (some 300) = true ∧ intergreenOk (some 301) = false
    ∧ checkCore 8 16 (.load 48) ≠ none ∧ checkCore 8 17 .spare = none ∧ checkCore 1 1 (.load 49) = none
    ∧ (checkResponse 31 (some .junctionDark) true).isSome = true ∧ (checkResponse 0 (some .none) false).isSome = true
    ∧ (checkResponse 0 (some .report) false).isSome = false ∧ (checkResponse 32 (some .report) false).isSome = false
    ∧ checkJunction ⟨some .dark, some .flash, some true, 600, 100, 100⟩ ≠ none
    ∧ checkJunction ⟨some .dark, some .flash, some true, 50, 30, 20⟩ ≠ none
    ∧ checkJunction ⟨some .dark, some .flash, some true, 49, 30, 20⟩ = none :=
  ⟨takes_ready _, editable_ready.1, by decide, by decide, by decide, by decide, by decide, by decide, by decide, by decide,
    by decide, by decide, by decide, by decide, by decide⟩

theorem witness_SetChannel : (ready .standby).takes ∧ (ready .standby).editable
    ∧ checkChannel ⟨some .led, 3000, 200, 10⟩ .default ≠ none ∧ checkChannel ⟨some .led, 20, 10, 200⟩ .default ≠ none
    ∧ checkChannel ⟨some .led, 19, 10, 200⟩ .default = none ∧ checkChannel ⟨none, 20, 10, 200⟩ .default = none
    ∧ checkLimits 10 200 ≠ none ∧ checkLimits 9 200 = none ∧ checkLimits 10 201 = none :=
  ⟨takes_ready _, editable_ready.1, by decide, by decide, by decide, by decide, by decide, by decide, by decide⟩

/-- Writes of the edit copy outside its modes, and while a COMMIT_CONFIG stands. -/
theorem witness_EditRefused : writesEdit (.setResponseJunction 9 ⟨none, none, none, 0, 0, 0⟩) = true ∧ (ready .running).takes
    ∧ (ready .running).mode.mode ≠ .unconfigured ∧ (ready .running).mode.mode ≠ .standby
    ∧ (withJob (ready .standby) .commitConfig).takes ∧ (withJob (ready .standby) .commitConfig).hasJob .commitConfig = true :=
  ⟨rfl, takes_ready _, by decide, by decide, ⟨by decide, by decide, by decide⟩, by decide +kernel⟩

/-- Fields in their ranges, at both ends, and outside them. -/
theorem witness_FieldsInRange : fieldsInRange (.setResponse 9 31 (some .report) true) ∧ fieldsInRange (.setResponse 9 0 (some .none) true)
    ∧ ¬ fieldsInRange (.setResponse 9 32 (some .report) true) ∧ ¬ fieldsInRange (.setResponse 9 0 (some .report) true)
    ∧ fieldsInRange (.setCore 9 64 8 16 (.load 48)) ∧ ¬ fieldsInRange (.setCore 9 64 8 16 (.load 49)) := by simp [fieldsInRange]

theorem witness_CommitRequests : (junction .standby).takes ∧ (junction .standby).edit.validate = none
    ∧ (ready .standby).edit.validate = some .noGroups ∧ (junction .standby).hasJob .commitPlans = false
    ∧ (junction .standby).staging.validate (junction .standby).work = none
    ∧ (ready .standby).staging.validate (ready .standby).work = some .baseAbsent
    ∧ (withJob (ready .standby) .commitPlans).hasJob .commitPlans = true :=
  ⟨takes_junction _, by decide +kernel⟩

theorem witness_SetDetector : (ready .running).takes
    ∧ (checkDetector ⟨some .presence, [1, 16, 16, 1], some 16, 251, 256, 73⟩).isSome = true
    ∧ (checkDetector ⟨some .push, [], none, 19, 0, 0⟩).isSome = true
    ∧ (checkDetector ⟨some .push, [1, 1, 1, 1, 1], none, 60, 0, 0⟩).isSome = false
    ∧ (checkDetector ⟨some .push, [17], none, 60, 0, 0⟩).isSome = false
    ∧ (checkDetector ⟨some .push, [], some 0, 60, 0, 0⟩).isSome = false
    ∧ DetKind.push ≠ .disabled ∧ DetCfg.default.kind = .disabled :=
  ⟨takes_ready _, by decide +kernel⟩

/-- R118, R139: the low threshold follows the warn threshold down, in both copies. -/
theorem test_set_thresholds :
    let t := after (exec (.setThresholds 7 ⟨none, some 500, none, none, none, none, none⟩) (ready .running))
    t.edit.thr.warn = 500 ∧ t.edit.thr.low = 500 ∧ t.edit.thr = t.work.thr := by decide +kernel

theorem witness_SetThresholds : (ready .running).takes ∧ (checkChannels (.one 48)).isSome = true
    ∧ (checkChannels .all).isSome = true ∧ (checkChannels (.one 49)).isSome = false
    ∧ (checkChannels (.one 0)).isSome = false := ⟨takes_ready _, by decide +kernel⟩

theorem witness_StageItem : (junction .running).takes ∧ (16 : Nat) = (15 : Fin 16).val + 1
    ∧ (junction .running).hasJob .commitPlans = false ∧ (∀ g : Group, (groupSet [])[g] = false) ∧ 16 < 17 :=
  ⟨takes_junction _, by decide +kernel⟩

/-- PLAN_WRITE at the ends of its ranges, with the pending copy present and absent, and with a COMMIT_PLANS job. -/
theorem witness_PlanWrites : (junction .running).takes ∧ (junction .running).hasJob .commitPlans = false
    ∧ (junction .running).staging.pool.length = 2 ∧ (checkRecord ⟨16, some .always, 1200, 2400, 100⟩).isSome = true
    ∧ (checkRecord ⟨1, some .onDemand, 50, 50, 0⟩).isSome = true ∧ (checkRecord ⟨1, some .onDemand, 49, 50, 0⟩).isSome = false
    ∧ (checkRecord ⟨1, some .onDemand, 60, 59, 0⟩).isSome = false
    ∧ (checkEntry ⟨true, some .fixed, 255, 192, 12, 12⟩).isSome = true
    ∧ (checkEntry ⟨true, some .fixed, 256, 192, 12, 12⟩).isSome = false ∧ (junction .running).pendingSet = none
    ∧ (State.pendingSet { junction .running with pendingSet := some ⟨junctionPlans, 1⟩ }) = some ⟨junctionPlans, 1⟩
    ∧ (withJob (junction .running) .commitPlans).hasJob .commitPlans = true := ⟨takes_junction _, by decide +kernel⟩

/-- References that fail at each step of the translation, and one that passes. -/
theorem witness_Translation : (17 : Nat) > 16 ∧ junctionPlans.dir[(1 : Fin 16)] = none
    ∧ junctionPlans.dir[(0 : Fin 16)] = some ⟨true, .fixed, 7, 1, 2, 1⟩
    ∧ (PlanEntry.valid ⟨false, .fixed, 7, 1, 2, 1⟩) = false ∧ (8 : Nat) ≠ 0 ∧ junctionPlans.pool.length < 2 + 2 - 1
    ∧ junctionPlans.resolveRecord 3 = none
    ∧ (PlanSet.resolveRecord { junctionPlans with pool := [⟨none, .always, 0, 0, 0⟩] } 1) = none
    ∧ (PlanSet.resolveRecord { junctionPlans with stages := junctionPlans.stages.set 0 ⟨groupSet [0], true⟩ } 1) = none
    ∧ (PlanSet.resolveRecord { junctionPlans with stages := junctionPlans.stages.set 0 ⟨groupSet [], false⟩ } 1) = none
    ∧ junctionPlans.resolveRecord 1 = some ⟨0, .always, 100, 300, 20, groupSet [0]⟩ ∧ (∀ i, i < 2 → junctionPlans.resolveRecord (1 + i) ≠ none) := by decide +kernel

/-- The three copies of a plan set, the pending one absent and present. -/
theorem witness_ReadPlan : (junction .standby).takes ∧ junctionPlans = (junction .standby).inUse
    ∧ junctionPlans = (junction .standby).staging ∧ (junction .standby).pendingSet = none
    ∧ (State.pendingSet { junction .standby with pendingSet := some ⟨junctionPlans, 1⟩ }) = some ⟨junctionPlans, 1⟩ ∧ junctionPlans.pool[2 - 1]? ≠ none
    ∧ junctionPlans.pool.length < 3 ∧ (∃ p, junctionPlans.translate ⟨1, 0⟩ = .ok p) ∧ (∃ k, junctionPlans.translate ⟨255, 255⟩ = .error k) :=
  ⟨takes_junction _, rfl, rfl, rfl, rfl, by decide, by decide, ⟨planOne .fixed, rfl⟩, ⟨.planAbsent, rfl⟩⟩

/-- A table with an entry, and an entry that overlaps it on one day. -/
theorem witness_TimeTable :
    let e : TodEntry := ⟨(Vector.replicate 7 false).set 0 true, 23, 59, .plan ⟨255, 255⟩⟩
    let s := { ready .running with tod := [e] }
    s.takes ∧ s.tod ≠ [] ∧ (checkTod [e] (some ((Vector.replicate 7 false).set 6 true)) 23 59 (some .flash)).isOk = true
      ∧ (checkTod [e] (some (.replicate 7 true)) 23 59 (some .flash)).isOk = false
      ∧ (checkTod [e] (some (.replicate 7 true)) 24 59 (some .flash)).isOk = false
      ∧ (checkTod [e] none 0 0 (some .flash)).isOk = false
      ∧ checkClock 7 23 59 59 ≠ none ∧ checkClock 0 23 59 59 = none ∧ checkClock 8 0 0 0 = none
      ∧ (checkTod [e] (some (.replicate 7 false)) 23 59 (some .flash)).isOk = false
      ∧ 32 ≤ (List.replicate 32 e).length ∧ e.days[(0 : Fin 7)] = true
      ∧ effectiveEntry 0 [e] = some e ∧ (ready .running).clock.valid = false
      ∧ (let t := { s with clock := ⟨1, 0, 0, 0, 0, true⟩ }
        (t.evaluateTable false).engine.change = some ⟨⟨255, 255⟩, .boundary, .timeTable⟩
          ∧ (State.evaluateTable { t with mode := { t.mode with mode := .partFlash } } false).ev.modeReqs = [.planRequest]
          ∧ (State.evaluateTable { t with mode := { t.mode with mode := .standby } } false).engine.change = none
          ∧ (State.evaluateTable { t with tod := [{ e with action := .flash }] } false).ev.modeReqs = [.flash]
          ∧ (State.evaluateTable { t with engine := { t.engine with source := .linkOverride } } false).engine.change = none)
      ∧ (ready .running).tod = [] := by
  refine ⟨⟨rfl, rfl, rfl⟩, ?_⟩; decide +kernel

theorem witness_EffectiveEntry : (∃ d : Fin 7, (Vector.replicate 7 true)[d] = true)
    ∧ effectiveEntry 100 [⟨.replicate 7 true, 0, 1, .base⟩, ⟨.replicate 7 true, 0, 2, .flash⟩]
      = some ⟨.replicate 7 true, 0, 1, .base⟩ := by decide +kernel

/-- START and RESUME with nothing that bars them, and with each bar. -/
theorem witness_StartAndResume : (junction .standby).takes ∧ (junction .standby).inUse.usable = true
    ∧ (junction .standby).mode.responseActive = false ∧ (junction .standby).mode.bringUp = .ok
    ∧ (junction .standby).hasJob .commitConfig = false ∧ (ready .standby).inUse.usable = false
    ∧ (withJob (junction .standby) .commitConfig).hasJob .commitConfig = true ∧ (junction .failsafe).lockouts < 3
    ∧ (junction .failsafe).mode.cause ≠ .bringUp ∧ (junction .failsafe).inUse.usable = true := ⟨takes_junction _, by decide +kernel⟩

theorem witness_StopRequest : (running .fixed).takes ∧ (running .fixed).mode.mode = .running
    ∧ ((running .fixed).groups[(0 : Group)]).aspect = .green ∧ (running .fixed).work.groups[(0 : Group)].type = .vehicle
    ∧ (ModeCtl.target { ModeCtl.default with mode := .shutdown, target := some .partFlash }) = some .partFlash :=
  ⟨takes_running _, by decide +kernel⟩

theorem witness_PlanAndDemand : (running .actuated).takes ∧ (255 : Nat) ≤ 255 ∧ (running .actuated).mode.mode = .running
    ∧ (ready .partFlash).mode.mode = .partFlash ∧ (List.replicate 16 16).length ≤ 16 ∧ (∀ n ∈ List.replicate 16 16, 1 ≤ n ∧ n ≤ 16)
    ∧ 16 < (List.replicate 17 1).length ∧ (running .actuated).engine.inForce = 1 := ⟨takes_running _, by decide +kernel⟩

theorem witness_LearnRequest : (running .fixed).takes ∧ (running .fixed).mode.mode = .running
    ∧ (running .fixed).hasJob .learn = false ∧ (withJob (running .fixed) .learn).hasJob .learn = true
    ∧ (running .fixed).work.used 0 = true ∧ (running .fixed).work.used 7 = false := ⟨takes_running _, by decide +kernel⟩

theorem witness_SurveyJobs : (ready .standby).takes ∧ (ready .standby).hasJob .surveyNow = false
    ∧ (ready .standby).survey.halted = false ∧ (withJob (ready .standby) .surveyNow).hasJob .surveyNow = true
    ∧ (withJob (ready .standby) .learn).link.jobs.find? (·.number = 1) = some ⟨1, .learn, some 5000, []⟩
    ∧ (withJob (ready .standby) .commitPlans).link.jobs.find? (·.number = 1) = some ⟨1, .commitPlans, some 5000, []⟩
    ∧ (withJob (ready .standby) .surveyNow).link.jobs.find? (·.number = 1) = some ⟨1, .surveyNow, some 5000, []⟩ :=
  ⟨takes_ready _, by decide +kernel⟩

theorem witness_Reads : (ready .standby).takes ∧ onlyReads (.readStatus 9 .link 0) = true
    ∧ onlyReads (.readDetector 9 32 false) = true ∧ (16 : Nat) = (15 : Group).val + 1 ∧ (48 : Nat) = (47 : Chan).val + 1 :=
  ⟨takes_ready _, rfl, rfl, rfl, rfl⟩

/-- What the parts show: a stage change, a LEAK request behind a lamp request, a core that waits and a core under test. -/
theorem witness_ReadStatus : changing.engine.state = .changing ∧ changing.sequenceView.gaining[(1 : Group)] = true
    ∧ changing.sequenceView.gaining[(0 : Group)] = false ∧ changing.sequenceView.prevStage = some 1
    ∧ (((ready .standby).place (.lit 3) .lampHigh).place (.leak 9) .leakX16).measView.leakQueued = some (9, .leakX16)
    ∧ (((ready .standby).place (.lit 3) .lampHigh).place (.leak 9) .leakX16).measView.lampQueued = 1
    ∧ ((ready .standby).updCore 63 fun r => { r with test := .waitEligible }).surveyView.waiting = some 63
    ∧ ((ready .standby).testStart 63).survey.underTest = some 63
    ∧ (((ready .standby).testStart 63).coreView 63).charge = some 2000
    ∧ (((ready .standby).place (.leak 9) .leakX16).close.measView.requester = some .surveyor)
    ∧ (((ready .standby).place (.dark 9) .lampHigh).close.measView.requester = some .lampProver) := by decide +kernel

/-- R56, R57, R72: G3, given green in the decision event, is gaining still while G2 waits for its green; an inhibit reason ends it (R58), and no group gains once the change has completed. -/
theorem test_read_status_gaining :
    let r : ResolvedRecord := ⟨1, .onDemand, 80, 300, 0, groupSet [1, 2]⟩
    let s := { running .fixed with
      inUse := { junctionPlans with stages := junctionPlans.stages.set 1 ⟨r.groups, false⟩ }
      engine := { (running .fixed).engine with
        plan := some { planOne .fixed with records := [⟨0, .always, 100, 300, 20, groupSet [0]⟩, r] } } }
    let t := after (exec .greenTimerExpiry (after (exec (.demand 7 [2]) s)))
    let held := { t with groups := t.groups.set 2 { t.groups[(2 : Group)] with hold := true } }
    let u := after (exec (.redAmberTimerExpiry 1) (after (exec (.redAmberStartReached 1) (after (exec (.amberTimerExpiry 0) t)))))
    (t.groups[(2 : Group)]).aspect = .green ∧ (t.groups[(2 : Group)]).pendingGreen = false
      ∧ t.sequenceView.state = .changing ∧ t.sequenceView.gaining = groupSet [1, 2]
      ∧ held.dropInhibited.sequenceView.gaining = groupSet [1]
      ∧ u.engine.state = .green ∧ u.engine.gaining = groupSet [] := by decide +kernel

theorem witness_PowerAndRestart : State.unpowered.power.phase = .off ∧ State.reset.power.phase = .reference
    ∧ State.reset.meas.refEnd = some 20
    ∧ (State.link { ready .standby with link := { Link.default with tx := some (.reply ⟨9, .ok, .empty, true⟩) } }).tx
      = some (.reply ⟨9, .ok, .empty, true⟩) := by decide +kernel

/-- A controller in its bring-up with a blank store, and one with the images of the small junction: the check of each start mode. -/
theorem witness_StartEvent :
    let s := after (exec (.referenceConversionEnd 53477 (.replicate 48 false) false false false) State.reset)
    let t := { s with store := { s.store with nvConfig := some (Stored.form .config 1 (.config ⟨junctionCfg, []⟩)) } }
    s.power.phase = .reading ∧ s.pendingSet = none ∧ s.Fresh ∧ t.power.phase = .reading ∧ t.Fresh
      ∧ startMode (readImage true .config s.store.nvConfig).isSome ((s.failedChecks true).head?.getD .ok) = .unconfigured
      ∧ startMode true ((s.failedChecks true).head?.getD .ok) = .standby
      ∧ startMode true ((s.failedChecks false).head?.getD .ok) = .failsafe
      ∧ (readImage true .survey t.store.nvSurvey) = none ∧ startMode true ((t.failedChecks true).head?.getD .ok) = .standby
      ∧ (readImage true .config t.store.nvConfig).isSome = true := by
  refine ⟨by decide +kernel, by decide +kernel, ?_, by decide +kernel, ?_, by decide +kernel, by decide +kernel,
    by decide +kernel, by decide +kernel, by decide +kernel, ?_⟩
  · constructor <;> decide +kernel
  · constructor <;> decide +kernel
  · have h : (Stored.form .config 1 (.config ⟨junctionCfg, []⟩)).valid .config = true := by
      have k : imageOverhead + (contentBytes .config (.config ⟨junctionCfg, []⟩)).length ≤ ImageKind.capacity .config := by
        have h0 : imageOverhead ≤ 4096 * 4 := by
          have := Config.headerWidths.1.isLt; have := Config.headerWidths.2.1.isLt; have := Config.headerWidths.2.2.isLt
          have hb : ∀ n x, (bigEndian n x).length = n := by
            intro n x; induction n with
            | zero => rfl
            | succ n ih => simp [bigEndian, ih]
          simp only [imageOverhead, imageHeader, List.length_append, hb]; omega
        simp only [contentBytes, List.length_take, ImageKind.capacity, ImageKind.span]; omega
      simp only [Stored.valid, Stored.check, Stored.form, k, decide_true, Bool.and_self]
    simp only [readImage, if_true, Option.filter, h, Option.isSome]

/-- The group timers: an amber that ends, a gaining group at its red-amber start, in red-amber, and one that is no VEHICLE group. -/
theorem witness_GroupTimers : (changing.groups[(0 : Group)]).amberTimer = some 23000
    ∧ (changing.groups[(1 : Group)]).pendingGreen = true ∧ (changing.groups[(1 : Group)]).aspect = .red
    ∧ (changing.groups[(1 : Group)]).redAmberStart = some 23500
    ∧ ((after (exec (.redAmberStartReached 1) changing)).groups[(1 : Group)]).redAmberTimer = some 25500
    ∧ (GroupRun.pendingGreen { GroupRun.default with pendingGreen := true, greenRelease := some 1 }) = true
    ∧ junctionCfg.groups[(2 : Group)].type ≠ .vehicle := by decide +kernel

theorem witness_ReleaseTime : (running .fixed).work.ig[(0 : Group)][(1 : Group)] = some 55
    ∧ (changing.groups[(0 : Group)]).lastGreenOff = some 20000 ∧ (changing.groups[(0 : Group)]).greenMark = true
    ∧ (changing.groups[(0 : Group)]).aspect = .amber := by decide +kernel

theorem witness_GreenPeriods : (running .fixed).engine.greenTimer = some 20000
    ∧ (State.stopTimers (running .actuated)).engine.greenTimer = none ∧ (running .actuated).engine.change = none
    ∧ (running .fixed).engine.plan = some (planOne .fixed) ∧ (planOne .actuated).kind = .actuated
    ∧ (running .actuated).opposing = false ∧ (after (exec (.demand 7 [2]) (running .actuated))).opposing = true
    ∧ (after (exec (.demand 7 [2]) (running .actuated))).engine.maxTimer = some 40000
    ∧ (let s := { running .actuated with engine := { (running .actuated).engine with
          demands := (Vector.replicate 16 false).set 1 true, greenTimer := none } }
      s.opposing = true ∧ s.ev.maxOut = false ∧ s.engine.maxTimer = none ∧ s.engine.record = some 1
        ∧ s.engine.gapped = false ∧ (s.workGreen false).engine.maxTimer = some 40000
        ∧ (State.workGreen { s with engine := { s.engine with gapped := true } } false).engine.state = .changing)
    ∧ (let s := { running .fixed with engine := { (running .fixed).engine with
          greenTimer := none, change := some ⟨⟨1, 7⟩, .prompt, .link⟩ } }
      s.inUse.dir[(0 : Fin 16)] ≠ none ∧ (s.workGreen false).engine.plan.map (·.ref) = some ⟨1, 7⟩
        ∧ (s.workGreen false).engine.change = none)
    ∧ (let s := running .fixed
      let t := State.dropInhibited { s with groups := s.groups.set 0 { s.groups[(0 : Group)] with hold := true } }
      s.engine.state = .green ∧ (s.stageGroups 1)[(0 : Group)] = true ∧ (s.groups[(0 : Group)]).aspect = .green
        ∧ (t.groups[(0 : Group)]).aspect = .amber) := by decide +kernel

/-- In ALL_RED with no current plan a PROMPT change is taken (R64): with the engine barred (R61 step 3) its plan becomes current without a decision, else a decision is taken; one that fails is reported, and the base reference is translated instead (R37). -/
theorem test_prompt_without_plan :
    let e := { Engine.default with state := .allRed, stage := some 0 }
    let two : PlanSet := { junctionPlans with dir := PlanSet.empty.dir.set 1 (some ⟨true, .fixed, 9, 1, 2, 1⟩) }
    let red := (running .fixed).groups.set 0 { GroupRun.default with aspect := .red }
    let s (barred : Bool) := { running .fixed with groups := red, inUse := two, engine := { e with barred := barred } }
    let good := after (exec (.selectPlan 7 ⟨2, 9⟩ (some .prompt)) (s true))
    let free := after (exec (.selectPlan 7 ⟨2, 9⟩ (some .prompt)) (s false))
    let bad := after (exec (.selectPlan 7 ⟨3, 0⟩ (some .prompt)) (s true))
    let base := after (exec (.selectPlan 7 ⟨3, 0⟩ (some .prompt)) { running .fixed with groups := red, engine := e })
    good.engine.plan.map (·.ref) = some ⟨2, 9⟩ ∧ good.engine.change = none ∧ good.engine.state = .allRed
      ∧ (after (exec (.demand 7 [1]) good)).engine.state = .allRed
      ∧ free.engine.plan.map (·.ref) = some ⟨2, 9⟩ ∧ free.engine.state = .green ∧ (free.groups[(0 : Group)]).aspect = .green
      ∧ bad.engine.plan = none ∧ bad.engine.change = none ∧ bad.engine.state = .allRed
      ∧ bad.faults.confirmed = [⟨.plan 3, .planAbsent⟩, ⟨.plan 1, .planAbsent⟩]
      ∧ base.engine.plan.map (·.ref) = some ⟨1, 0⟩ ∧ base.engine.state = .green
      ∧ base.faults.confirmed = [⟨.plan 3, .planAbsent⟩] := by decide +kernel

/-- The clauses of RESTING and ALL_RED: an occasion with a current plan, and a PROMPT change pending after it; a last green ended in RESTING. -/
theorem witness_workIdle :
    let s := { running .fixed with engine := { (running .fixed).engine with
      state := .resting, greenTimer := none, change := some ⟨⟨3, 0⟩, .prompt, .link⟩ } }
    let t := State.dropInhibited { s with groups := s.groups.set 0 { s.groups[(0 : Group)] with hold := true } }
    s.engine.state = .resting ∧ s.engine.change.map (·.timing) = some .prompt ∧ (s.workIdle false).engine.change = none
      ∧ s.takePrompt.2 = false ∧ s.engine.plan ≠ none ∧ (s.stageGroups 1)[(0 : Group)] = true
      ∧ (s.groups[(0 : Group)]).aspect = .green ∧ (t.groups[(0 : Group)]).aspect = .amber
      ∧ s.engine.barred = false := by decide +kernel

/-- R36, R45: a resolved plan goes out as number, entry tag, kind, start index and records; the reference that resolved it, here with tag 0, does not. -/
theorem test_resolved_fields : (ReplyBody.resolved { planOne .fixed with records := [] }).payload.fields
    = [("plan number", .number 1), ("entry tag", .number 7), ("kind", .name (.planKind .fixed)), ("start index", .number 1)] := rfl

/-- R50, R77: with G1 at rest, gapped, one activation of a detector that extends S1 and demands S2 clears the gapped mark, and the green goes on (log 95); without the extend stage it gaps out. -/
theorem test_activation_extends :
    let s (extend : Option (Fin 16)) := { running .actuated with
      work := { junctionCfg with dets := junctionCfg.dets.set 0 ⟨.presence, groupSet [1], extend, 60, 0, 0⟩ }
      dets := (running .actuated).dets.set 0 { DetRun.default with raw := true, debounce := some 10000 }
      engine := { (running .actuated).engine with greenTimer := none, gapped := true } }
    let t := after (exec (.debounceTimerExpiry 0) (s (some 0)))
    (s (some 0)).opposing = false ∧ t.opposing = true ∧ t.engine.state = .green ∧ t.engine.gapped = false
      ∧ (after (exec (.debounceTimerExpiry 0) (s none))).engine.state = .changing := by decide +kernel

/-- A decision with a record of another stage ahead, and one of the stage in force. -/
theorem witness_Decision : (running .fixed).engine.plan = some (planOne .fixed) ∧ (running .fixed).engine.record = some 1
    ∧ (planOne .fixed).records[2 - 1]? = some ⟨1, .onDemand, 80, 300, 0, groupSet [1]⟩
    ∧ (after (exec (.demand 7 [2]) (running .fixed))).qualifies ⟨1, .onDemand, 80, 300, 0, groupSet [1]⟩ = true
    ∧ (running .fixed).qualifies ⟨0, .always, 100, 300, 20, groupSet [0]⟩ = true ∧ (running .fixed).engine.inForce = 1 := by
  decide +kernel

/-- The record of stage 2 taken in place of stage 1: G1 loses its green, G2 gains, with the intergreen of 5.5 s from G1 and a red-amber of 2.0 s (R21, R22). -/
theorem witness_Gains :
    let r : ResolvedRecord := ⟨1, .onDemand, 80, 300, 0, groupSet [1]⟩
    let s := after (exec (.demand 7 [2]) (running .fixed))
    let g := s.takeDecision.groups[(1 : Group)]
    s.work.Peaceful r.groups ∧ (s.groups[(1 : Group)]).aspect = .red ∧ r.groups[(1 : Group)] = true ∧ s.MayGain 1
      ∧ s.work.ig[(0 : Group)][(1 : Group)] = some 55 ∧ s.greenOff r 0 = some s.now ∧ g.pendingGreen = true
      ∧ g.greenRelease = some (s.now + 5500) ∧ g.redAmberStart = some (s.now + 3500) ∧ g.aspect = .red
      ∧ ¬ s.MayGain 5 := by
  unfold Settings.Peaceful State.MayGain
  decide +kernel

/-- The plan boundary: with nothing pending, with a change, with a set, and with no current record. -/
theorem witness_Boundary :
    let s := running .fixed
    let c := { s with engine := { s.engine with change := some ⟨⟨1, 7⟩, .boundary, .link⟩, record := none } }
    let q := { s with pendingSet := some ⟨junctionPlans, 3⟩ }
    s.qualifies ⟨1, .onDemand, 80, 300, 0, groupSet [1]⟩ = false ∧ s.crossBoundary.2 = false
      ∧ c.engine.record = none ∧ c.crossBoundary.2 = true ∧ q.crossBoundary.2 = true
      ∧ c.crossBoundary.1.engine.plan = some ⟨⟨1, 7⟩, 1, 7, .fixed, 1, (planOne .fixed).records⟩
      ∧ q.crossBoundary.1.engine.plan = some (planOne .fixed) := by
  decide +kernel

/-- R18, R55: in ALL_RED the removal of G1's last reason begins a change in which G1 is not given green; the event that follows gives it. -/
theorem test_freed :
    let s := { running .fixed with
      engine := { (running .fixed).engine with state := .allRed, stage := some 0, greenTimer := none }
      groups := (running .fixed).groups.set 0 { GroupRun.default with aspect := .red, hold := true } }
    let t := s.setHold 0 false
    let u := s.cascade t
    (s.groups[(0 : Group)]).inhibited = true ∧ t.ev.freed = [0] ∧ t.ev.occasion = true ∧ u.ev = .none
      ∧ u.engine.state = .changing ∧ (u.groups[(0 : Group)]).aspect = .red ∧ (u.groups[(0 : Group)]).greenRelease = some 10000
      ∧ ((after (exec (.redAmberStartReached 0) u)).groups[(0 : Group)]).aspect = .green
      ∧ (after (exec (.redAmberStartReached 0) u)).engine.state = .green := by decide +kernel

theorem witness_InhibitReasons : (running .fixed).work.ig[(0 : Group)][(1 : Group)] ≠ none
    ∧ (⟨.group 0, .redOut⟩ : Cond) ∉ (running .fixed).faults.confirmed
    ∧ (⟨.group 0, .redOut⟩ : Cond) ∈ ((running .fixed).confirm ⟨.group 0, .redOut⟩ .normal).faults.confirmed
    ∧ (GroupRun.inhibited { GroupRun.default with hold := true }) = true
    ∧ (State.patternOf { running .fixed with faults := { Faults.default with confirmed := [⟨.channel 2, .lampOut⟩] } } 0) = 4
    ∧ (Settings.respOf .default 4).response = .holdGroup ∧ (Settings.respOf .default 8).immediate = true := by decide +kernel

theorem witness_ModeEntry : Mode.failsafe ≠ .running ∧ Mode.failsafe ≠ .shutdown
    ∧ (running .fixed).smc.state ≠ .failed ∧ (running .fixed).ftr.state ≠ .failed
    ∧ (((running .fixed).enterMode .failsafe).smc.state = .rest ∨ ((running .fixed).enterMode .failsafe).smc.coil = true)
    ∧ (Relay.state { Relay.default with state := .operated }) = .operated := by decide +kernel

/-- R94: a red failed open and a green found welded at the entry of START_FLASH, and one that failed by a crosspoint whose line is closed. -/
theorem witness_resetFailed :
    let r : Relay := { Relay.default with state := .failedOpen, origin := .noOperate }
    let w : Relay := { Relay.default with state := .failedClosed, origin := .welded, proof := true }
    let s := { (ready .standby).observe ⟨.channel 3, .relayNoOperate⟩ with
      work := junctionCfg
      relays := (((ready .standby).relays.set 3 r).set 2 w).set 5 { r with origin := .crosspoint }
      survey := { (ready .standby).survey with lineClosed := true }
      smc := { SupplyRelay.default with state := .failed } }
    let u := s.enterMode .startFlash
    (⟨.channel 3, .relayNoOperate⟩ : Cond) ∈ s.faults.confirmed ∧ s.work.used 3 = true ∧ (2 : Chan) = chanOf 0 2
      ∧ u.relays[(3 : Chan)] = { Relay.default with darkSince := some 0 } ∧ (u.lamps[(3 : Chan)]).dark = some 500
      ∧ (u.relays[(2 : Chan)]).state = .failedClosed ∧ (u.relays[(5 : Chan)]).state = .failedOpen
      ∧ u.smc.state = .operating ∧ u.faults.confirmed = [⟨.channel 2, .relayWelded⟩, ⟨.group 0, .uncommandedGreen⟩]
      ∧ (u.faults.alarms.map fun a => (a.key, a.active))
        = [(⟨.channel 3, .relayNoOperate⟩, false), (⟨.channel 2, .relayWelded⟩, true), (⟨.group 0, .uncommandedGreen⟩, true)] := by
  decide +kernel

/-- The mode timer in each of its modes, with the supply relays in place and not. -/
theorem witness_ModeTimers :
    let s (m : Mode) := { ready m with mode := { ModeCtl.default with mode := m, timer := some 10000, target := some .failsafe } }
    (s .startFlash).mode.timer = some 10000 ∧ (s .startFlash).smc.state ≠ .operated
      ∧ (SupplyRelay.state { SupplyRelay.default with state := .operated }) = .operated ∧ (s .shutdown).mode.target = some .failsafe
      ∧ (let x := { s .startRed with
          smc := { SupplyRelay.default with state := .operated }, ftr := { SupplyRelay.default with state := .operated } }
        let t := after (exec .startRedExpiry x)
        x.mode.timer = some 10000 ∧ x.pendingSet = none ∧ x.entryRef = ⟨1, 0⟩ ∧ t.mode.mode = .running
          ∧ t.engine.state = .allRed ∧ t.engine.barred = true ∧ t.engine.plan = none
          ∧ (t.enterShutdown .standby false).engine.barred = false) := by
  decide +kernel

theorem witness_DetectorEvents :
    let s := { ready .running with
      work := { Settings.default with dets := Settings.default.dets.set 0 ⟨.presence, .replicate 16 true, some 3, 20, 1, 72⟩ }
      dets := (ready .running).dets.set 0 ⟨true, false, .quiet, some 20, some 0, some 0, 65535⟩ }
    s.power.phase = .running ∧ (s.dets[(0 : Det)]).debounce = some 20 ∧ (s.dets[(0 : Det)]).raw = true
      ∧ (s.dets[(0 : Det)]).accepted = false ∧ s.stuckDue 0 = some 60000 ∧ s.quietDue 0 = some 259200000
      ∧ s.work.dets[(1 : Det)].kind = .disabled := by decide +kernel

/-- A PRESENCE detector in STUCK whose input has become inactive. -/
theorem witness_AcceptedDeactivation :
    let s := { ready .running with
      work := { Settings.default with dets := Settings.default.dets.set 0 ⟨.presence, .replicate 16 true, some 3, 20, 1, 72⟩ }
      dets := (ready .running).dets.set 0 ⟨false, true, .stuck, some 20, none, none, 1⟩ }
    (s.dets[(0 : Det)]).debounce = some 20 ∧ s.work.dets[(0 : Det)].kind ≠ .disabled ∧ (s.dets[(0 : Det)]).raw = false
      ∧ (s.dets[(0 : Det)]).accepted = true ∧ s.work.dets[(0 : Det)].extend = some 3 := by decide +kernel

/-- A relay under test, one released, and each other state. -/
def underTest : State :=
  { junction .running with
    work := { junctionCfg with cores := junctionCfg.cores.set 0 ⟨1, 1, .load 2⟩ }
    cores := (junction .running).cores.set 0 ⟨.cleared, .due, 0, .charging⟩
    survey := { Survey.default with active := true, underTest := some 0, connected := some (0, 0), charge := some 2000 } }

theorem witness_RelayCommands : underTest.testedCore 2 = some 0 ∧ underTest.testedCore 5 = none
    ∧ (underTest.relays[(2 : Chan)]).state = .released ∧ (underTest.relays[(2 : Chan)]).held = false
    ∧ underTest.mode.mode = .running ∧ (underTest.cores[(0 : CoreId)]).test ≠ .releasing := by decide +kernel

theorem witness_LoadRelayEvents : (underTest.relays[(2 : Chan)]).proof = false ∧ underTest.power.phase = .running
    ∧ (((underTest.operate 5).relays[(5 : Chan)]).state = .operating)
    ∧ (((underTest.operate 5).relays[(5 : Chan)]).opTimer = some 40)
    ∧ ((underTest.operate 2).relays[(2 : Chan)]).waitTimer = some 20
    ∧ ((underTest.operate 2).relays[(2 : Chan)]).waitCore = some 0
    ∧ (((underTest.operate 5).relayClosed 5).release 5).relays[(5 : Chan)].relTimer = some 60
    ∧ ((((underTest.operate 5).release 5).operate 5).relays[(5 : Chan)].state = .releasing)
    ∧ ((((underTest.operate 5).release 5).operate 5).relays[(5 : Chan)].held = true)
    ∧ ((((underTest.operate 5).release 5).operate 5).testedCore 5 = none) := by decide +kernel

/-- A proven-on of a used channel, the release of a channel in a lit period, and a failed-open of a red, an amber and a green. -/
theorem witness_LitPeriods :
    let s := (running .fixed).operate 3
    let t := after (exec (.loadProofClosed 3) s)
    s.work.used 3 = true ∧ (s.relays[(3 : Chan)]).state = .operating ∧ (s.relays[(3 : Chan)]).proof = false
      ∧ s.power.phase = .running ∧ (t.lamps[(3 : Chan)]).lit = .lit ∧ (t.relays[(3 : Chan)]).state = .operated
      ∧ (t.lamps[(3 : Chan)]).learning = false ∧ (t.release 3).lamps[(3 : Chan)].lit = .none
      ∧ colourOf 3 = 0 ∧ 0 < s.work.groups[groupOf 3].rmin ∧ s.commanded 3 = true ∧ s.commanded 4 = false
      ∧ ((s.failOpen 3 .noOperate).lamps[(3 : Chan)]).lit = .failed ∧ ((s.failOpen 4 .noOperate).lamps[(4 : Chan)]).lit = .none := by
  decide +kernel

/-- A relay in RELEASING, its proof closed and an operate held, while the core of its channel is under test. -/
theorem witness_HeldOperate :
    let r : Relay := { Relay.default with state := .releasing, proof := true, held := true, relTimer := some 60 }
    let s := { underTest with relays := underTest.relays.set 2 r }
    (s.relays[(2 : Chan)]).state = .releasing ∧ (s.relays[(2 : Chan)]).held = true
      ∧ (s.relays[(2 : Chan)]).relTimer = some 60 ∧ s.testedCore 2 = some 0
      ∧ ((after (exec (.loadProofOpened 2) s)).relays[(2 : Chan)]).waitTimer = some 20 := by decide +kernel

theorem witness_SupplyRelayEvents : (ready .standby).smc.proof = false ∧ (ready .standby).power.phase = .running
    ∧ (ready .standby).smcClose.smc.opTimer = some 40
    ∧ (SupplyRelay.relTimer { SupplyRelay.default with state := .releasing, proof := true, held := true, relTimer := some 60 })
      = some 60 := by decide +kernel

theorem witness_OutputMonitor : junctionCfg.groups[(0 : Group)].type ≠ .unused ∧ junctionCfg.groups[(3 : Group)].type = .unused
    ∧ (ready .failsafe).mode.mode = .failsafe ∧ (ready .running).mode.mode ≠ .failsafe := by decide +kernel

/-- G2's green relay welded while G1 is proven: CONFLICT and UNCOMMANDED_GREEN arise on G2 and make one trip; with the relay released both are over. -/
theorem witness_judgeMonitor :
    let weld (x : RelayState) (s : State) : State :=
      { s with relays := s.relays.set 5 { Relay.default with state := x } }
    let s := State.judgeMonitor { running .fixed with
      relays := (running .fixed).relays.set 2 { Relay.default with state := .operated } }
    let t := (weld .failedClosed s).judgeMonitor
    let u := (weld .released t).judgeMonitor
    s.lockouts = 0 ∧ (weld .failedClosed s).TripArises t.monitor 1 .uncommandedGreen
      ∧ t.faults.confirmed = [⟨.group 1, .conflict⟩, ⟨.group 1, .uncommandedGreen⟩] ∧ t.lockouts = 1
      ∧ t.ev.modeReqs = [.trip] ∧ (weld .released t).TripOver u.monitor 1 .conflict
      ∧ u.faults.confirmed = [] ∧ u.lockouts = 1 := by
  unfold State.TripArises State.TripOver
  decide +kernel

/-- A boundary in each state of the converter, and the mains timers. -/
theorem witness_MainsEvents :
    (ready .standby).power.phase = .running ∧ (ready .standby).meas.conv = .idle
      ∧ (((ready .standby).place (.lit 3) .lampHigh).close.meas.conv = .armed)
      ∧ (((ready .standby).place (.lit 3) .lampHigh).close.meas.current).isSome = true
      ∧ (Mains.timeout { Mains.default with timeout := some 15 }) = some 15
      ∧ (Mains.lossTimer { Mains.default with state := .dip, lossTimer := some 200 }) = some 200
      ∧ (Mains.returnTimer { Mains.default with state := .loss, returnTimer := some 2000 }) = some 2000
      ∧ (chooseReq [⟨.leak 0, .leakX16, none, 1⟩, ⟨.lit 4, .lampHigh, none, 2⟩, ⟨.lit 3, .lampHigh, none, 2⟩])
        = some ⟨.lit 3, .lampHigh, none, 2⟩
      ∧ ((ready .standby).resultOf ⟨.lit 3, .lampHigh, some 1, 2⟩ 0 false).stale = true
      ∧ (State.work { ready .standby with work := { Settings.default with
          cores := Settings.default.cores.set 5 ⟨1, 6, .load 3⟩ } }).cores[(5 : CoreId)].role = .load 3
      ∧ (ready .standby).work.cores[(5 : CoreId)].role = .unused := by decide +kernel

theorem witness_LampTimers :
    let l : LampRun := { LampRun.default with lit := .lit, settle := some 200, repeatTimer := some 1000, dark := some 500 }
    let s := { running .fixed with lamps := (running .fixed).lamps.set 1 l }
    (s.lamps[(1 : Chan)]).settle = some 200 ∧ (s.lamps[(1 : Chan)]).repeatTimer = some 1000
      ∧ (s.lamps[(1 : Chan)]).dark = some 500 ∧ (s.relays[(1 : Chan)]).state = .released ∧ s.vehicleAmber 1 = true
      ∧ s.flashBus = false ∧ ((withJob s .learn).job? .learn).bind (·.limit) = some 5000
      ∧ (allChans.filter fun x => ((State.lamps { s with lamps := s.lamps.set 47 { l with learning := true } })[x]).learning) = [47] := by decide +kernel

theorem witness_LampReadings : (running .fixed).work.used 2 = true ∧ (2 : Chan) = chanOf 0 2
    ∧ (running .fixed).work.channels[(2 : Chan)].leakApplied < 31 ∧ ([100, 100, 90, 95] : List Nat) ≠ []
    ∧ spreadOk [100, 100, 90, 95] = true ∧ spreadOk [100, 100, 89, 95] = false
    ∧ within 20 3000 (learnCandidate [100, 100, 90, 95] 1) = true := by decide +kernel

/-- R127, R129: a LIT reading in band that makes the count reach k, one that finds it there already, and a DARK reading within the threshold, supplied and not. -/
theorem witness_ClearingCounts :
    let one (n : Nat) (b : Bool) : LampRun := { LampRun.default with litCount := n, litReached := b, darkCount := n, darkReached := b }
    let kind : Cond := ⟨.channel 2, .lampOut⟩
    let dark : Cond := ⟨.channel 2, .darkCurrent⟩
    let s (n : Nat) (b p : Bool) : State := State.confirm (State.confirm { running .fixed with
        lamps := (running .fixed).lamps.set 2 (one n b)
        smc := { SupplyRelay.default with proof := p }
        ftr := { SupplyRelay.default with proof := true } } kind .normal) dark .normal
    let k := (running .fixed).work.thr.lampK
    let range := lampRange (running .fixed).work.channels[(2 : Chan)].lamp
    let lit (n : Nat) (b : Bool) (x : BitVec 16) : State := (s n b true).lampResult ⟨.lit 2, range, x, false, false⟩
    let off (n : Nat) (p : Bool) : State := (s n false p).lampResult ⟨.dark 2, range, 0, false, false⟩
    2 ≤ k ∧ k ≤ 7 ∧ (running .fixed).work.used 2 = true
      ∧ kind ∈ (s 0 false true).faults.confirmed ∧ dark ∈ (s 0 false true).faults.confirmed
      ∧ kind ∉ (lit (k - 1) false 1000).faults.confirmed ∧ ((lit (k - 1) false 1000).lamps[(2 : Chan)]).litCount = k
      ∧ kind ∈ (lit k true 1000).faults.confirmed ∧ ((lit k true 1000).lamps[(2 : Chan)]).litCount = k + 1
      ∧ kind ∉ (lit k false 1000).faults.confirmed
      ∧ kind ∈ (lit 0 false 1000).faults.confirmed ∧ ((lit k true 0).lamps[(2 : Chan)]).litCount = 0
      ∧ dark ∉ (off (k - 1) true).faults.confirmed ∧ ((off (k - 1) true).lamps[(2 : Chan)]).darkCount = k
      ∧ dark ∈ (off 0 true).faults.confirmed
      ∧ dark ∈ (off (k - 1) false).faults.confirmed ∧ ((off (k - 1) false).lamps[(2 : Chan)]).darkCount = k - 1 := by
  decide +kernel

theorem witness_SurveyEvents : underTest.survey.charge = some 2000 ∧ underTest.survey.underTest = some 0
    ∧ underTest.survey.lineClosed = false ∧ (underTest.abandon 0 true).survey.release = some 20
    ∧ ((underTest.abandon 0 true).cores[(0 : CoreId)]).test = .releasing
    ∧ ((ready .standby).beginPass false).survey.interval = some 86400000
    ∧ ((ready .standby).beginPass false).survey.window = some 14400000
    ∧ ((ready .standby).beginPass false).survey.startHeld = false
    ∧ (let v := { (ready .standby).beginPass false with survey := { ((ready .standby).beginPass false).survey with startHeld := true } }
      v.survey.active = true ∧ v.survey.underTest = none ∧ v.survey.startHeld = true ∧ v.survey.halted = false
        ∧ (after (exec .windowTimerExpiry v)).survey.passNo = 2
        ∧ (after (exec .windowTimerExpiry { v with survey := { v.survey with halted := true } })).survey.active = false) := by
  decide +kernel

/-- Cores of each role, a selection that starts a test, one with no core eligible, one with no core due, and none. -/
theorem witness_Selection :
    let cores := ((Settings.default.cores.set 0 ⟨1, 1, .common⟩).set 1 ⟨1, 2, .spare⟩).set 2 ⟨1, 3, .load 2⟩
    let s := State.beginPass { junction .running with work := { junctionCfg with cores := cores }, smc := { SupplyRelay.default with proof := true } } false
    let w := { s with cores := s.cores.set 1 { s.cores[(1 : CoreId)] with mark := .tested } }
    s.dueOrder = [0] ++ 1 :: [2] ∧ s.survey.active = true ∧ s.survey.halted = false ∧ s.survey.underTest = none
      ∧ s.survey.lineClosed = false ∧ s.coreEligible 1 s.now = true ∧ s.coreEligible 0 s.now = false
      ∧ s.selection.survey.underTest = some 1 ∧ (s.relays[(2 : Chan)]).darkSince = some 0
      ∧ w.dueOrder = 0 :: [2] ∧ (∀ x ∈ w.dueOrder, w.coreEligible x w.now = false) ∧ w.coreEligible 2 1000 = true
      ∧ w.selection.survey.eligibility = some 1000 ∧ (w.selection.cores[(0 : CoreId)]).test = .waitEligible
      ∧ ((ready .standby).beginPass false).dueOrder = [] ∧ (ready .standby).selection = ready .standby := by
  decide +kernel

/-- S below, at and above a threshold and its hysteresis point, with the condition confirmed and not. -/
theorem witness_JudgeLevel :
    let k : Cond := ⟨.core 0, .insulationLow⟩
    let s := (ready .running).confirm k .normal
    (499 : Nat) < 500 ∧ 500 * 5 / 4 = 625 ∧ k ∈ s.faults.confirmed ∧ k ∉ (ready .running).faults.confirmed
      ∧ (s.cores[(0 : CoreId)]).hist.level = .low ∧ s.judgeLevel 0 .insulationLow 624 500 = s
      ∧ ((s.judgeLevel 0 .insulationLow 625 500).cores[(0 : CoreId)]).hist.level = .ok
      ∧ (s.cores[(0 : CoreId)]).hist.untested ≠ 3 ∧ s.work.thr.low ≤ 500
      ∧ (let c : Cond := ⟨.core 0, .coreUntestable⟩
        let t := ((ready .running).updCore 0 fun r => { r with hist := { r.hist with untested := 3 } }).confirm c .normal
        c ∈ t.faults.confirmed ∧ (t.cores[(0 : CoreId)]).hist.untested = 3
          ∧ c ∉ (t.record 0 700 false).faults.confirmed) := by decide +kernel

theorem witness_LeakReadings :
    let s := { underTest with cores := underTest.cores.set 0 ⟨.cleared, .due, 0, .measureX1⟩ }
    let a := { s with cores := s.cores.set 0 ⟨.cleared, .due, 4, .measureX1⟩ }
    ((a.leakResult ⟨.leak 0, .leakX1, 0, true, false⟩).cores[(0 : CoreId)]).mark = .deferred ∧
    s.survey.underTest = some 0 ∧ (s.cores[(0 : CoreId)]).test = .measureX1 ∧ (65535#16).toNat = 65535
      ∧ (s.cores[(0 : CoreId)]).hist.smoothed = none := by decide +kernel

/-- A condition of each class, without a record and with one at each level. -/
theorem witness_FaultReports :
    (Cond.cls ⟨.channel 2, .darkCurrent⟩) = 1 ∧ (Cond.cls ⟨.group 0, .redOut⟩) = 2 ∧ (Cond.cls ⟨.channel 1, .lampOut⟩) = 3
      ∧ ((ready .running).observe ⟨.channel 1, .lampOut⟩).faults.suspicions = [⟨⟨.channel 1, .lampOut⟩, 3, 1, 1, 0, none⟩]
      ∧ (((((ready .running).observe ⟨.channel 1, .lampOut⟩).observe ⟨.channel 1, .lampOut⟩).observe
          ⟨.channel 1, .lampOut⟩).holdTimer ⟨.channel 1, heldKind .lampOut⟩) = some 900000
      ∧ ((ready .running).confirm ⟨.group 0, .redOut⟩ .normal).faults.alarms.length = 1
      ∧ (let s := (ready .running).observe ⟨.channel 1, .lampOut⟩
        let d := (ready .running).observe ⟨.channel 1, .darkCurrent⟩
        s.faults.suspicions[0]? = some ⟨⟨.channel 1, .lampOut⟩, 3, 1, 1, 0, none⟩
        ∧ (s.litEnd 1).faults.suspicions[0]? = some ⟨⟨.channel 1, .lampOut⟩, 3, 2, 1, 0, none⟩
        ∧ (d.darkEnd 1).faults.suspicions[0]? = some ⟨⟨.channel 1, .darkCurrent⟩, 2, 2, 1, 0, none⟩) := by decide +kernel

theorem witness_StoreWrites : (ready .standby).store.writing = none ∧ ((ready .standby).placeStore .plans).store.queue ≠ []
    ∧ (after (exec (.commitPlans 9) (junction .standby))).store.writing.map (fun w => (w.image, w.forCommit)) = some (.plans, true)
    ∧ (after (exec (.commitConfig 9) (junction .standby))).store.writing.map (fun w => (w.image, w.forCommit))
      = some (.config, true)
    ∧ ((after (exec (.commitConfig 9) (junction .standby))).job? (jobOf .config)).isSome = true
    ∧ ((after (exec (.commitConfig 9) (junction .standby))).endCond ⟨.image .config, .storeWriteFailed⟩).link.notices.length < 16
    := by decide +kernel

/-- R119, R138, R159: a commit that makes core 6 a LOAD core, makes core 7 UNUSED and takes the pedestrian group away. -/
theorem witness_CommitBlocks :
    let kept : CoreCfg := ⟨1, 7, .spare⟩
    let old := { junctionCfg with cores := junctionCfg.cores.set 6 kept }
    let s := { junction .standby with
      work := old
      edit := { junctionCfg with cores := junctionCfg.cores.set 5 ⟨1, 6, .load 3⟩, groups := junctionCfg.groups.set 2 GroupCfg.default }
      survey := { Survey.default with active := true }
      cores := (junction .standby).cores.set 6 ⟨⟨some 90, some 80, [(80, 1)], .low, 2⟩, .due, 1, .idle⟩
      faults := { Faults.default with
        confirmed := [⟨.core 6, .insulationLow⟩, ⟨.channel 8, .lampOut⟩, ⟨.group 2, .redOut⟩]
        suspicions := [⟨⟨.channel 6, .overcurrent⟩, 2, 1, 1, 0, none⟩] } }
    let t := after (exec (.commitConfig 9) s)
    let u := after (exec (.storeWriteComplete true) t)
    t.store.writing.map (fun w => (w.image, w.forCommit)) = some (.config, true)
      ∧ old.cores[(5 : CoreId)].role = .unused ∧ s.edit.cores[(5 : CoreId)].role ≠ .unused ∧ s.edit.cores[(6 : CoreId)].role = .unused
      ∧ (u.cores[(5 : CoreId)]).mark = .due ∧ (u.cores[(6 : CoreId)]).mark = .none ∧ (u.cores[(6 : CoreId)]).hist = .cleared
      ∧ u.faults.confirmed = [] ∧ u.faults.suspicions = []
      ∧ old.used 8 = true ∧ s.edit.used 8 = false ∧ colourOf 6 = 0 ∧ colourOf 8 ≠ 0 := by decide +kernel

end Sys2Proof.Tests
end

/-! SUPPORT. What one step can do to the items that the safety laws read, said once. `Calm s t`: nothing of them but the inhibit reasons has changed. `Move s t`: one named change of them, with the condition under which the model makes it. Every step is a chain of moves. -/

namespace Sys2Proof.Machine

/-! ### Changes that the laws do not read -/

/-- Whether groups conflict is a matter of the intergreen matrix alone (R11). -/
theorem Settings.Peaceful.of_ig {cfg cfg' : Settings} {gs : GroupSet} (x : cfg.Peaceful gs) (h : cfg'.ig = cfg.ig) :
    cfg'.Peaceful gs := fun i j n a b => by
  unfold Settings.conflict
  rw [h]
  exact x i j n a b

/-- Every record of the current plan holds groups fit to be shown together (R25). -/
def State.Fit (s : State) : Prop := ∀ p, s.engine.plan = some p → ∀ r ∈ p.records, s.work.Peaceful r.groups

/-- From s to t nothing has changed that the conflict law, the intergreen law, R9 or R16 reads, but for the inhibit reasons and for plans, whose stages and records stay fit; a COMMIT_CONFIG job and its write may have ended. -/
structure Calm (s t : State) : Prop where
  phase    : t.power.phase = s.power.phase := by rfl
  now      : t.now = s.now := by rfl
  types    : t.work.groups = s.work.groups := by rfl
  ig       : t.work.ig = s.work.ig := by rfl
  junction : t.work.junction = s.work.junction := by rfl
  voids    : s.VoidsSet → t.VoidsSet := by exact id
  records  : s.VoidsSet → s.Fit → t.Fit := by exact fun _ => id
  groups   : SameAspects s.groups t.groups := by exact SameAspects.refl _
  state    : t.engine.state = s.engine.state := by rfl
  plan     : s.mode.mode ≠ .running → s.engine.plan = none → t.engine.plan = none := by exact fun _ => id
  gaining  : t.engine.gaining = s.engine.gaining := by rfl
  barred   : t.engine.barred = s.engine.barred := by rfl
  mode     : t.mode.mode = s.mode.mode := by rfl
  style    : t.mode.style = s.mode.style := by rfl
  queue    : s.power.phase ≠ .running → s.link.queue = [] → t.link.queue = [] := by exact fun _ => id
  job      : t.hasJob .commitConfig = true → s.hasJob .commitConfig = true := by exact id
  write    : ∀ w, t.store.writing = some w →
    s.store.writing = some w ∧ t.hasJob .commitConfig = s.hasJob .commitConfig := by exact fun _ h => ⟨h, rfl⟩
  greens   : s.GreensAvailable → t.GreensAvailable := by exact id

theorem Calm.refl (s : State) : Calm s s := {}

theorem Calm.trans {s t u : State} (h : Calm s t) (k : Calm t u) : Calm s u where
  phase := k.phase.trans h.phase
  now := k.now.trans h.now
  types := k.types.trans h.types
  ig := k.ig.trans h.ig
  junction := k.junction.trans h.junction
  voids := k.voids ∘ h.voids
  records := fun v f => k.records (h.voids v) (h.records v f)
  groups := h.groups.trans k.groups
  state := k.state.trans h.state
  plan := fun m e => k.plan (fun n => m (h.mode.symm.trans n)) (h.plan m e)
  gaining := k.gaining.trans h.gaining
  barred := k.barred.trans h.barred
  mode := k.mode.trans h.mode
  style := k.style.trans h.style
  queue := fun p e => k.queue (h.phase ▸ p) (h.queue p e)
  job := h.job ∘ k.job
  write := fun w e => by
    obtain ⟨e', j⟩ := k.write w e
    obtain ⟨e'', j'⟩ := h.write w e'
    exact ⟨e'', j.trans j'⟩
  greens := k.greens ∘ h.greens

/-- One more operation after what has been done so far. -/
theorem Calm.of {s t u : State} (k : Calm t u) (h : Calm s t) : Calm s u := h.trans k

theorem Calm.ite {s t u : State} {p : Prop} [Decidable p] (h : Calm s t) (k : Calm s u) :
    Calm s (if p then t else u) := by split <;> assumption

theorem Calm.each {α : Type} {f : α → State → State} (h : ∀ a t, Calm t (f a t)) (l : List α) (s : State) :
    Calm s (s.each l f) :=
  State.each_induct l s (.refl s) fun a _ t ht => ht.trans (h a t)

/-- A quiet operation changes nothing that the laws read. -/
theorem Quiet.calm {s t : State} (h : Quiet s t) : Calm s t where
  phase := by rw [h.power]
  now := h.now
  types := by rw [h.work]
  ig := by rw [h.work]
  junction := by rw [h.work]
  voids := fun v => by unfold State.VoidsSet; rw [h.inUse, h.work]; exact v
  records := fun _ f => by unfold State.Fit; rw [h.engine, h.work]; exact f
  groups := h.groups
  state := by rw [h.engine]
  plan := fun _ e => by rw [h.engine]; exact e
  gaining := by rw [h.engine]
  barred := by rw [h.engine]
  mode := h.modeMode
  style := h.modeStyle
  queue := fun _ e => h.queue.trans e
  job := fun j => h.hasConfigJob ▸ j
  write := fun w e => ⟨h.writing ▸ e, h.hasConfigJob⟩
  greens := h.greens

variable (s : State)

/-! ### Calm operations that are not quiet -/

theorem Calm.mark : Calm s s.mark := {}

theorem Calm.ask (r : ModeReq) : Calm s (s.ask r) := {}

theorem Calm.updDet (d : Det) (f : DetRun → DetRun) : Calm s (s.updDet d f) := {}

theorem Calm.ofLamps (x : Vector LampRun 48) : Calm s { s with lamps := x } := {}

theorem Calm.updLamp (c : Chan) (f : LampRun → LampRun) : Calm s (s.updLamp c f) := {}

theorem Calm.observe (k : Cond) : Calm s (s.observe k) := (Quiet.observe s k).calm

theorem Calm.endCond (k : Cond) : Calm s (s.endCond k) := (Quiet.endCond s k).calm

theorem Calm.notify (n : Notice) : Calm s (s.notify n) := (Quiet.notify s n).calm

theorem Calm.placeConfig : Calm s s.placeConfig := .ite (.refl s) (Quiet.placeStore s _).calm

theorem Calm.enterDemand (st : Fin 16) : Calm s (s.enterDemand st) := .ite (.refl s) {}

theorem Calm.enterDemands (d : StageSet) : Calm s (s.enterDemands d) := .each (fun st t => .enterDemand t st) _ s

theorem Calm.stopGap : Calm s s.stopGap := {}

theorem Calm.startGap (n : Nat) : Calm s (s.startGap n) := .ite {} {}

theorem Calm.judgeStage (st : Fin 16) : Calm s (s.judgeStage st) := by
  unfold State.judgeStage
  dsimp only
  split
  · exact .refl s
  · have h : Calm s { s with occupied := s.occupied.set st (s.judgeOccupied st) } := {}
    split
    · split
      · exact h.trans (.of (.mark _) (.stopGap _))
      · split
        · exact h.trans (.of (.mark _) (.startGap _ _))
        · exact h
    · exact h

theorem Calm.judgeExtend (e : Option (Fin 16)) : Calm s (s.judgeExtend e) := by
  unfold State.judgeExtend
  split
  · exact .judgeStage s _
  · exact .refl s

theorem Calm.leftForce (st : Nat) : Calm s (s.leftForce st) := by
  unfold State.leftForce
  split
  · exact .refl s
  · exact .ite (.enterDemand s _) (.refl s)

theorem Calm.passLeftForce : Calm s s.passLeftForce :=
  .of (.each (fun st t => .leftForce t st) _ _) (t := { s with ev := { s.ev with leftForce := [] } }) {}

theorem Calm.scan (d : Det) : Calm s (s.scan d) := by
  unfold State.scan
  split
  · exact .refl s
  · exact .updDet s d _

theorem Calm.activation (d : Det) : Calm s (s.activation d) := by
  unfold State.activation
  exact .of (.judgeExtend _ _) <| .of (.enterDemands _ _) <| .trans (.updDet s d _) <| .ite (.endCond _ _) (.refl _)

theorem Calm.deactivation (d : Det) : Calm s (s.deactivation d) := by
  unfold State.deactivation
  exact .of (.judgeExtend _ _) <| .trans (.updDet s d _) <| .ite (.endCond _ _) (.refl _)

theorem Calm.debounceExpiry (d : Det) : Calm s (s.debounceExpiry d) := by
  unfold State.debounceExpiry
  dsimp only
  refine .trans (.updDet s d fun r => { r with debounce := none }) ?_
  exact .ite (.refl _) (.ite (.activation _ d) (.deactivation _ d))

theorem Calm.enterStuck (d : Det) : Calm s (s.enterStuck d) := by
  unfold State.enterStuck
  exact .of (.judgeExtend _ _) <| .of (.enterDemands _ _) <| .of (.observe _ _) <| .updDet s d _

theorem Calm.enterQuiet (d : Det) : Calm s (s.enterQuiet d) := by
  unfold State.enterQuiet
  exact .of (.enterDemands _ _) <| .of (.observe _ _) <| .updDet s d _

theorem Calm.applyDetector (d : Det) (old : DetCfg) : Calm s (s.applyDetector d old) := by
  unfold State.applyDetector
  dsimp only
  split
  · refine .of (.judgeExtend _ _) <| .trans (.updDet s d fun r =>
      { r with accepted := false, state := .clear, debounce := none, stuckStart := none, quietStart := none }) ?_
    exact .trans (.ite (.endCond _ _) (.refl _)) (.ite (.endCond _ _) (.refl _))
  · split
    · exact .of (.scan _ d) (.updDet s d _)
    · have demands : ∀ (t : State) (b : Prop) [Decidable b] (l : StageSet), Calm t (if b then t.enterDemands l else t) :=
        fun t b _ l => .ite (.enterDemands t l) (.refl t)
      have stuck : ∀ (t : State) (b : Prop) [Decidable b], Calm t (if b then t.enterStuck d else t) :=
        fun t b _ => .ite (.enterStuck t d) (.refl t)
      have quiet : ∀ (t : State) (b : Prop) [Decidable b], Calm t (if b then t.enterQuiet d else t) :=
        fun t b _ => .ite (.enterQuiet t d) (.refl t)
      exact .of (quiet _ _) <| .of (stuck _ _) <| .of (demands _ _ _) <| .of (.judgeExtend _ _) <|
        .of (.judgeExtend _ _) (.updDet s d _)

theorem Calm.applyResult : Calm s s.applyResult := by
  unfold State.applyResult
  split
  · exact .refl s
  · split
    · exact {}
    · exact {}
    · exact {}
    · exact {}
    · exact {}
    · exact .refl s

theorem Calm.evaluateTable (always : Bool) : Calm s (s.evaluateTable always) := by
  unfold State.evaluateTable
  split
  · exact .refl s
  · refine .trans (t := { s with engine := { s.engine with
      tableResult := effectiveEntry s.clock.secondOfWeek s.tod } }) {} ?_
    exact .ite (.applyResult _) (.refl _)

theorem Calm.learnReading (c : Chan) (i : Nat) (o : Bool) : Calm s (s.learnReading c i o) := by
  unfold State.learnReading
  dsimp only
  split
  · split
    · exact .updLamp s c _
    · split
      · exact .of (Quiet.learnCheck _).calm {}
      · exact .updLamp s c _
  · exact .refl s

theorem Calm.lampResult (r : Result) : Calm s (s.lampResult r) := by
  unfold State.lampResult
  dsimp only
  split
  · refine .ite (.refl s) ?_
    exact .of (.learnReading _ _ _ _) <| .of (Quiet.litJudge _ _ _ _).calm <| .updLamp s _ _
  · exact .trans (.updLamp s _ _) <| .ite (.refl _) (Quiet.darkReading _ _ _ _).calm
  · exact .refl s

theorem Calm.convBoundary (count : BitVec 16) : Calm s (s.convBoundary count).1 := by
  unfold State.convBoundary
  dsimp only
  split <;> exact {}

theorem Calm.boundary (level wait : Nat) (count : BitVec 16) : Calm s (s.boundary level wait count) := by
  have h : Calm s { s with mains := s.mains.boundary level s.now wait, ev := { s.ev with boundary := true } } := {}
  unfold State.boundary
  dsimp only
  have k := h.trans (.convBoundary _ count)
  split
  · exact k.trans (.ite (.lampResult _ _) (Quiet.leakResult _ _).calm)
  · exact k

/-- A job of another kind may join the table or leave it, with the notices of the link. -/
theorem Calm.ofLink (l : Link) (q : s.power.phase ≠ .running → s.link.queue = [] → l.queue = [])
    (j : (l.jobs.find? (·.kind = .commitConfig)).isSome = s.hasJob .commitConfig) :
    Calm s { s with link := l } where
  queue := q
  job := fun h => j ▸ h
  write := fun _ h => ⟨h, j⟩

theorem Calm.receive (r : Received) (h : s.power.phase = .running) : Calm s (s.receive r) := by
  unfold State.receive
  split
  · exact { queue := fun p => absurd h p }
  · exact .ite {} (.refl s)

theorem Calm.putReply (r : Reply) : Calm s (s.putReply r) := {}

/-- A job of another kind than COMMIT_CONFIG joins the table. -/
theorem Calm.addJob (k : JobKind) (l : Timer) (h : k ≠ .commitConfig) : Calm s (s.addJob k l) := by
  refine .ofLink s _ (fun _ => id) ?_
  show ((s.link.jobs ++ [_]).find? _).isSome = _
  rw [List.find?_append]
  simp [State.hasJob, State.job?, h]

/-- A job of another kind than COMMIT_CONFIG leaves the table. -/
theorem Calm.endJob (k : JobKind) (r : JobResult) (items : JobItems) (h : k ≠ .commitConfig) :
    Calm s (s.endJob k r items) := by
  have e : ((s.link.jobs.filter (·.kind ≠ k)).find? (·.kind = .commitConfig))
      = s.link.jobs.find? (·.kind = .commitConfig) := by
    rw [List.find?_filter]
    congr 1
    funext j
    by_cases hj : j.kind = .commitConfig
    · simp [hj, h.symm]
    · simp [hj]
  unfold State.endJob
  split
  · exact .refl s
  · refine .of (.notify _ _) (.ofLink s _ (fun _ => id) ?_)
    exact congrArg Option.isSome e

/-- A COMMIT_CONFIG job that has just been entered leaves the table again. -/
theorem Calm.endAdded (r : JobResult) (items : JobItems) (h : s.hasJob .commitConfig = false) :
    Calm s ((s.addJob .commitConfig none).endJob .commitConfig r items) := by
  have e : ((s.addJob .commitConfig none).link.jobs.filter (·.kind ≠ .commitConfig)).find?
      (·.kind = .commitConfig) = none := by
    rw [List.find?_filter, List.find?_eq_none]
    intro j _
    simp
  unfold State.endJob
  split
  · next n =>
    have : (s.addJob .commitConfig none).job? .commitConfig ≠ none := by
      unfold State.job?
      intro h
      have := List.find?_eq_none.mp h ⟨s.link.nextJob, .commitConfig, none, []⟩ (by simp [State.addJob])
      simp at this
    exact absurd n this
  · refine .of (.notify _ _) (t := { s with link := { s.link with
      jobs := (s.addJob .commitConfig none).link.jobs.filter (·.kind ≠ .commitConfig)
      nextJob := (s.addJob .commitConfig none).link.nextJob } }) (.ofLink s _ (fun _ => id) ?_)
    rw [h]
    exact congrArg Option.isSome e

/-- The write in progress ends, and with it any job may end. -/
theorem Calm.writeOver (st : Store) (h : st.writing = none) : Calm s { s with store := st } where
  write := fun _ e => absurd (h.symm.trans e) (by simp)

theorem Calm.endJobIdle (k : JobKind) (r : JobResult) (items : JobItems) (h : s.store.writing = none) :
    Calm s (s.endJob k r items) := by
  unfold State.endJob
  split
  · exact .refl s
  · refine .of (.notify _ _) { job := fun j => ?_, write := fun _ e => absurd (h.symm.trans e) (by simp) }
    obtain ⟨x, hx⟩ := Option.isSome_iff_exists.mp j
    have m := List.mem_of_find?_eq_some hx
    have k := List.find?_some hx
    refine Option.isSome_iff_exists.mpr ?_
    refine Option.isSome_iff_exists.mp (List.find?_isSome.mpr ⟨x, (List.mem_filter.mp m).1, k⟩)

/-! ### Plans (Machine/Plans.lean) -/

theorem Calm.judgeUsable : Calm s s.judgeUsable := (Quiet.judgeUsable s).calm

/-- A set that comes into use with its void marks set is fit (R25, R44). -/
theorem Calm.adoptSet (p : PendingSet) : Calm s (s.adoptSet p) := by
  have h : Calm s { s with inUse := p.set.setVoids s.work, pendingSet := none } :=
    { voids := fun _ => State.voidsSet_of_setVoids rfl }
  exact .of (.judgeUsable _) <| .of (.each (fun k t => .endCond t k) _ _) h

theorem Calm.adoptPending : Calm s s.adoptPending := by
  unfold State.adoptPending
  split
  · exact .refl s
  · exact .of (.notify _ _) <| .adoptSet s _

theorem Calm.judgeVoids : Calm s s.judgeVoids := by
  have h : Calm s { s with inUse := s.inUse.setVoids s.work } := { voids := fun _ => State.voidsSet_of_setVoids rfl }
  exact .of (.judgeUsable _) h

end Sys2Proof.Machine

namespace Sys2Proof.Machine

/-! ### The moves -/

/-- The start event up to the point where its effects are spread over the blocks (R173). -/
def State.startUp (s : State) (answers : Bool) (raw : Vector Bool 32) : State :=
  let config := readImage answers .config s.store.nvConfig
  let plans := readImage answers .plans s.store.nvPlans
  let survey := readImage answers .survey s.store.nvSurvey
  let checks := s.failedChecks answers
  let t := { s with power := { s.power with phase := .running } }
  let t := (t.takeImages config plans survey).startTimers
  let t := t.enterStartMode config.isSome plans.isSome survey.isSome (checks.head?.getD .ok)
  let t := ((t.startEntries checks).judgeVoids.startProofs).startSurvey
  (t.startDetectors raw).supplyCommands

theorem State.startEvent_eq (s : State) (answers : Bool) (raw : Vector Bool 32) :
    s.startEvent answers raw = (s.spread (s.startUp answers raw)).autoStart.close := rfl

/-- What a step is made of, each with the condition under which the model does it. `early` says that a request waits in the queue before the start event, which no lawful state allows. -/
inductive Move (early : Prop) : State → State → Prop where
  | calm {s t : State} (h : Calm s t) : Move early s t
  | elapse (s : State) (n : Nat) : Move early s (s.elapseTo n)
  | close (s : State) : Move early s s.close
  | spread (b s : State) : Move early s (b.spread s)
  | start (s : State) (cause : StartCause) (rate : LineRate) (clock : Clock) : Move early s (s.beginStart cause rate clock)
  | powerLoss {s t : State} (h : execPowerLoss s = .next t) : Move early s t
  | proofsRead (s : State) (loads : Vector Bool 48) (smc ftr line : Bool) (m : Meas) (h : s.power.phase = .reference) :
      Move early s { s.readProofs loads smc ftr line with
        power := { (s.readProofs loads smc ftr line).power with phase := .reading }, meas := m }
  | startUp (s : State) (answers : Bool) (raw : Vector Bool 32) (h : s.power.phase = .reading) :
      Move early s (s.startUp answers raw)
  | addCommit (s : State) (h : s.editable) (p : s.power.phase = .running ∨ early) :
      Move early s (s.addJob .commitConfig none)
  | committed (s : State) (w : Write) (h : s.store.writing = some w) (c : w.forCommit = true) (i : w.image = .config) :
      Move early s (s.writeVerified w)
  | amberEnd (s : State) (g : Group) (h : (s.groups[g]).amberTimer ≠ none) : Move early s (s.amberEnd g)
  | advance (s : State) (g : Group) : Move early s (s.advanceGroup g)
  | giveGreen (s : State) (g : Group) (e : Nat) (n : e ≤ s.now) (h : (s.groups[g]).redAmberTimer = some e
      ∨ ((s.groups[g]).pendingGreen = true ∧ (s.groups[g]).aspect ≠ .amber ∧ (s.groups[g]).greenRelease = some e)) :
      Move early s (s.giveGreen g)
  | enterStartFlash (s : State) (h : s.mode.mode = .standby ∨ s.mode.mode = .failsafe)
      (j : s.hasJob .commitConfig = false) : Move early s s.enterStartFlash
  | enterShutdown (s : State) (h : s.mode.mode = .running) : Move early s (s.enterShutdown .standby false)
  | enterStandby (s : State) (h : s.mode.mode = .startFlash ∨ s.mode.mode = .startRed ∨ s.mode.mode = .partFlash) :
      Move early s (s.enterMode .standby)
  | modeLoss (s : State) : Move early s s.modeLoss
  | modeReturn (s : State) : Move early s s.modeReturn
  | startFlashExpiry (s : State) (h : s.mode.mode = .startFlash) : Move early s s.startFlashExpiry
  | startRedExpiry (s : State) (h : s.mode.mode = .startRed) : Move early s s.startRedExpiry
  | endRedExpiry (s : State) (h : s.mode.mode = .shutdown) : Move early s s.endRedExpiry

/-- A chain of moves. -/
inductive Moves (early : Prop) (s : State) : State → Prop where
  | refl : Moves early s s
  | tail {t u : State} (h : Moves early s t) (m : Move early t u) : Moves early s u

variable {early : Prop} {s t u : State}

theorem Move.one (m : Move early s t) : Moves early s t := .tail .refl m

/-- One more move after what has been done so far. -/
theorem Moves.of (m : Move early t u) (h : Moves early s t) : Moves early s u := h.tail m

theorem Moves.trans (h : Moves early s t) (k : Moves early t u) : Moves early s u := by
  induction k with
  | refl => exact h
  | tail _ m ih => exact .tail ih m

theorem Calm.moves (h : Calm s t) : Moves early s t := Move.one (.calm h)

theorem Quiet.moves (h : Quiet s t) : Moves early s t := h.calm.moves

/-- A property that every move keeps is kept by a chain of them. -/
theorem Moves.induct {P : State → Prop} (h : Moves early s t) (step : ∀ u v, Move early u v → P u → P v) (x : P s) :
    P t := by
  induction h with
  | refl => exact x
  | tail _ m ih => exact step _ _ m ih

theorem Moves.ite {p : Prop} [Decidable p] (h : Moves early s t) (k : Moves early s u) :
    Moves early s (if p then t else u) := by split <;> assumption

variable (s)

/-- A whole event is its own block's effect, the blocks' work and its end. -/
theorem Moves.cascade (b : State) (h : Moves early s t) : Moves early s (b.cascade t) :=
  .of (.close _) <| .of (.spread b t) h

theorem Moves.elapse (n : Nat) : Moves early s (s.elapseTo n) := Move.one (.elapse s n)

/-- The event of a timer: time passes to its end, its block acts, and the effects are spread. -/
theorem Moves.due (x : Timer) (f : State → State)
    (h : ∀ e, x = some e → Moves early (s.elapseTo e) (f (s.elapseTo e))) : Moves early s (s.due x f) := by
  cases x with
  | none => exact .refl
  | some e => exact .cascade s _ ((Moves.elapse s e).trans (h e rfl))

theorem Moves.dueCalm (x : Timer) (f : State → State) (h : ∀ t : State, Calm t (f t)) : Moves early s (s.due x f) :=
  .due s x f fun _ _ => (h _).moves

/-! ### Requests -/

theorem State.startBar_job (h : s.startBar = none) : s.hasJob .commitConfig = false := by
  unfold State.startBar at h
  split at h
  · cases h
  · split at h
    · cases h
    · exact Bool.eq_false_of_not_eq_true ‹_›

theorem State.resumeBar_job (h : s.resumeBar = none) : s.hasJob .commitConfig = false := by
  unfold State.resumeBar at h
  split at h
  · cases h
  · split at h
    · cases h
    · exact Bool.eq_false_of_not_eq_true ‹_›

/-- The gate of the configuration requests lets through exactly what may write the edit copy (R2). -/
theorem State.editGate_none_iff : s.editGate = none ↔ s.editable := by
  unfold State.editGate State.editable
  split
  · next h => exact ⟨fun e => (nomatch e), fun e => absurd e.1 (by tauto)⟩
  · next h =>
    split
    · next j => exact ⟨fun e => (nomatch e), fun e => by simp [j] at e⟩
    · next j => exact ⟨fun _ => ⟨by tauto, by simpa using j⟩, fun _ => rfl⟩

theorem Calm.editWith {α : Type} (x : Option α) (f : α → Answer) (h : ∀ a, Calm s (f a).1) :
    Calm s (s.editWith x f).1 := by
  unfold State.editWith
  split
  · exact .refl s
  · split
    · exact .refl s
    · exact h _

theorem Calm.planWith {α : Type} (x : Option α) (f : α → Answer) (h : ∀ a, Calm s (f a).1) :
    Calm s (s.planWith x f).1 := by
  unfold State.planWith
  split
  · exact .refl s
  · split
    · exact .refl s
    · exact h _

theorem Moves.doCommitConfig (p : s.power.phase = .running ∨ early) : Moves early s s.doCommitConfig.1 := by
  unfold State.doCommitConfig
  split
  · exact .refl
  · next h =>
    have e := (s.editGate_none_iff).mp h
    dsimp only
    split
    · exact (Calm.endAdded s _ _ e.2).moves
    · exact .of (.calm (Quiet.placeStore _ _).calm) (Move.one (.addCommit s e p))

theorem Moves.doSetDetector (d : Nat) (f : DetectorFields) : Moves early s (s.doSetDetector d f).1 := by
  unfold State.doSetDetector
  split
  · exact .refl
  · refine .of (.spread _ _) <| Calm.moves ?_
    exact .of (.applyDetector _ _ _) <| .of (.placeConfig _) {}

theorem Calm.setThresholds (f : ThresholdFields) : Calm s (s.doSetThresholds f).1 := by
  have same : ∀ (cfg : Settings) cs l, (cfg.setThresholds cs l f).groups = cfg.groups
      ∧ (cfg.setThresholds cs l f).ig = cfg.ig ∧ (cfg.setThresholds cs l f).junction = cfg.junction := by
    intro cfg cs l
    cases l <;> exact ⟨rfl, rfl, rfl⟩
  unfold State.doSetThresholds
  split
  · exact .refl s
  · next cs l _ =>
    obtain ⟨a, b, c⟩ := same s.work cs l
    exact .of (.placeConfig _) {
      types := a, ig := b, junction := c
      voids := fun v st h => (v st h).of_ig b
      records := fun _ x p e r m => (x p e r m).of_ig b }

theorem Calm.doCommitPlans : Calm s s.doCommitPlans.1 := by
  unfold State.doCommitPlans
  split
  · exact .refl s
  · dsimp only
    split
    · exact .of (.endJob _ _ _ _ (by decide)) <| .addJob s _ _ (by decide)
    · exact .of (Quiet.placeStore _ _).calm <| .addJob s _ _ (by decide)

theorem State.readItem_fst (c : PlanCopy) (ps : PlanSet) (i : PlanItem) : (s.readItem c ps i).1 = s := by
  unfold State.readItem
  split
  · split <;> rfl
  · rfl
  · split <;> rfl
  · split <;> rfl
  · rfl

theorem State.doReadPlan_fst (c : Option PlanCopy) (i : PlanItem) : (s.doReadPlan c i).1 = s := by
  unfold State.doReadPlan
  split
  · rfl
  · split
    · split
      · rfl
      · exact s.readItem_fst _ _ _
    · rfl

theorem Moves.doTodWrite (d : Option DaySet) (h m : Nat) (a : Option TodAction) :
    Moves early s (s.doTodWrite d h m a).1 := by
  unfold State.doTodWrite
  split
  · exact .refl
  · exact .of (.spread _ _) <| Calm.moves <| .of (.evaluateTable _ _) <| .of (.placeConfig _) {}

theorem Moves.doTodDelete (x : TodTarget) : Moves early s (s.doTodDelete x).1 := by
  unfold State.doTodDelete
  split
  · exact .refl
  · split
    · exact .refl
    · exact .of (.spread _ _) <| Calm.moves <| .of (.evaluateTable _ _) <| .of (.placeConfig _) {}

theorem Moves.doSetClock (w h m x : Nat) : Moves early s (s.doSetClock w h m x).1 := by
  unfold State.doSetClock
  split
  · exact .refl
  · exact .of (.spread _ _) <| Calm.moves <| .of (.evaluateTable _ _) <| .of (.endCond _ _) {}

theorem Moves.doStart : Moves early s s.doStart.1 := by
  unfold State.doStart
  split
  · exact .refl
  · next h =>
    split
    · exact .refl
    · next b => exact .of (.spread _ _) <| Move.one (.enterStartFlash s (.inl (by simpa using h)) (s.startBar_job b))

theorem Moves.doStop : Moves early s s.doStop.1 := by
  unfold State.doStop
  split
  · exact .refl
  · exact .refl
  · next h => exact .of (.spread _ _) <| Move.one (.enterShutdown s h)
  · split
    · exact Calm.moves {}
    · exact .refl
  · next h => exact .of (.spread _ _) <| Move.one (.enterStandby s (.inl h))
  · next h => exact .of (.spread _ _) <| Move.one (.enterStandby s (.inr (.inl h)))
  · next h => exact .of (.spread _ _) <| Move.one (.enterStandby s (.inr (.inr h)))
  · exact Calm.moves {}
  · exact .refl

theorem Moves.doResume : Moves early s s.doResume.1 := by
  unfold State.doResume
  split
  · exact .refl
  · next h =>
    split
    · exact .refl
    · next b =>
      have q := Quiet.endCond { s with mode := { s.mode with cause := .none } } ⟨.junction, .failsafe⟩
      have c : Calm s (State.endCond { s with mode := { s.mode with cause := .none } } ⟨.junction, .failsafe⟩) :=
        q.calm.of {}
      refine .of (.spread _ _) <| .of (.enterStartFlash _ (.inr ?_) ?_) c.moves
      · exact c.mode.trans (by simpa using h)
      · exact q.hasConfigJob.trans (s.resumeBar_job b)

theorem Moves.doSelectPlan (r : PlanRef) (w : Option Timing) : Moves early s (s.doSelectPlan r w).1 := by
  unfold State.doSelectPlan
  split
  · exact .refl
  · split
    · exact .refl
    · dsimp only
      split
      · exact .of (.spread _ _) (Calm.moves {})
      · exact .of (.spread _ _) (Calm.moves {})
      · exact Calm.moves {}

theorem Moves.doClearOverride : Moves early s s.doClearOverride.1 := by
  unfold State.doClearOverride
  split
  · exact .refl
  · exact .of (.spread _ _) <| Calm.moves <| .of (.evaluateTable _ _) {}

theorem Moves.doDemand (l : List Nat) : Moves early s (s.doDemand l).1 := by
  unfold State.doDemand
  split
  · exact .refl
  · exact .of (.spread _ _) <| Calm.moves <| .enterDemands s _

theorem Calm.doLearn : Calm s s.doLearn.1 := by
  unfold State.doLearn
  split
  · exact .refl s
  · split
    · exact .refl s
    · have a := Calm.addJob s .learn (some (s.now + minutes 30)) (by decide)
      dsimp only
      generalize s.addJob .learn (some (s.now + minutes 30)) = t at a ⊢
      exact .of (Quiet.learnCheck _).calm <| .of (.ofLamps t _) a

theorem Calm.doSurveyNow : Calm s s.doSurveyNow.1 := by
  unfold State.doSurveyNow
  split
  · exact .refl s
  · have a := Calm.addJob s .surveyNow none (by decide)
    dsimp only
    split
    · exact .of (.endJob _ _ _ _ (by decide)) a
    · exact .of (Quiet.selections _ _).calm <| .of (Quiet.wantSelection _).calm <| .of (Quiet.beginPass _ _).calm a

theorem Calm.doCancelJob (n : Nat) : Calm s (s.doCancelJob n).1 := by
  unfold State.doCancelJob
  split
  · exact .refl s
  · split
    · exact .refl s
    · exact .refl s
    · exact (Quiet.learnEnd s _).calm
    · exact .trans (.endJob s .surveyNow _ _ (by decide)) {}

theorem State.doReadGroup_fst (g : Nat) (c : Option ConfigCopy) : (s.doReadGroup g c).1 = s := by
  unfold State.doReadGroup; split <;> rfl

theorem State.doReadChannel_fst (n : ChannelName) : (s.doReadChannel n).1 = s := by
  unfold State.doReadChannel
  split
  · rfl
  · rfl
  · split <;> rfl

theorem State.doReadCore_fst (k : Nat) (c : Option (Option ConfigCopy)) : (s.doReadCore k c).1 = s := by
  unfold State.doReadCore; split <;> rfl

theorem State.doReadAlarms_fst (p : Nat) : (s.doReadAlarms p).1 = s := by
  unfold State.doReadAlarms; split <;> rfl

theorem Calm.doReadDetector (d : Nat) (b : Bool) : Calm s (s.doReadDetector d b).1 := by
  unfold State.doReadDetector
  split
  · exact .refl s
  · exact .ite (.updDet s _ _) (.refl s)

theorem Calm.doReadStatus (x : StatusPart) (p : Nat) : Calm s (s.doReadStatus x p).1 := by
  unfold State.doReadStatus
  split
  · exact .refl s
  · exact .refl s
  · exact .refl s
  · exact .refl s
  · exact .refl s
  · split <;> exact .refl s
  · exact .refl s
  · exact {}
  · exact .refl s

/-- The effect of a request is a chain of moves. -/
theorem Moves.act (i : Instr) (p : s.power.phase = .running ∨ early) : Moves early s (s.act i).1 := by
  cases i
  case setGroup => exact (Calm.editWith s _ _ fun _ => {}).moves
  case setIntergreen => exact (Calm.editWith s _ _ fun _ => {}).moves
  case setChannel => exact (Calm.editWith s _ _ fun _ => {}).moves
  case setChannelSupply => exact (Calm.editWith s _ _ fun _ => {}).moves
  case setCore => exact (Calm.editWith s _ _ fun _ => {}).moves
  case setResponse => exact (Calm.editWith s _ _ fun _ => {}).moves
  case setResponseJunction => exact (Calm.editWith s _ _ fun _ => {}).moves
  case commitConfig => exact .doCommitConfig s p
  case setDetector => exact .doSetDetector s _ _
  case setThresholds => exact (Calm.setThresholds s _).moves
  case planWriteStage => exact (Calm.planWith s _ _ fun _ => {}).moves
  case planWriteRecord => exact (Calm.planWith s _ _ fun _ => {}).moves
  case planWritePoolLength => exact (Calm.planWith s _ _ fun _ => {}).moves
  case planWriteEntry => exact (Calm.planWith s _ _ fun _ => {}).moves
  case planWriteCopy => exact (Calm.planWith s _ _ fun _ => {}).moves
  case commitPlans => exact (Calm.doCommitPlans s).moves
  case readPlan => exact (State.doReadPlan_fst s _ _).symm ▸ .refl
  case todWrite => exact .doTodWrite s _ _ _ _
  case todDelete => exact .doTodDelete s _
  case setClock => exact .doSetClock s _ _ _ _
  case start => exact .doStart s
  case stop => exact .doStop s
  case resume => exact .doResume s
  case selectPlan => exact .doSelectPlan s _ _
  case clearOverride => exact .doClearOverride s
  case demand => exact .doDemand s _
  case learn => exact (Calm.doLearn s).moves
  case surveyNow => exact (Calm.doSurveyNow s).moves
  case cancelJob => exact (Calm.doCancelJob s _).moves
  case readGroup => exact (State.doReadGroup_fst s _ _).symm ▸ .refl
  case readChannel => exact (State.doReadChannel_fst s _).symm ▸ .refl
  case readCore => exact (State.doReadCore_fst s _ _).symm ▸ .refl
  case readDetector => exact (Calm.doReadDetector s _ _).moves
  case readAlarms => exact (State.doReadAlarms_fst s _).symm ▸ .refl
  case readStatus => exact (Calm.doReadStatus s _ _).moves
  case ackAlarms => exact Calm.moves {}
  case restart => exact Calm.moves {}
  all_goals exact .refl

/-- The taking of a request: its effect, its reply in the slot, and the end of the event. -/
theorem Moves.serve (tag : Byte) (f : State → Answer) (restarts : Bool) (h : Moves early s (f s).1) :
    Moves early s (s.serve tag f restarts) :=
  .of (.close _) <| .of (.calm (.putReply _ _)) h

theorem Moves.arrive (i : Instr) (restarts : Bool) : Moves early s (s.arrive i (State.act i) restarts) := by
  unfold State.arrive
  split
  · exact .refl
  · next h =>
    have p : s.power.phase = .running := by
      simp only [State.listening, Bool.not_eq_true', Bool.and_eq_false_imp, decide_eq_true_eq, not_forall] at h
      exact h.1
    split
    · exact .serve s _ _ _ (.act s i (.inl p))
    · exact .of (.close _) <| Calm.moves (.receive s _ p)

/-- The oldest request of the queue is taken; before the start event one that waits there makes the chain early. -/
theorem Moves.takeOldest (h : s.power.phase ≠ .running → s.link.queue ≠ [] → early) : Moves early s s.takeOldest := by
  unfold State.takeOldest
  split
  · next r rs _ e =>
    have q : Moves early s { s with link := { s.link with queue := rs } } :=
      Calm.moves { queue := fun _ n => absurd (e.symm.trans n) (by simp) }
    refine q.trans ?_
    have p : s.power.phase = .running ∨ early := by
      by_cases p : s.power.phase = .running
      · exact .inl p
      · exact .inr (h p (by rw [e]; simp))
    unfold State.serveReceived
    split
    · exact .serve _ _ _ _ (.act _ _ p)
    · exact .serve _ _ _ _ .refl
  · exact Move.one (.close s)

end Sys2Proof.Machine

namespace Sys2Proof.Machine

/-! ### A step is a chain of moves -/

variable {early : Prop} (s : State)

/-- A request waits in the queue before the start event. -/
def State.queuedEarly (s : State) : Prop := s.power.phase ≠ .running ∧ s.link.queue ≠ []

/-- The mode timer that runs in a mode says that the mode is in force. -/
theorem State.modeDue_some {m : Mode} {e : Nat} (h : s.modeDue m = some e) : s.mode.mode = m := by
  unfold State.modeDue at h
  split at h
  · assumption
  · cases h

theorem Moves.autoStart : Moves early s s.autoStart := by
  unfold State.autoStart
  split
  · next c =>
    exact .of (.spread _ _) <| Move.one (.enterStartFlash s (.inl c.1) (s.startBar_job c.2.2))
  · exact .refl

theorem Moves.startEvent (answers : Bool) (raw : Vector Bool 32) (h : s.power.phase = .reading) :
    Moves early s (s.startEvent answers raw) := by
  rw [State.startEvent_eq]
  exact .of (.close _) <| .trans (.of (.spread _ _) <| Move.one (.startUp s answers raw h)) (.autoStart _)

theorem Moves.referenceEnd (count : BitVec 16) (loads : Vector Bool 48) (smc ftr line : Bool) :
    ∃ t, execReferenceConversionEnd count loads smc ftr line s = .next t ∧ Moves early s t := by
  refine ⟨_, rfl, ?_⟩
  split
  · next e p _ =>
    have k : Moves early s (s.elapseTo e) := .elapse s e
    exact .of (.close _) <| .of (.proofsRead (s.elapseTo e) loads smc ftr line _ (by simpa using p)) k
  · exact .refl

theorem Calm.character (b : Byte) (f : Bool) : Calm s { s with link := (s.link.character s.now b f).1 } := by
  have q : (s.link.character s.now b f).1.queue = s.link.queue ∧ (s.link.character s.now b f).1.jobs = s.link.jobs := by
    unfold Link.character
    split
    · exact ⟨rfl, rfl⟩
    · split
      · split <;> exact ⟨rfl, rfl⟩
      · split <;> exact ⟨rfl, rfl⟩
  refine .ofLink s _ (fun _ e => q.1.trans e) ?_
  rw [q.2]; rfl

theorem Moves.byteReceived (b : Byte) (f : Bool) : ∃ t, execByteReceived b f s = .next t ∧ Moves early s t := by
  refine ⟨_, rfl, ?_⟩
  split
  · next l =>
    have p : s.power.phase = .running := by
      simp only [State.listening, Bool.and_eq_true, decide_eq_true_eq] at l
      exact l.1
    have c := Calm.character s b f
    dsimp only
    split
    · next x _ =>
      have r := c.trans (.receive _ x (c.phase.trans p))
      exact r.moves.trans (.takeOldest _ fun n => absurd (r.phase.trans p) n)
    · exact .of (.close _) c.moves
  · exact .refl

theorem Moves.frameTransmitted : ∃ t, execFrameTransmitted s = .next t ∧ Moves s.queuedEarly s t := by
  have next : ∀ l : Link, l.queue = s.link.queue → l.jobs = s.link.jobs →
      Moves s.queuedEarly s (State.takeOldest { s with link := l }) := fun l q j => by
    have c : Calm s { s with link := l } := .ofLink s l (fun _ e => q.trans e) (by rw [j]; rfl)
    exact c.moves.trans (.takeOldest _ fun p n => ⟨p, fun e => n (q.trans e)⟩)
  refine ⟨_, rfl, ?_⟩
  split
  · exact .refl
  · split
    · exact Move.one (.start s _ _ _)
    · exact next _ rfl rfl
  · exact next _ rfl rfl
  · exact next _ rfl rfl

theorem Moves.storeWriteComplete (v : Bool) : ∃ t, execStoreWriteComplete v s = .next t ∧ Moves early s t := by
  refine ⟨_, rfl, ?_⟩
  split
  · exact .refl
  · next w hw =>
    refine .cascade s _ ?_
    have idle : ∀ st : Store, st.writing = none → Calm s { s with store := st } := .writeOver s
    split
    · by_cases c : w.forCommit = true ∧ w.image = .config
      · exact Move.one (.committed s w hw c.1 c.2)
      · unfold State.writeVerified
        have k : Calm s (State.endCond { s with store := { (s.store.setBlocks w.image
          (some (Stored.form w.image w.generation w.content))).setImage w.image ⟨w.generation, true⟩ with writing := none } }
            ⟨.image w.image, .storeWriteFailed⟩) := .of (.endCond _ _) (idle _ rfl)
        dsimp only
        split
        · next fc =>
          split
          · next i => exact absurd ⟨fc, i⟩ c
          · refine k.moves.trans ?_
            unfold State.plansCommitted
            have e := fun t : State => Calm.endJob { t with pendingSet := some ⟨t.staging.setVoids t.work, w.generation⟩ }
              .commitPlans .ok .none (by decide)
            have e := fun t : State => Calm.trans (s := t) {} (e t)
            dsimp only
            split
            · exact Calm.moves (.of (.adoptPending _) (e _))
            · exact Calm.moves (.of (.adoptPending _) (e _))
            · exact Calm.moves (.of (.adoptPending _) (e _))
            all_goals exact (e _).moves
          · exact k.moves
        · exact k.moves
    · unfold State.writeFailed
      have k : Quiet { s with store := { s.store.setImage w.image ⟨0, false⟩ with writing := none } }
          (State.observe { s with store := { s.store.setImage w.image ⟨0, false⟩ with writing := none } }
            ⟨.image w.image, .storeWriteFailed⟩) := .observe _ _
      exact Calm.moves <| .trans (idle _ rfl) <| k.calm.trans (.ite (.endJobIdle _ _ _ _ k.writing) (.refl _))

theorem Calm.ofSurvey (x : Survey) : Calm s { s with survey := x } := {}

/-- A timer that shows when group g shall be given green: its red-amber timer, or its green-release time (R8, R21). -/
theorem Moves.giveGreenAt (g : Group) (e : Nat) (h : (s.groups[g]).redAmberTimer = some e
      ∨ ((s.groups[g]).pendingGreen = true ∧ (s.groups[g]).aspect ≠ .amber ∧ (s.groups[g]).greenRelease = some e)) :
    Moves early (s.elapseTo e) ((s.elapseTo e).giveGreen g) :=
  Move.one (.giveGreen _ g e (by rw [State.elapseTo_now]; exact Nat.le_max_right _ _) (by simpa using h))

theorem Moves.exec (i : Instr) : ∃ t, exec i s = .next t ∧ Moves s.queuedEarly s t := by
  cases i
  case powerOn r =>
    refine ⟨_, rfl, ?_⟩
    exact .ite (Move.one (.start s _ _ _)) .refl
  case powerLoss => exact ⟨_, rfl, Move.one (.powerLoss rfl)⟩
  case referenceConversionEnd => exact Moves.referenceEnd s _ _ _ _ _
  case startEvent answers raw =>
    refine ⟨_, rfl, ?_⟩
    split
    · next h => exact .startEvent s _ _ h
    · exact .refl
  case byteReceived => exact Moves.byteReceived s _ _
  case interByteTimeout =>
    refine ⟨_, rfl, ?_⟩
    split
    · exact .of (.close _) <| .of (.calm {}) (.elapse s _)
    · exact .refl
  case requestTaken =>
    refine ⟨_, rfl, ?_⟩
    split
    · next p _ _ => exact .takeOldest s fun n => absurd p n
    · exact .refl
  case frameTransmitted => exact Moves.frameTransmitted s
  case clockMinuteChange =>
    refine ⟨_, rfl, ?_⟩
    split
    · exact .refl
    · exact .ite (.cascade s _ <| .of (.calm (.evaluateTable _ _)) (.elapse s _)) (.elapse s _)
  case amberTimerExpiry g =>
    exact ⟨_, rfl, .due s _ _ fun e h => Move.one (.amberEnd _ g (by rw [State.elapseTo_groups, h]; simp))⟩
  case redAmberStartReached g => exact ⟨_, rfl, .due s _ _ fun _ _ => Move.one (.advance _ g)⟩
  case redAmberTimerExpiry g => exact ⟨_, rfl, .due s _ _ fun e h => .giveGreenAt s g e (.inl h)⟩
  case greenReleaseTimeReached g =>
    refine ⟨_, rfl, .due s _ _ fun e h => .giveGreenAt s g e (.inr ?_)⟩
    unfold State.releaseDue at h
    dsimp only at h
    split at h
    · next c =>
      simp only [Bool.and_eq_true, decide_eq_true_eq] at c
      exact ⟨c.1.1, c.1.2, h⟩
    · cases h
  case greenTimerExpiry => exact ⟨_, rfl, .dueCalm s _ _ fun _ => {}⟩
  case maximumTimerExpiry => exact ⟨_, rfl, .dueCalm s _ _ fun _ => {}⟩
  case gapTimerExpiry => exact ⟨_, rfl, .dueCalm s _ _ fun _ => {}⟩
  case detectorRawChange =>
    exact ⟨_, rfl, .ite (.of (.close _) <| Calm.moves <| .of (.scan _ _) (.updDet s _ _)) .refl⟩
  case debounceTimerExpiry => exact ⟨_, rfl, .dueCalm s _ _ fun t => .debounceExpiry t _⟩
  case stuckOnTimerExpiry => exact ⟨_, rfl, .dueCalm s _ _ fun t => .enterStuck t _⟩
  case quietTimerExpiry => exact ⟨_, rfl, .dueCalm s _ _ fun t => .enterQuiet t _⟩
  case loadProofClosed c =>
    exact ⟨_, rfl, .ite .refl (.ite (.cascade s _ (Quiet.relayClosed s c).moves)
      (Quiet.relay s c (fun r => { r with proof := true }) fun _ => rfl).moves)⟩
  case loadProofOpened c =>
    exact ⟨_, rfl, .ite (.ite (.cascade s _ (Quiet.relayOpened s c).moves)
      (Quiet.relay s c (fun r => { r with proof := false }) fun _ => rfl).moves) .refl⟩
  case operateTimerExpiry c => exact ⟨_, rfl, .dueCalm s _ _ fun t => (Quiet.relayOperateExpiry t c).calm⟩
  case releaseTimerExpiry c => exact ⟨_, rfl, .dueCalm s _ _ fun t => (Quiet.relayReleaseExpiry t c).calm⟩
  case crosspointWaitTimerExpiry c => exact ⟨_, rfl, .dueCalm s _ _ fun t => (Quiet.waitExpiry t c).calm⟩
  case smcProofClosed =>
    exact ⟨_, rfl, .ite .refl (.ite (.cascade s _ (Quiet.smcClosed s).moves) (Quiet.setSmc s _).moves)⟩
  case smcProofOpened =>
    exact ⟨_, rfl, .ite (.ite (.cascade s _ (Quiet.smcOpened s).moves) (Quiet.setSmc s _).moves) .refl⟩
  case smcOperateTimerExpiry => exact ⟨_, rfl, .dueCalm s _ _ fun t => (Quiet.smcOperateExpiry t).calm⟩
  case smcReleaseTimerExpiry => exact ⟨_, rfl, .dueCalm s _ _ fun t => (Quiet.smcReleaseExpiry t).calm⟩
  case ftrProofClosed =>
    exact ⟨_, rfl, .ite .refl (.ite (.cascade s _ (Quiet.ftrClosed s).moves) (Quiet.setFtr s _).moves)⟩
  case ftrProofOpened =>
    exact ⟨_, rfl, .ite (.ite (.cascade s _ (Quiet.ftrOpened s).moves) (Quiet.setFtr s _).moves) .refl⟩
  case ftrOperateTimerExpiry => exact ⟨_, rfl, .dueCalm s _ _ fun t => (Quiet.ftrOperateExpiry t).calm⟩
  case ftrReleaseTimerExpiry => exact ⟨_, rfl, .dueCalm s _ _ fun t => (Quiet.ftrReleaseExpiry t).calm⟩
  case mainsZeroCrossing => exact ⟨_, rfl, .ite (.cascade s _ (Calm.boundary s _ _ _).moves) .refl⟩
  case boundaryTimeout => exact ⟨_, rfl, .dueCalm s _ _ fun t => .boundary t _ _ _⟩
  case mainsLossTimerExpiry => exact ⟨_, rfl, .due s _ _ fun _ _ => .of (.modeLoss _) (Calm.moves {})⟩
  case mainsReturnTimerExpiry => exact ⟨_, rfl, .due s _ _ fun _ _ => .of (.modeReturn _) (Calm.moves {})⟩
  case converterGrant => exact ⟨_, rfl, .ite (Move.one (.close s)) .refl⟩
  case settleTimerExpiry c => exact ⟨_, rfl, .dueCalm s _ _ fun t => (Quiet.settleExpiry t c).calm⟩
  case repeatTimerExpiry c => exact ⟨_, rfl, .dueCalm s _ _ fun t => (Quiet.repeatExpiry t c).calm⟩
  case darkTimerExpiry c => exact ⟨_, rfl, .dueCalm s _ _ fun t => (Quiet.darkExpiry t c).calm⟩
  case learnTimeLimitExpiry => exact ⟨_, rfl, .dueCalm s _ _ fun t => (Quiet.learnEnd t _).calm⟩
  case intervalTimerExpiry =>
    refine ⟨_, rfl, .dueCalm s _ _ fun t => .trans (.ofSurvey t { t.survey with interval := none }) ?_⟩
    exact .ite (.refl _) (.ite (.ofSurvey _ _) (.of (Quiet.wantSelection _).calm (Quiet.beginPass _ _).calm))
  case windowTimerExpiry =>
    refine ⟨_, rfl, .dueCalm s _ _ fun t => .trans (.ofSurvey t { t.survey with window := none }) ?_⟩
    exact .ite (Quiet.endPass _).calm (.refl _)
  case eligibilityTimerExpiry => exact ⟨_, rfl, .dueCalm s _ _ fun t => {}⟩
  case chargeTimerExpiry => exact ⟨_, rfl, .dueCalm s _ _ fun t => (Quiet.chargeExpiry t).calm⟩
  case surveyorReleaseTimerExpiry => exact ⟨_, rfl, .dueCalm s _ _ fun t => (Quiet.releaseExpiry t).calm⟩
  case crosspointLineOpened =>
    exact ⟨_, rfl, .ite (.ite (.cascade s _ (Quiet.lineOpened s).moves) (Calm.ofSurvey s _).moves) .refl⟩
  case crosspointLineClosed =>
    exact ⟨_, rfl, .ite .refl (.ite (.of (.close _) (Calm.ofSurvey s _).moves) (Calm.ofSurvey s _).moves)⟩
  case holdTimerExpiry => exact ⟨_, rfl, .dueCalm s _ _ fun t => (Quiet.confirm t _ _).calm⟩
  case startFlashExpiry =>
    exact ⟨_, rfl, .due s _ _ fun e h => Move.one (.startFlashExpiry _ (by simpa using s.modeDue_some h))⟩
  case startRedExpiry =>
    exact ⟨_, rfl, .due s _ _ fun e h => Move.one (.startRedExpiry _ (by simpa using s.modeDue_some h))⟩
  case endRedExpiry =>
    exact ⟨_, rfl, .due s _ _ fun e h => Move.one (.endRedExpiry _ (by simpa using s.modeDue_some h))⟩
  case storeWriteBegin => exact ⟨_, rfl, .ite (Move.one (.close s)) .refl⟩
  case storeWriteComplete => exact Moves.storeWriteComplete s _
  all_goals exact ⟨_, rfl, Moves.arrive s _ _⟩

/-- A step is a chain of moves (the model's choice of time on an empty queue: log 1). -/
theorem Moves.step {s t : State} (h : step s = .next t) : Moves s.queuedEarly s t := by
  have run : ∀ (i : Instr) (u : State), Calm s u → u.power = s.power → u.link = s.link → Machine.exec i u = .next t →
      Moves s.queuedEarly s t := by
    intro i u c p l e
    obtain ⟨v, hv, m⟩ := Moves.exec u i
    rw [e] at hv
    cases hv
    have : u.queuedEarly = s.queuedEarly := by unfold State.queuedEarly; rw [p, l]
    exact c.moves.trans (this ▸ m)
  unfold Machine.step at h
  split at h
  · next c rest _ => exact run c { s with pending := rest } {} rfl rfl h
  · split at h
    · next c e =>
      unfold State.idle at e
      split at e
      · cases e
      · cases e
      · cases e
      · split at e
        · cases e; exact run _ { s with freeUses := s.freeUses + 1 } {} rfl rfl h
        · split at e
          · cases e; exact run _ _ (.refl _) rfl rfl h
          · cases e
    · next e =>
      cases h
      unfold State.idle at e
      split at e
      · cases e; exact .refl
      · cases e; exact .ite .refl (.elapse s _)
      · cases e; exact .elapse s _
      · split at e
        · cases e
        · split at e
          · cases e
          · cases e; exact .elapse s _

end Sys2Proof.Machine

namespace Sys2Proof.Machine

variable (s : State)

/-! ### A new working copy (R179), and the start event (R173) -/

/-- GREEN_UNAVAILABLE formed afresh from the green relay of the group (R16). -/
theorem Calm.setGreenUnavailable (g : Group) :
    Calm s (s.setGreenUnavailable g (decide ((s.relays[chanOf g 2]).state = .failedOpen))) := by
  obtain ⟨e, h⟩ := s.inhibit_eq g fun r =>
    { r with greenUnavailable := decide ((s.relays[chanOf g 2]).state = .failedOpen) }
  unfold State.setGreenUnavailable
  rw [h]
  refine { groups := fun d => ?_, greens := fun a d => ?_ }
  · show ∃ a b c, (upd s.groups g _)[d] = _
    rw [upd_get]
    split
    · exact ⟨_, _, _, rfl⟩
    · exact ⟨_, _, _, rfl⟩
  · show ((upd s.groups g _)[d]).greenUnavailable = true ↔ _
    rw [upd_get]
    split
    · next e => subst e; exact decide_eq_true_iff
    · exact a d

theorem State.setHold_relays (g : Group) (b : Bool) : (s.setHold g b).relays = s.relays := by
  obtain ⟨e, h⟩ := s.inhibit_eq g fun r => { r with hold := b }
  unfold State.setHold
  rw [h]

theorem Calm.renewInhibits : Calm s s.renewInhibits := by
  refine .trans (Quiet.judgeConflictRedOut s).calm (.each (fun g t => ?_) _ _)
  have h := t.setHold_relays g (decide (t.faults.responses[g] = .holdGroup))
  have k := Calm.setGreenUnavailable (t.setHold g (decide (t.faults.responses[g] = .holdGroup))) g
  rw [h] at k
  exact .trans (Quiet.setHold t g _).calm k

theorem Calm.renewLamp (old : Settings) (c : Chan) : Calm s (s.renewLamp old c) := by
  unfold State.renewLamp
  split
  · exact .ite (.updLamp s c _) (.ite (.updLamp s c _) (.refl s))
  · exact .ite (.of (.updLamp _ c _) (Quiet.trans (.withdraw s _) (.withdraw _ _)).calm) (.refl s)

theorem Calm.updCore (k : CoreId) (f : CoreRun → CoreRun) : Calm s (s.updCore k f) := {}

theorem Calm.renewCore (old : Settings) (k : CoreId) : Calm s (s.renewCore old k) := by
  unfold State.renewCore
  dsimp only
  split
  · exact .refl s
  · have mark : ∀ (t : State) (p q : Prop) [Decidable p] [Decidable q], Calm t
        (if p then t.updCore k fun r => { r with mark := .none }
        else if q then t.updCore k fun r => { r with mark := .due, abandons := 0 } else t) :=
      fun t p q _ _ => .ite (.updCore t k _) (.ite (.updCore t k _) (.refl t))
    have select : ∀ (t : State) (b : Bool), Calm t (if b then t else t.wantSelection) :=
      fun t b => .ite (.refl t) (Quiet.wantSelection t).calm
    exact .of (select _ _) <| .of (mark _ _ _) <| .of (.updCore _ k _) (Quiet.abandon s k _).calm

theorem Calm.dropSuspicions (old : Settings) (c : Chan) : Calm s (s.dropSuspicions old c) := by
  unfold State.dropSuspicions
  exact .ite {} (.refl s)

theorem Calm.renewMonitor (old : Settings) : Calm s (s.renewMonitor old) := by
  unfold State.renewMonitor
  exact (Quiet.ofMonitor s _).calm

/-- What the blocks make of a new working copy, before the mode controller leaves UNCONFIGURED (R179). -/
def State.blocksRenewed (s : State) (old : Settings) : State :=
  let ends := allCores.flatMap (s.coreEnds old) ++ allChans.flatMap (s.channelEnds old)
  let s := s.resetGroups.renewVoids
  let s := s.each allChans fun c t => t.renewLamp old c
  let s := s.each allCores fun k t => t.renewCore old k
  let s := s.each allChans fun c t => t.dropSuspicions old c
  let s := s.each ends fun k t => t.dropCond k
  let s := ((s.reformAll.renewInhibits).renewMonitor old).judgeMonitor
  if s.mode.mode = .standby ∧ s.work.junction.standbyDisplay ≠ old.junction.standbyDisplay then s.supplyCommands else s

theorem State.newWorkingCopy_eq (old : Settings) : s.newWorkingCopy old
    = if (s.blocksRenewed old).mode.mode = .unconfigured then (s.blocksRenewed old).modeWork.enterMode .standby
      else s.blocksRenewed old := by
  unfold State.newWorkingCopy State.blocksRenewed
  dsimp only

/-- The groups take their defaults and the aspects of the mode, the void marks are set, and nothing more changes that the laws read. -/
theorem Calm.blocksRenewed (old : Settings) : Calm s.resetGroups.renewVoids (s.blocksRenewed old) := by
  have supply : ∀ (t : State) (p : Prop) [Decidable p], Calm t (if p then t.supplyCommands else t) :=
    fun t p _ => .ite (Quiet.supplyCommands t).calm (.refl t)
  unfold State.blocksRenewed
  exact .of (supply _ _) <| .of (Quiet.judgeMonitor _).calm <| .of (.renewMonitor _ old) <| .of (.renewInhibits _) <|
    .of (Quiet.reformAll _).calm <| .of (.each (fun k t => (Quiet.dropCond t k).calm) _ _) <|
    .of (.each (fun c t => .dropSuspicions t old c) _ _) <| .of (.each (fun k t => .renewCore t old k) _ _) <|
    .each (fun c t => .renewLamp t old c) _ _

theorem Calm.startTimers : Calm s s.startTimers where
  greens := fun a g => by
    have : ((s.relays.map fun (r : Relay) => { r with darkSince := some s.now })[chanOf g 2]).state
        = (s.relays[chanOf g 2]).state := by rw [map_get]
    exact (a g).trans (this ▸ Iff.rfl)

theorem Quiet.startEntries (l : List BringUp) : Quiet s (s.startEntries l) := by
  have clock : ∀ t : State, Quiet t (if t.clock.valid then t else t.observe ⟨.junction, .clockInvalid⟩) :=
    fun t => .ite (.refl t) (.observe t _)
  have entry : ∀ t : State, Quiet t (if t.mode.mode = .failsafe then t.failsafeEntry else t) :=
    fun t => .ite (.observe t _) (.refl t)
  exact .of (entry _) <| .of (.each (fun k t => .observe t _) _ _) (clock s)

theorem Quiet.startProofs : Quiet s s.startProofs := by
  have smc : ∀ t : State, Quiet t (if t.smc.proof then (t.setSmc SupplyRelay.fail).supplyCutFailed else t) :=
    fun t => .ite (.of (.supplyCutFailed _) (.setSmc t _)) (.refl t)
  have ftr : ∀ t : State, Quiet t (if t.ftr.proof then t.ftrWelded else t) := fun t => .ite (.ftrWelded t) (.refl t)
  exact .of (.judgeFlashBus _) <| .of (ftr _) <| .of (smc _) <| .each (fun c t => .uncommanded t c) _ s

theorem Quiet.restoreCore (k : CoreId) : Quiet s (s.restoreCore k) := by
  have tail : ∀ (t : State) (n : Nat), Quiet t (if n = 3 then t.confirm ⟨.core k, .coreUntestable⟩ .normal else t) :=
    fun t n => .ite (.confirm t _ _) (.refl t)
  exact .of (tail _ _) <| .each (fun x t => .confirm t _ _) _ s

theorem Quiet.startSurvey : Quiet s s.startSurvey := by
  have tail : ∀ t : State, Quiet t (if t.power.lineFault then { t with survey := { t.survey with halted := true } }
      else (t.beginPass false).wantSelection) :=
    fun t => .ite (.ofSurvey t _) (.of (.wantSelection _) (.beginPass t _))
  unfold State.startSurvey
  exact .of (tail _) <| .each (fun k t => .restoreCore t k) _ s

theorem Calm.ofDets (x : Vector DetRun 32) : Calm s { s with dets := x } := {}

theorem Calm.startDetectors (raw : Vector Bool 32) : Calm s (s.startDetectors raw) := by
  unfold State.startDetectors
  exact .of (.each (fun d t => .scan t d) _ _) (.ofDets s _)

/-- The state at the start event with its images taken and its start mode entered (R173). -/
def State.started (s : State) (answers : Bool) : State :=
  let config := readImage answers .config s.store.nvConfig
  let plans := readImage answers .plans s.store.nvPlans
  let survey := readImage answers .survey s.store.nvSurvey
  let t := { s with power := { s.power with phase := .running } }
  ((t.takeImages config plans survey).startTimers).enterStartMode config.isSome plans.isSome survey.isSome
    ((s.failedChecks answers).head?.getD .ok)

/-- The start event: images and start mode, the direct entries, the void marks, and nothing more that the laws read. -/
theorem State.startUp_spec (answers : Bool) (raw : Vector Bool 32) :
    Calm ((s.started answers).startEntries (s.failedChecks answers)).judgeVoids (s.startUp answers raw) := by
  unfold State.startUp
  exact .of (Quiet.supplyCommands _).calm <| .of (.startDetectors _ raw) <| .of (Quiet.startSurvey _).calm <|
    .of (Quiet.startProofs _).calm (.refl _)

/-! ### GREEN_UNAVAILABLE (R16) -/

theorem State.GreensAvailable.ofDefaults (u : State) (h : u.groups = .replicate 16 .default)
    (k : u.relays = .replicate 48 .default) : u.GreensAvailable := fun g => by
  rw [h, k]
  simp [GroupRun.default, Relay.default]

theorem State.GreensAvailable.started {s : State} (h : s.GreensAvailable) (answers : Bool) :
    (s.started answers).GreensAvailable := by
  unfold State.started State.enterStartMode
  refine (Kept.notify _ _).greens <| (Kept.setAspects _).greens ?_
  refine (Calm.startTimers _).greens (s := State.takeImages _ _ _ _) ?_
  exact h

theorem State.GreensAvailable.resetGroups {s : State} (h : s.GreensAvailable) : s.resetGroups.GreensAvailable :=
  (Kept.setAspects _).greens fun g => by
    have : ((s.groups.map fun (r : GroupRun) => { GroupRun.default with
        conflictRedOut := r.conflictRedOut, hold := r.hold, greenUnavailable := r.greenUnavailable })[g]).greenUnavailable
        = (s.groups[g]).greenUnavailable := by rw [map_get]
    exact this ▸ h g

theorem State.GreensAvailable.newWorkingCopy {s : State} (h : s.GreensAvailable) (old : Settings) :
    (s.newWorkingCopy old).GreensAvailable := by
  have v : (s.blocksRenewed old).GreensAvailable :=
    (Calm.blocksRenewed s old).greens <| (Kept.judgeVoids _).greens h.resetGroups
  rw [State.newWorkingCopy_eq]
  split
  · exact (Kept.enterMode _ _).greens <| (Kept.modeWork _).greens v
  · exact v

theorem State.endJob_greens (k : JobKind) (r : JobResult) (items : JobItems) (h : s.GreensAvailable) :
    (s.endJob k r items).GreensAvailable := by
  unfold State.endJob
  split
  · exact h
  · exact (Kept.notify _ _).greens h

theorem State.GreensAvailable.readProofs {s : State} (h : s.GreensAvailable) (loads : Vector Bool 48)
    (smc ftr line : Bool) : (s.readProofs loads smc ftr line).GreensAvailable := fun g => by
  show _ ↔ ((mapIx s.relays fun c r => { r with proof := loads[c] })[chanOf g 2]).state = _
  rw [mapIx_get]
  exact h g

/-- Every move keeps GREEN_UNAVAILABLE as the green relays have it. -/
theorem State.GreensAvailable.move {early : Prop} {s t : State} (m : Move early s t) (h : s.GreensAvailable) :
    t.GreensAvailable := by
  cases m with
  | calm c => exact c.greens h
  | elapse => exact h.elapseTo _
  | close => exact h.close
  | spread b => exact (Kept.spread s b).greens h
  | start => exact .ofDefaults _ rfl rfl
  | powerLoss e => cases e; exact .ofDefaults _ rfl rfl
  | proofsRead _ loads smc ftr line => exact h.readProofs loads smc ftr line
  | startUp _ answers raw p =>
    exact (s.startUp_spec answers raw).greens <| (Kept.judgeVoids _).greens <| (Quiet.startEntries _ _).greens
      (h.started answers)
  | addCommit => exact h
  | committed _ w hw c i =>
    have e : ∀ st : Store, (State.endCond { s with store := st } ⟨.image w.image, .storeWriteFailed⟩).GreensAvailable :=
      fun st => (Quiet.endCond _ _).greens (show State.GreensAvailable { s with store := st } from h)
    unfold State.writeVerified
    rw [if_pos c, i]
    exact State.GreensAvailable.newWorkingCopy (State.endJob_greens _ _ _ _ (i ▸ e _)) _
  | amberEnd _ g => exact (Kept.amberEnd s g).greens h
  | advance _ g => exact (Kept.advanceGroup s g).greens h
  | giveGreen _ g => exact (Kept.giveGreen s g).greens h
  | enterStartFlash => exact (Kept.enterStartFlash s).greens h
  | enterShutdown => exact (Kept.enterShutdown s _ _).greens h
  | enterStandby => exact (Kept.enterMode s _).greens h
  | modeLoss => exact (Kept.modeLoss s).greens h
  | modeReturn => exact (Kept.modeReturn s).greens h
  | startFlashExpiry => exact (Kept.startFlashExpiry s).greens h
  | startRedExpiry => exact (Kept.startRedExpiry s).greens h
  | endRedExpiry => exact (Kept.endRedExpiry s).greens h

/-- Settles O9: it holds of the start values, and a step is a chain of moves, each of which keeps it. -/
theorem greenUnavailableKept : Obligations.GreenUnavailableKept :=
  ⟨.ofDefaults _ rfl rfl, fun _ _ h e => (Moves.step e).induct (fun _ _ m => .move m) h⟩

end Sys2Proof.Machine

/-! SUPPORT. The conflict law, the intergreen law and R9 along the moves of a step (R11, R20, R21, R9): one walk over the operations of the sequence engine and the mode controller, for the three laws together. -/

namespace Sys2Proof.Machine

/-! ### What is claimed of a state -/

/-- Which laws a chain of moves is asked to keep besides the conflict law, and which groups were GREEN when it began. -/
structure Claims where
  timed  : Prop
  byMode : Prop
  old    : Group → Prop

/-- The intergreen law but for its clause about START_RED. -/
structure State.Spaced (s : State) : Prop where
  release  : ∀ j : Group, (s.groups[j]).pendingGreen = true → ∃ x, (s.groups[j]).greenRelease = some x ∧
    ∀ (i : Group) (ig off : Nat), i ≠ j → s.work.ig[i][j] = some ig → (s.groups[i]).greenMark = true →
      (s.groups[i]).lastGreenOff = some off → off + 100 * ig ≤ x
  redAmber : ∀ (j : Group) (e : Nat), (s.groups[j]).redAmberTimer = some e → (s.groups[j]).greenRelease = some e
  redAmberAspect : ∀ g : Group, (s.groups[g]).redAmberTimer ≠ none → (s.groups[g]).aspect = .redAmber
  amber    : ∀ g : Group, (s.groups[g]).amberTimer ≠ none → (s.groups[g]).aspect = .amber
  marked   : ∀ i : Group, (s.groups[i]).greenMark = true → (s.groups[i]).aspect = .green ∨ (s.groups[i]).lastGreenOff ≠ none

theorem State.timed_iff (s : State) :
    s.Timed ↔ s.Spaced ∧ (s.mode.mode = .startRed → ∀ i : Group, (s.groups[i]).greenMark = false) :=
  ⟨fun x => ⟨⟨x.release, x.redAmber, x.redAmberAspect, x.amber, x.marked⟩, x.startRed⟩,
    fun ⟨x, m⟩ => ⟨x.release, x.redAmber, x.redAmberAspect, x.amber, x.marked, m⟩⟩

/-- A group that is GREEN and was not among the old greens has the intergreen behind the last green-off of every marked group that conflicts with it (R21). -/
def State.Since (s : State) (old : Group → Prop) : Prop :=
  ∀ (i j : Group) (ig : Nat), i ≠ j → ¬ old j → (s.groups[j]).aspect = .green → s.work.ig[i][j] = some ig →
    (s.groups[i]).greenMark = true → ∃ off, (s.groups[i]).lastGreenOff = some off ∧ off + 100 * ig ≤ s.now

/-- What every operation of the engine keeps: the conflict law, and of the intergreen law what no mode gives. -/
structure State.Core (q : Claims) (s : State) : Prop where
  lawful : s.Lawful
  spaced : q.timed → s.Spaced ∧ s.Since q.old

/-- What the mode in force gives of the intergreen law and of R9. -/
structure State.Posted (q : Claims) (s : State) : Prop where
  startRed : q.timed → s.mode.mode = .startRed → ∀ i : Group, (s.groups[i]).greenMark = false
  byMode   : q.byMode → s.ByMode

/-- The laws together. -/
structure State.Safe (q : Claims) (s : State) : Prop extends State.Core q s, State.Posted q s

variable {q : Claims} {s t : State}

/-! ### Calm operations -/

theorem Calm.group (h : Calm s t) (g : Group) :
    ∃ a b c, t.groups[g] = { s.groups[g] with conflictRedOut := a, hold := b, greenUnavailable := c } := h.groups g

theorem Calm.groupFields (h : Calm s t) (g : Group) :
    (t.groups[g]).aspect = (s.groups[g]).aspect ∧ (t.groups[g]).pendingGreen = (s.groups[g]).pendingGreen
      ∧ (t.groups[g]).amberTimer = (s.groups[g]).amberTimer
      ∧ (t.groups[g]).redAmberTimer = (s.groups[g]).redAmberTimer
      ∧ (t.groups[g]).greenRelease = (s.groups[g]).greenRelease
      ∧ (t.groups[g]).lastGreenOff = (s.groups[g]).lastGreenOff
      ∧ (t.groups[g]).greenMark = (s.groups[g]).greenMark := by
  obtain ⟨a, b, c, e⟩ := h.groups g
  rw [e]
  exact ⟨rfl, rfl, rfl, rfl, rfl, rfl, rfl⟩

theorem Calm.aspect (h : Calm s t) (g : Group) : (t.groups[g]).aspect = (s.groups[g]).aspect := (h.groupFields g).1

theorem Calm.pending (h : Calm s t) (g : Group) : (t.groups[g]).pendingGreen = (s.groups[g]).pendingGreen :=
  (h.groupFields g).2.1

theorem Calm.calls (h : Calm s t) (g : Group) : (t.groups[g]).calls = (s.groups[g]).calls := by
  unfold GroupRun.calls
  rw [h.aspect, h.pending]

theorem Calm.conflict (h : Calm s t) (i j : Group) : t.work.conflict i j = s.work.conflict i j := by
  unfold Settings.conflict
  rw [h.ig]

theorem Calm.lawful (h : Calm s t) (x : s.Lawful) : t.Lawful where
  peaceful := fun i j n a b => by
    rw [h.calls] at a b
    rw [h.conflict]; exact x.peaceful i j n a b
  records := h.records x.voids x.records
  voids := h.voids x.voids
  gaining := fun g a => by
    rw [h.pending] at a
    rw [h.state, h.gaining]; exact x.gaining g a
  redAmber := fun g a => by
    obtain ⟨-, p, -, r, -⟩ := h.groupFields g
    rw [r] at a
    rw [p]; exact x.redAmber g a
  engine := fun m => by
    rw [h.mode] at m
    obtain ⟨a, b, c⟩ := x.engine m
    exact ⟨h.state.trans a, h.plan m b, h.barred.trans c⟩
  commit := fun j => by rw [h.mode]; exact x.commit (h.job j)
  write := fun w e c i => by
    obtain ⟨e', j⟩ := h.write w e
    rw [j]; exact x.write w e' c i
  start := fun p => by
    rw [h.phase] at p
    obtain ⟨a, b, c⟩ := x.start p
    exact ⟨h.mode.trans a, Bool.eq_false_iff.mpr fun j => Bool.eq_false_iff.mp b (h.job j), h.queue p c⟩

theorem Calm.spaced (h : Calm s t) (x : s.Spaced) : t.Spaced where
  release := fun j a => by
    obtain ⟨-, p, -, -, r, -⟩ := h.groupFields j
    rw [p] at a
    obtain ⟨y, e, f⟩ := x.release j a
    refine ⟨y, by rw [r]; exact e, fun i ig off n c m l => ?_⟩
    obtain ⟨-, -, -, -, -, li, mi⟩ := h.groupFields i
    rw [h.ig] at c
    rw [mi] at m
    rw [li] at l
    exact f i ig off n c m l
  redAmber := fun j e a => by
    obtain ⟨-, -, -, ra, r, -⟩ := h.groupFields j
    rw [ra] at a
    rw [r]; exact x.redAmber j e a
  redAmberAspect := fun g a => by
    obtain ⟨as, -, -, ra, -⟩ := h.groupFields g
    rw [ra] at a
    rw [as]; exact x.redAmberAspect g a
  amber := fun g a => by
    obtain ⟨as, -, am, -⟩ := h.groupFields g
    rw [am] at a
    rw [as]; exact x.amber g a
  marked := fun i a => by
    obtain ⟨as, -, -, -, -, l, m⟩ := h.groupFields i
    rw [m] at a
    rw [as, l]; exact x.marked i a

theorem Calm.since {old : Group → Prop} (h : Calm s t) (x : s.Since old) : t.Since old := fun i j ig n o g c m => by
  obtain ⟨-, -, -, -, -, l, mi⟩ := h.groupFields i
  rw [h.aspect] at g
  rw [h.ig] at c
  rw [mi] at m
  rw [l, h.now]; exact x i j ig n o g c m

theorem Calm.byMode (h : Calm s t) (x : s.ByMode) : t.ByMode := fun a b g => by
  obtain ⟨as, p, am, ra, r, -⟩ := h.groupFields g
  rw [h.mode] at a b
  rw [h.mode, h.style, h.junction, h.types, as, p, am, ra, r]
  exact x a b g

theorem State.Core.calm (x : s.Core q) (h : Calm s t) : t.Core q where
  lawful := h.lawful x.lawful
  spaced := fun c => ⟨h.spaced (x.spaced c).1, h.since (x.spaced c).2⟩

theorem State.Posted.calm (x : s.Posted q) (h : Calm s t) : t.Posted q where
  startRed := fun c m i => by
    obtain ⟨-, -, -, -, -, -, mi⟩ := h.groupFields i
    rw [mi]; exact x.startRed c (h.mode ▸ m) i
  byMode := fun c => h.byMode (x.byMode c)

theorem State.Safe.calm (x : s.Safe q) (h : Calm s t) : t.Safe q where
  toCore := x.toCore.calm h
  toPosted := x.toPosted.calm h

/-- In RUNNING and SHUTDOWN the mode gives nothing of the laws. -/
theorem State.Core.safe (x : s.Core q) (h : s.mode.mode = .running ∨ s.mode.mode = .shutdown) : s.Safe q where
  toCore := x
  startRed := fun _ m => by rcases h with h | h <;> rw [h] at m <;> cases m
  byMode := fun _ a b => (h.elim a b).elim

/-! ### One group -/

/-- What a new record r of group g asks of the intergreen law. -/
structure State.Spaces (s : State) (old : Group → Prop) (g : Group) (r : GroupRun) : Prop where
  release : r.pendingGreen = true → ∃ x, r.greenRelease = some x ∧ ∀ (i : Group) (ig off : Nat), i ≠ g →
    s.work.ig[i][g] = some ig → (s.groups[i]).greenMark = true → (s.groups[i]).lastGreenOff = some off → off + 100 * ig ≤ x
  others  : ∀ (j : Group) (ig : Nat), g ≠ j → (s.groups[j]).calls = true → s.work.ig[g][j] = some ig →
    r.greenMark = (s.groups[g]).greenMark ∧ r.lastGreenOff = (s.groups[g]).lastGreenOff
  since   : r.aspect = .green → ¬ old g → ∀ (i : Group) (ig : Nat), i ≠ g → s.work.ig[i][g] = some ig →
    (s.groups[i]).greenMark = true → ∃ off, (s.groups[i]).lastGreenOff = some off ∧ off + 100 * ig ≤ s.now
  redAmber : ∀ e, r.redAmberTimer = some e → r.greenRelease = some e
  redAmberAspect : r.redAmberTimer ≠ none → r.aspect = .redAmber
  amber   : r.amberTimer ≠ none → r.aspect = .amber
  marked  : r.greenMark = true → r.aspect = .green ∨ r.lastGreenOff ≠ none

theorem GroupRun.calls_of_pending {r : GroupRun} (h : r.pendingGreen = true) : r.calls = true := by
  simp [GroupRun.calls, h]

theorem GroupRun.calls_of_green {r : GroupRun} (h : r.aspect = .green) : r.calls = true := by
  simp [GroupRun.calls, h]

theorem GroupRun.calls_iff (r : GroupRun) : r.calls = true ↔ r.aspect = .green ∨ r.pendingGreen = true := by
  simp [GroupRun.calls]

theorem State.updGroup_get (s : State) (g d : Group) (f : GroupRun → GroupRun) :
    (s.updGroup g f).groups[d] = if g = d then f s.groups[d] else s.groups[d] := upd_get _ _ _ _

theorem State.updGroup_get_same (s : State) (g : Group) (f : GroupRun → GroupRun) :
    (s.updGroup g f).groups[g] = f s.groups[g] := upd_same _ _ _

theorem State.updGroup_get_ne (s : State) {g d : Group} (f : GroupRun → GroupRun) (h : g ≠ d) :
    (s.updGroup g f).groups[d] = s.groups[d] := upd_other _ _ _ _ h

theorem State.Spaced.updGroup {g : Group} {f : GroupRun → GroupRun} {old : Group → Prop} (x : s.Spaced)
    (h : s.Spaces old g (f s.groups[g])) : (s.updGroup g f).Spaced where
  release := fun j a => by
    by_cases e : g = j
    · subst e
      rw [s.updGroup_get_same] at a ⊢
      obtain ⟨y, hy, k⟩ := h.release a
      refine ⟨y, hy, fun i ig off n c m l => ?_⟩
      rw [s.updGroup_get_ne f (Ne.symm n)] at m l
      exact k i ig off n c m l
    · rw [s.updGroup_get_ne f e] at a ⊢
      obtain ⟨y, hy, k⟩ := x.release j a
      refine ⟨y, hy, fun i ig off n c m l => ?_⟩
      by_cases d : g = i
      · subst d
        obtain ⟨hm, hl⟩ := h.others j ig n (GroupRun.calls_of_pending a) c
        rw [s.updGroup_get_same] at m l
        exact k g ig off n c (hm ▸ m) (hl ▸ l)
      · rw [s.updGroup_get_ne f d] at m l
        exact k i ig off n c m l
  redAmber := fun j e a => by
    rw [s.updGroup_get] at a ⊢
    split at a
    · next d => subst d; rw [if_pos rfl]; exact h.redAmber e a
    · next d => rw [if_neg d]; exact x.redAmber j e a
  redAmberAspect := fun j a => by
    rw [s.updGroup_get] at a ⊢
    split at a
    · next d => subst d; rw [if_pos rfl]; exact h.redAmberAspect a
    · next d => rw [if_neg d]; exact x.redAmberAspect j a
  amber := fun j a => by
    rw [s.updGroup_get] at a ⊢
    split at a
    · next d => subst d; rw [if_pos rfl]; exact h.amber a
    · next d => rw [if_neg d]; exact x.amber j a
  marked := fun j a => by
    rw [s.updGroup_get] at a ⊢
    split at a
    · next d => subst d; rw [if_pos rfl]; exact h.marked a
    · next d => rw [if_neg d]; exact x.marked j a

theorem State.Since.updGroup {g : Group} {f : GroupRun → GroupRun} {old : Group → Prop} (x : s.Since old)
    (h : s.Spaces old g (f s.groups[g])) : (s.updGroup g f).Since old := fun i j ig n o a c m => by
  by_cases e : g = j
  · subst e
    rw [s.updGroup_get_same] at a
    rw [s.updGroup_get_ne f (Ne.symm n)] at m ⊢
    exact h.since a o i ig n c m
  · rw [s.updGroup_get_ne f e] at a
    by_cases d : g = i
    · subst d
      obtain ⟨hm, hl⟩ := h.others j ig n (GroupRun.calls_of_green a) c
      rw [s.updGroup_get_same] at m ⊢
      rw [hm] at m
      rw [hl]
      exact x g j ig n o a c m
    · rw [s.updGroup_get_ne f d] at m ⊢
      exact x i j ig n o a c m

/-- A new record of one group: it may call for green anew only where no group that calls conflicts with it, and waits for its green only as a gaining group of the change under way. -/
theorem State.Core.updGroup {g : Group} {f : GroupRun → GroupRun} (x : s.Core q)
    (calls : (f s.groups[g]).calls = true → (s.groups[g]).calls = true
      ∨ ∀ i : Group, i ≠ g → (s.groups[i]).calls = true → s.work.conflict i g = false ∧ s.work.conflict g i = false)
    (pending : (f s.groups[g]).pendingGreen = true → s.engine.state = .changing ∧ s.engine.gaining[g] = true)
    (redAmber : (f s.groups[g]).redAmberTimer ≠ none → (f s.groups[g]).pendingGreen = true)
    (spaces : q.timed → s.Spaced → s.Since q.old → s.Spaces q.old g (f s.groups[g])) : (s.updGroup g f).Core q where
  lawful :=
    { peaceful := fun i j n a b => by
        by_cases di : g = i
        · subst di
          rw [s.updGroup_get_same] at a
          rw [s.updGroup_get_ne f n] at b
          rcases calls a with a | k
          · exact x.lawful.peaceful g j n a b
          · exact (k j (Ne.symm n) b).2
        · rw [s.updGroup_get_ne f di] at a
          by_cases dj : g = j
          · subst dj
            rw [s.updGroup_get_same] at b
            rcases calls b with b | k
            · exact x.lawful.peaceful i g n a b
            · exact (k i n a).1
          · rw [s.updGroup_get_ne f dj] at b
            exact x.lawful.peaceful i j n a b
      records := x.lawful.records
      voids := x.lawful.voids
      gaining := fun d a => by
        rw [s.updGroup_get] at a
        split at a
        · next e => subst e; exact pending a
        · exact x.lawful.gaining d a
      redAmber := fun d a => by
        rw [s.updGroup_get] at a ⊢
        split at a
        · next e => subst e; rw [if_pos rfl]; exact redAmber a
        · next e => rw [if_neg e]; exact x.lawful.redAmber d a
      engine := x.lawful.engine
      commit := x.lawful.commit
      write := x.lawful.write
      start := x.lawful.start }
  spaced := fun c => by
    obtain ⟨a, b⟩ := x.spaced c
    have h := spaces c a b
    exact ⟨a.updGroup h, b.updGroup h⟩

/-! ### The operations on one group (R7, R8, R17, R19 to R22) -/

/-- The conflict law rules out an intergreen entry between two groups that call for green. -/
theorem State.Lawful.no_ig (x : s.Lawful) {i j : Group} {ig : Nat} (n : i ≠ j) (a : (s.groups[i]).calls = true)
    (b : (s.groups[j]).calls = true) (h : s.work.ig[i][j] = some ig) : False := by
  have k := x.peaceful i j n a b
  unfold Settings.conflict at k
  rw [h] at k
  cases k

/-- What the end of a green makes of a group (R7, R20): it shows neither GREEN nor RED_AMBER, its amber timer has changed only where it shows AMBER, and the last green-off time is now. -/
theorem State.endGreen_spec (s : State) (g : Group) : ∃ f, s.endGreen g = (s.updGroup g f).mark ∧ ∃ a am,
    f s.groups[g] = { s.groups[g] with aspect := a, amberTimer := am, lastGreenOff := some s.now }
      ∧ a ≠ .green ∧ a ≠ .redAmber ∧ (a = .amber ∨ am = (s.groups[g]).amberTimer) := by
  unfold State.endGreen
  dsimp only
  split
  · exact ⟨_, rfl, _, _, rfl, by decide, by decide, .inl rfl⟩
  · exact ⟨_, rfl, _, _, rfl, by decide, by decide, .inl rfl⟩
  · exact ⟨_, rfl, _, _, rfl, by decide, by decide, .inr rfl⟩
  · exact ⟨_, rfl, _, _, rfl, by decide, by decide, .inr rfl⟩

/-- The end of a green (R7): no group that calls for green conflicts with it. -/
theorem State.Core.endGreen {g : Group} (x : s.Core q) (h : (s.groups[g]).aspect = .green) : (s.endGreen g).Core q := by
  obtain ⟨f, e, a, am, r, ng, nr, k⟩ := s.endGreen_spec g
  rw [e]
  refine State.Core.calm (x.updGroup ?_ ?_ ?_ ?_) (.mark _) <;> rw [r]
  · exact fun _ => .inl (GroupRun.calls_of_green h)
  · exact x.lawful.gaining g
  · exact x.lawful.redAmber g
  · intro _ y z
    have none : (s.groups[g]).redAmberTimer = none := by
      by_contra n
      rw [y.redAmberAspect g n] at h
      cases h
    exact
      { release := y.release g
        others := fun j ig n c i => (x.lawful.no_ig n (GroupRun.calls_of_green h) c i).elim
        since := fun c => (ng c).elim
        redAmber := y.redAmber g
        redAmberAspect := fun n => (n none).elim
        amber := fun n => by
          rcases k with k | k
          · exact k
          · rw [y.amber g (k ▸ n)] at h; cases h
        marked := fun _ => .inr (by simp) }

/-- A gaining group whose green-release time has come is given green (R8, R19). -/
theorem State.Core.giveGreen {g : Group} (x : s.Core q) (p : (s.groups[g]).pendingGreen = true)
    (h : q.timed → (s.groups[g]).aspect ≠ .amber ∧ ∃ y, (s.groups[g]).greenRelease = some y ∧ y ≤ s.now) :
    (s.giveGreen g).Core q := by
  refine State.Core.calm (x.updGroup (fun _ => .inl (GroupRun.calls_of_pending p)) (fun n => absurd n Bool.false_ne_true)
    (fun n => (n rfl).elim) ?_) (.of (Quiet.wantSelection _).calm (.mark _))
  intro c y z
  obtain ⟨na, e, he, le⟩ := h c
  exact
    { release := fun n => (nomatch n)
      others := fun j ig n c i => (x.lawful.no_ig n (GroupRun.calls_of_pending p) c i).elim
      since := fun _ _ i ig n c m => by
        obtain ⟨e', he', k⟩ := y.release g p
        obtain rfl : e' = e := Option.some.inj (he'.symm.trans he)
        rcases y.marked i m with gr | l
        · exact (x.lawful.no_ig n (GroupRun.calls_of_green gr) (GroupRun.calls_of_pending p) c).elim
        · obtain ⟨off, ho⟩ := Option.ne_none_iff_exists'.mp l
          exact ⟨off, ho, (k i ig off n c m ho).trans le⟩
      redAmber := fun _ n => (nomatch n)
      redAmberAspect := fun n => (n rfl).elim
      amber := fun n => (na (y.amber g n)).elim
      marked := fun _ => .inl rfl }

theorem State.Core.dropGaining {g : Group} (x : s.Core q) :
    (s.dropGaining g).Core q := by
  have aspect : ∀ a : Aspect, (if a = .redAmber then Aspect.red else a) = .green → a = .green := by
    intro a; split <;> simp
  refine State.Core.calm (x.updGroup (fun c => .inl ?_) (fun n => absurd n Bool.false_ne_true) (fun n => (n rfl).elim) ?_) (.mark _)
  · rcases (GroupRun.calls_iff _).mp c with c | c
    · exact GroupRun.calls_of_green (aspect _ c)
    · cases c
  · intro _ y z
    exact
      { release := fun n => (nomatch n)
        others := fun _ _ _ _ _ => ⟨rfl, rfl⟩
        since := fun c o i ig n => z i g ig n o (aspect _ c)
        redAmber := fun _ n => (nomatch n)
        redAmberAspect := fun n => (n rfl).elim
        amber := fun n => by
          have := y.amber g n
          dsimp only
          rw [this]; rfl
        marked := fun m => by
          rcases y.marked g m with a | l
          · left; dsimp only; rw [a]; rfl
          · exact .inr l }

theorem State.Core.advanceGroup {g : Group} (x : s.Core q) : (s.advanceGroup g).Core q := by
  obtain e | ⟨p, na, y, -, e⟩ | ⟨p, r, -, e⟩ := s.advanceGroup_cases g <;> rw [e]
  · exact x
  · exact x.giveGreen p fun _ => ⟨na, y⟩
  · refine State.Core.calm (x.updGroup (fun _ => .inl (GroupRun.calls_of_pending p)) (fun _ => x.lawful.gaining g p)
      (fun _ => p) ?_) (.mark _)
    intro _ y z
    exact
      { release := y.release g
        others := fun _ _ _ _ _ => ⟨rfl, rfl⟩
        since := fun n => (nomatch n)
        redAmber := fun _ h => h
        redAmberAspect := fun _ => rfl
        amber := fun n => by rw [y.amber g n] at r; cases r
        marked := fun m => by
          rcases y.marked g m with a | l
          · rw [a] at r; cases r
          · exact .inr l }

/-- The amber timer's expiry (R7). -/
theorem State.Core.amberEnd {g : Group} (x : s.Core q) (h : (s.groups[g]).amberTimer ≠ none) : (s.amberEnd g).Core q := by
  unfold State.amberEnd
  dsimp only
  generalize ha : (if s.work.groups[g].type = .arrow then Aspect.dark else .red) = a
  have na : a ≠ .green := by subst ha; split <;> decide
  refine State.Core.advanceGroup (State.Core.calm (x.updGroup (fun c => ?_) (x.lawful.gaining g) (x.lawful.redAmber g) ?_)
    (.mark _))
  · rcases (GroupRun.calls_iff _).mp c with c | c
    · exact (na c).elim
    · exact .inl (GroupRun.calls_of_pending c)
  · intro _ y z
    have am := y.amber g h
    exact
      { release := y.release g
        others := fun _ _ _ _ _ => ⟨rfl, rfl⟩
        since := fun c => (na c).elim
        redAmber := y.redAmber g
        redAmberAspect := fun n => by rw [y.redAmberAspect g n] at am; cases am
        amber := fun n => (n rfl).elim
        marked := fun m => by
          rcases y.marked g m with b | l
          · rw [b] at am; cases am
          · exact .inr l }

/-- A group becomes gaining (R19): it does not wait for its green yet, no group that calls for green conflicts with it, and its green-release time is behind every intergreen. -/
theorem State.Core.setGaining {g : Group} {n : Nat} {o : Option Nat} (x : s.Core q)
    (p : (s.groups[g]).pendingGreen = false) (c : s.engine.state = .changing) (m : s.engine.gaining[g] = true)
    (free : ∀ i : Group, i ≠ g → (s.groups[i]).calls = true → s.work.conflict i g = false ∧ s.work.conflict g i = false)
    (behind : q.timed → ∀ (i : Group) (ig off : Nat), i ≠ g → s.work.ig[i][g] = some ig →
      (s.groups[i]).greenMark = true → (s.groups[i]).lastGreenOff = some off → off + 100 * ig ≤ n) :
    (s.setGaining g n o).Core q := by
  have none : (s.groups[g]).redAmberTimer = none := by
    by_contra k
    exact Bool.eq_false_iff.mp p (x.lawful.redAmber g k)
  refine State.Core.advanceGroup (State.Core.calm (x.updGroup (fun _ => .inr free) (fun _ => ⟨c, m⟩) (fun _ => rfl) ?_)
    (.of (Quiet.wantSelection _).calm (Quiet.surveyPending _ g).calm))
  intro ct y z
  exact
    { release := fun _ => ⟨n, rfl, behind ct⟩
      others := fun _ _ _ _ _ => ⟨rfl, rfl⟩
      since := fun a o i ig n => z i g ig n o a
      redAmber := fun e h => by rw [show (s.groups[g]).redAmberTimer = some e from h] at none; cases none
      redAmberAspect := fun h => (h none).elim
      amber := y.amber g
      marked := y.marked g }

end Sys2Proof.Machine

namespace Sys2Proof.Machine

variable {q : Claims} {s t : State}

/-! ### Operations on one group, and loops of them -/

/-- From s to t no group's record but that of g has changed, nor the engine, the mode, the configuration and the plan set in use, the time, or which groups have lost their last inhibit reason. -/
structure Touches (g : Group) (s t : State) : Prop where
  others : ∀ d, g ≠ d → t.groups[d] = s.groups[d] := by exact fun _ _ => rfl
  engine : t.engine = s.engine := by rfl
  work   : t.work = s.work := by rfl
  inUse  : t.inUse = s.inUse := by rfl
  now    : t.now = s.now := by rfl
  mode   : t.mode = s.mode := by rfl
  freed  : t.ev.freed = s.ev.freed := by rfl

theorem Touches.refl (g : Group) (s : State) : Touches g s s := {}

theorem Touches.trans {g : Group} {u : State} (h : Touches g s t) (k : Touches g t u) : Touches g s u where
  others := fun d n => (k.others d n).trans (h.others d n)
  engine := k.engine.trans h.engine
  work := k.work.trans h.work
  inUse := k.inUse.trans h.inUse
  now := k.now.trans h.now
  mode := k.mode.trans h.mode
  freed := k.freed.trans h.freed

theorem Touches.updGroup (s : State) (g : Group) (f : GroupRun → GroupRun) : Touches g s (s.updGroup g f) where
  others := fun _ n => s.updGroup_get_ne f n

theorem Touches.endGreen (s : State) (g : Group) : Touches g s (s.endGreen g) := by
  obtain ⟨f, e, -⟩ := s.endGreen_spec g
  rw [e]
  exact .trans (.updGroup s g f) {}

theorem Touches.giveGreen (s : State) (g : Group) : Touches g s (s.giveGreen g) := .trans (.updGroup s g _) {}

theorem Touches.dropGaining (s : State) (g : Group) : Touches g s (s.dropGaining g) := .trans (.updGroup s g _) {}

theorem Touches.advanceGroup (s : State) (g : Group) : Touches g s (s.advanceGroup g) := by
  obtain e | ⟨-, -, -, -, e⟩ | ⟨-, -, -, e⟩ := s.advanceGroup_cases g <;> rw [e]
  · exact .refl g s
  · exact .giveGreen s g
  · exact .trans (.updGroup s g _) {}

/-- The abandoning of a test touches the surveyor and its relay alone. -/
theorem State.abandon_frame (s : State) (k : CoreId) (b : Bool) : (s.abandon k b).groups = s.groups
    ∧ (s.abandon k b).engine = s.engine ∧ (s.abandon k b).work = s.work ∧ (s.abandon k b).inUse = s.inUse
    ∧ (s.abandon k b).now = s.now ∧ (s.abandon k b).mode = s.mode ∧ (s.abandon k b).ev.freed = s.ev.freed := by
  unfold State.abandon
  split
  · dsimp only
    split <;> exact ⟨rfl, rfl, rfl, rfl, rfl, rfl, rfl⟩
  · exact ⟨rfl, rfl, rfl, rfl, rfl, rfl, rfl⟩

theorem Touches.surveyPending (s : State) (g : Group) : Touches g s (s.surveyPending g) := by
  unfold State.surveyPending State.abandonIf
  split
  · next k _ =>
    split
    · obtain ⟨a, b, c, d, e, f, h⟩ := s.abandon_frame k true
      exact ⟨fun _ _ => by rw [a], b, c, d, e, f, h⟩
    · exact .refl g s
  · exact .refl g s

theorem State.surveyPending_groups (s : State) (g : Group) : (s.surveyPending g).groups = s.groups := by
  unfold State.surveyPending State.abandonIf
  split
  · split
    · exact (s.abandon_frame _ _).1
    · rfl
  · rfl

theorem Touches.setGaining (s : State) (g : Group) (n : Nat) (o : Option Nat) : Touches g s (s.setGaining g n o) := by
  have select : ∀ t : State, Touches g t t.wantSelection := fun t => {}
  unfold State.setGaining
  exact .trans (.trans (.trans (.updGroup s g _) (.surveyPending _ g)) (select _)) (.advanceGroup _ g)

/-- A loop over groups, each pass of which touches its own group alone: nothing of the frame changes, a group not in the list is as it was, and one in it is what its own pass makes of it, from a state in which it is as it was. -/
theorem State.each_touches {f : Group → State → State} (hf : ∀ g t, Touches g t (f g t)) (l : List Group) (s : State)
    (P : State → Prop) (p : P s) (keep : ∀ g ∈ l, ∀ t, P t → P (f g t)) (nd : l.Nodup) :
    (s.each l f).engine = s.engine ∧ (s.each l f).work = s.work ∧ (s.each l f).inUse = s.inUse
      ∧ (s.each l f).now = s.now ∧ (s.each l f).mode = s.mode ∧ (s.each l f).ev.freed = s.ev.freed ∧ P (s.each l f)
      ∧ ∀ d : Group, (d ∉ l → (s.each l f).groups[d] = s.groups[d])
        ∧ (d ∈ l → ∃ u, P u ∧ u.groups[d] = s.groups[d] ∧ u.engine = s.engine ∧ u.work = s.work ∧ u.now = s.now
          ∧ u.ev.freed = s.ev.freed ∧ (s.each l f).groups[d] = (f d u).groups[d]) := by
  induction l generalizing s with
  | nil => exact ⟨rfl, rfl, rfl, rfl, rfl, rfl, p, fun d => ⟨fun _ => rfl, fun h => (nomatch h)⟩⟩
  | cons a l ih =>
    obtain ⟨na, nd⟩ := List.nodup_cons.mp nd
    have h := hf a s
    obtain ⟨e, w, i, n, m, fr, pl, k⟩ := ih (f a s) (keep a (by simp) s p) (fun g hg => keep g (by simp [hg])) nd
    refine ⟨e.trans h.engine, w.trans h.work, i.trans h.inUse, n.trans h.now, m.trans h.mode, fr.trans h.freed, pl,
      fun d => ⟨fun nm => ?_, fun hm => ?_⟩⟩
    · rw [List.mem_cons, not_or] at nm
      exact ((k d).1 nm.2).trans (h.others d (Ne.symm nm.1))
    · rcases List.mem_cons.mp hm with rfl | hm
      · exact ⟨s, p, rfl, rfl, rfl, rfl, rfl, (k d).1 na⟩
      · obtain ⟨u, pu, g, ue, uw, un, uf, eq⟩ := (k d).2 hm
        have ne : a ≠ d := fun e => na (e ▸ hm)
        exact ⟨u, pu, g.trans (h.others d ne), ue.trans h.engine, uw.trans h.work, un.trans h.now, uf.trans h.freed, eq⟩

theorem allGroups_nodup : allGroups.Nodup := List.nodup_finRange 16

theorem mem_allGroups (g : Group) : g ∈ allGroups := List.mem_finRange g

/-! ### Plans in RUNNING (R37, R44, R52, R53) -/

section
variable (s : State)

theorem Calm.translateFor (ref : PlanRef) (m : s.mode.mode = .running) : Calm s (s.translateFor ref).1 := by
  unfold State.translateFor
  split
  · exact .observe s _
  · next p hp =>
    have c := Calm.each (fun k t => .endCond t ⟨.plan p.number, k⟩) translationKinds s
    have i : (s.each translationKinds fun k t => t.endCond ⟨.plan p.number, k⟩).inUse = s.inUse :=
      (Quiet.each (fun k t => .endCond t ⟨.plan p.number, k⟩) translationKinds s).inUse
    generalize (s.each translationKinds fun k t => t.endCond ⟨.plan p.number, k⟩) = u at c i ⊢
    exact c.trans
      { records := fun v _ p' e r hr => by
          cases e
          exact State.VoidsSet.records v (i ▸ hp) r hr
        plan := fun n => (n (c.mode.trans m)).elim }

theorem Calm.takeChange (c : PendingChange) (m : s.mode.mode = .running) : Calm s (s.takeChange c).1 := by
  have h : Calm s { s with engine := { s.engine with change := none } } := {}
  exact h.trans (.translateFor _ _ m)

theorem Calm.fallBack (m : s.mode.mode = .running) : Calm s s.fallBack.1 := by
  unfold State.fallBack
  split
  · exact .refl s
  · exact .translateFor s _ m

theorem Calm.noPlan : Calm s { s with engine := { s.engine with plan := none, record := none } } where
  records := fun _ _ _ e => (nomatch e)
  plan := fun _ _ => rfl

/-- A pending change, where there is one, is taken. -/
def State.changeTaken (s : State) : State × Bool :=
  match s.engine.change with
  | some c => s.takeChange c
  | none => (s, false)

/-- The reference of the current plan is translated against the set in use, else the base reference; where both fail no plan is current (log 15). -/
def State.planRenewed (s : State) : State :=
  match s.engine.plan with
  | none => s
  | some p =>
    if (s.translateFor p.ref).2 then (s.translateFor p.ref).1
    else if ((s.translateFor p.ref).1.translateFor baseRef).2 then ((s.translateFor p.ref).1.translateFor baseRef).1
    else { ((s.translateFor p.ref).1.translateFor baseRef).1 with
      engine := { ((s.translateFor p.ref).1.translateFor baseRef).1.engine with plan := none, record := none } }

theorem State.reResolve_eq : s.reResolve = if s.changeTaken.2 then s.changeTaken.1 else s.changeTaken.1.planRenewed := by
  unfold State.reResolve State.changeTaken State.planRenewed
  rfl

theorem Calm.changeTaken (m : s.mode.mode = .running) : Calm s s.changeTaken.1 := by
  unfold State.changeTaken
  split
  · exact .takeChange s _ m
  · exact .refl s

theorem Calm.planRenewed (m : s.mode.mode = .running) : Calm s s.planRenewed := by
  unfold State.planRenewed
  split
  · exact .refl s
  · next p _ =>
    have h := Calm.translateFor s p.ref m
    have k := h.trans (Calm.translateFor (s.translateFor p.ref).1 baseRef (h.mode.trans m))
    exact .ite h (.ite k (k.trans (.noPlan _)))

theorem Calm.reResolve (m : s.mode.mode = .running) : Calm s s.reResolve := by
  have h := Calm.changeTaken s m
  rw [s.reResolve_eq]
  exact .ite h (h.trans (.planRenewed _ (h.mode.trans m)))

theorem Calm.crossBoundary (m : s.mode.mode = .running) : Calm s s.crossBoundary.1 := by
  unfold State.crossBoundary
  split
  · next p _ =>
    have a := Calm.adoptSet s p
    exact .of (.notify _ _) <| a.trans (.reResolve _ (a.mode.trans m))
  · split
    · exact .refl s
    · next c _ =>
      have h := Calm.takeChange s c m
      dsimp only
      split
      · exact h.trans (.notify _ _)
      · exact h

theorem Calm.scanPlan (m : s.mode.mode = .running) : Calm s s.scanPlan.1 := by
  unfold State.scanPlan
  split
  · exact .refl s
  · next p _ =>
    generalize s.engine.scanOrder p = o
    obtain ⟨before, after⟩ := o
    dsimp only
    split
    · exact .refl s
    · split
      · exact .refl s
      · have h := Calm.crossBoundary s m
        split
        · split <;> exact h
        · exact h

end

/-- The record found by a scan is a record of the plan scanned. -/
theorem State.firstQualifying_mem {p : ResolvedPlan} {l : List Nat} {i : Nat} {r : ResolvedRecord}
    (h : s.firstQualifying p l = some (i, r)) : r ∈ p.records := by
  obtain ⟨j, -, e⟩ := List.exists_of_findSome?_eq_some h
  split at e
  · next x hx =>
    split at e
    · cases e; exact List.mem_of_getElem? hx
    · cases e
  · cases e

/-- The record a decision takes is fit to be shown. -/
theorem State.scanPlan_peaceful (v : s.VoidsSet) (f : s.Fit) (m : s.mode.mode = .running) {i : Nat} {r : ResolvedRecord}
    (h : s.scanPlan.2 = some (i, r)) : s.work.Peaceful r.groups := by
  have c := Calm.crossBoundary s m
  have ft := c.records v f
  unfold State.scanPlan at h
  split at h
  · cases h
  · next p hp =>
    generalize s.engine.scanOrder p = o at h
    obtain ⟨before, after⟩ := o
    dsimp only at h
    split at h
    · next e => cases h; exact f p hp r (State.firstQualifying_mem e)
    · split at h
      · cases h
      · split at h
        · split at h
          · cases h
          · next p' hp' => exact (ft p' hp' r (State.firstQualifying_mem h)).of_ig c.ig.symm
        · exact f p hp r (State.firstQualifying_mem h)

/-! ### The engine when no group waits for its green -/

/-- The laws that no mode gives, in RUNNING. -/
structure State.Going (q : Claims) (s : State) : Prop extends State.Core q s where
  running : s.mode.mode = .running

/-- The engine runs and no group waits for its green. -/
structure State.Ready (q : Claims) (s : State) : Prop extends State.Going q s where
  noneWaits : ∀ g : Group, (s.groups[g]).pendingGreen = false

theorem State.Going.calm (x : s.Going q) (h : Calm s t) : t.Going q := ⟨x.toCore.calm h, h.mode.trans x.running⟩

theorem State.Lawful.running (x : s.Lawful) (h : s.engine.state ≠ .off) : s.mode.mode = .running := by
  by_contra n
  exact h (x.engine n).1

theorem State.Lawful.none_pending (x : s.Lawful) (h : s.engine.state ≠ .changing) (g : Group) :
    (s.groups[g]).pendingGreen = false := by
  by_contra n
  exact h (x.gaining g (by simpa using n)).1

theorem State.Core.ready (x : s.Core q) (h : s.engine.state ≠ .changing) (m : s.mode.mode = .running) : s.Ready q :=
  ⟨⟨x, m⟩, x.lawful.none_pending h⟩

theorem State.Ready.calm (x : s.Ready q) (h : Calm s t) : t.Ready q :=
  ⟨x.toGoing.calm h, fun g => (h.pending g).trans (x.noneWaits g)⟩

/-- While no group waits for its green the engine may take any state, with the plan it has. -/
theorem State.Ready.reengine (x : s.Ready q) (e : Engine) (v : Ev) (h : e.plan = s.engine.plan) :
    State.Ready q { s with engine := e, ev := v } where
  lawful :=
    { peaceful := x.lawful.peaceful
      records := fun p hp => x.lawful.records p (h.symm.trans hp)
      voids := x.lawful.voids
      gaining := fun g a => absurd a (Bool.eq_false_iff.mp (x.noneWaits g))
      redAmber := x.lawful.redAmber
      engine := fun m => (m x.running).elim
      commit := x.lawful.commit
      write := x.lawful.write
      start := x.lawful.start }
  spaced := fun c => ⟨⟨(x.spaced c).1.release, (x.spaced c).1.redAmber, (x.spaced c).1.redAmberAspect,
    (x.spaced c).1.amber, (x.spaced c).1.marked⟩, (x.spaced c).2⟩
  running := x.running
  noneWaits := x.noneWaits

theorem State.Ready.ofEngine (x : s.Ready q) (e : Engine) (h : e.plan = s.engine.plan) :
    State.Ready q { s with engine := e } := x.reengine e s.ev h

theorem State.Ready.mark (x : s.Ready q) : s.mark.Ready q := x.calm (.mark s)

theorem State.Ready.stopTimers (x : s.Ready q) : s.stopTimers.Ready q := x.reengine _ _ rfl

theorem State.Ready.engineTo (x : s.Ready q) (e : EngineState) : (s.engineTo e).Ready q := x.reengine _ _ rfl

theorem State.Ready.beginGreen (x : s.Ready q) (k : PlanKind) (i : Nat) (r : ResolvedRecord) :
    (s.beginGreen k i r).Ready q := by
  have gap : ∀ t : State, Calm t (if k = .fixed then t else if t.occupied[r.stage] then t.stopGap else t.startGap r.gap) :=
    fun t => .ite (.refl t) (.ite (.stopGap t) (.startGap t _))
  unfold State.beginGreen
  refine State.Ready.calm ?_ (.of (.mark _) (gap _))
  exact (x.stopTimers.engineTo .green).reengine _ _ rfl

theorem State.Ready.toAllRed (x : s.Ready q) : s.toAllRed.Ready q := by
  unfold State.toAllRed
  exact ((x.engineTo .allRed).ofEngine { (s.engineTo .allRed).engine.changeOver with stage := some 0 } rfl).mark

theorem Calm.leave (s : State) (old : Nat) : Calm s
    (if old = 0 then s else { s with ev := { s.ev with leftForce := s.ev.leftForce ++ [old] } }) := .ite (.refl s) {}

/-! ### The stage change (R56) -/

/-- A stage change is opened: the timers are stopped and the record is current. -/
def State.changeOpened (s : State) (index : Nat) (r : ResolvedRecord) : State :=
  let old := s.engine.inForce
  let s := if old = 0 then s else { s with ev := { s.ev with leftForce := s.ev.leftForce ++ [old] } }
  let s := s.stopTimers.engineTo .changing
  { s with engine := { s.engine with record := some index, stage := some (r.stage.val + 1), prevStage := some old } }

theorem State.changeOpened_frame (s : State) (i : Nat) (r : ResolvedRecord) :
    (s.changeOpened i r).groups = s.groups ∧ (s.changeOpened i r).work = s.work ∧ (s.changeOpened i r).inUse = s.inUse
      ∧ (s.changeOpened i r).now = s.now ∧ (s.changeOpened i r).mode = s.mode
      ∧ (s.changeOpened i r).ev.freed = s.ev.freed := by
  unfold State.changeOpened
  dsimp only
  split <;> exact ⟨rfl, rfl, rfl, rfl, rfl, rfl⟩

/-- The greens outside the record's groups, which its stage change ends. -/
def State.losing (s : State) (r : ResolvedRecord) : List Group :=
  allGroups.filter fun g => (s.groups[g]).aspect == .green && !r.groups[g]

/-- The groups that the stage change sorts as gaining. -/
def State.gainers (s : State) (r : ResolvedRecord) : List Group :=
  allGroups.filter fun g => r.groups[g] && (s.groups[g]).aspect != .green && s.eligible g

/-- What a stage change makes of one gaining group. -/
def State.gain (entry : Bool) (g : Group) (t : State) : State :=
  if entry then
    if t.work.groups[g].type = .vehicle then
      t.setGaining g (t.now + tenths t.work.groups[g].redAmber) (some t.now)
    else t.setGaining g t.now none
  else t.setGaining g (t.releaseTime g) (t.redAmberTime g (t.releaseTime g))

/-- The engine holds the gaining groups of a stage change. -/
def State.holdGaining (s : State) (l : List Group) : State :=
  { s with engine := { s.engine with gaining := Vector.ofFn fun g => decide (g ∈ l) } }

@[simp] theorem State.holdGaining_groups (s : State) (l : List Group) : (s.holdGaining l).groups = s.groups := by
  unfold State.holdGaining
  rfl

@[simp] theorem State.holdGaining_work (s : State) (l : List Group) : (s.holdGaining l).work = s.work := by
  unfold State.holdGaining
  rfl

@[simp] theorem State.holdGaining_now (s : State) (l : List Group) : (s.holdGaining l).now = s.now := by
  unfold State.holdGaining
  rfl

@[simp] theorem State.holdGaining_ev (s : State) (l : List Group) : (s.holdGaining l).ev = s.ev := by
  unfold State.holdGaining
  rfl

@[simp] theorem State.holdGaining_state (s : State) (l : List Group) :
    (s.holdGaining l).engine.state = s.engine.state := by
  unfold State.holdGaining
  rfl

theorem State.holdGaining_gaining (s : State) (l : List Group) (g : Group) :
    (s.holdGaining l).engine.gaining[g] = decide (g ∈ l) := by
  unfold State.holdGaining
  simp

/-- A stage change opened, with the greens outside it ended. -/
def State.changeCleared (s : State) (i : Nat) (r : ResolvedRecord) : State :=
  (s.changeOpened i r).each ((s.changeOpened i r).losing r) fun g t => t.endGreen g

theorem State.beginChange_eq (s : State) (i : Nat) (r : ResolvedRecord) (entry : Bool) :
    s.beginChange i r entry = (((s.changeCleared i r).holdGaining ((s.changeCleared i r).gainers r)).each
      ((s.changeCleared i r).gainers r) (State.gain entry)).mark := by
  unfold State.beginChange
  rfl

theorem Touches.gain (entry : Bool) (g : Group) (t : State) : Touches g t (t.gain entry g) := by
  unfold State.gain
  split
  · split <;> exact .setGaining _ _ _ _
  · exact .setGaining _ _ _ _

theorem State.mem_losing {r : ResolvedRecord} {g : Group} :
    g ∈ s.losing r ↔ (s.groups[g]).aspect = .green ∧ r.groups[g] = false := by
  simp [State.losing, mem_allGroups]

theorem State.mem_gainers {r : ResolvedRecord} {g : Group} :
    g ∈ s.gainers r ↔ r.groups[g] = true ∧ (s.groups[g]).aspect ≠ .green ∧ s.eligible g = true := by
  simp [State.gainers, mem_allGroups, and_assoc]

theorem State.losing_nodup (s : State) (r : ResolvedRecord) : (s.losing r).Nodup := allGroups_nodup.filter _

theorem State.gainers_nodup (s : State) (r : ResolvedRecord) : (s.gainers r).Nodup := allGroups_nodup.filter _

theorem State.endGreen_not_green (s : State) (g : Group) : ((s.endGreen g).groups[g]).aspect ≠ .green := by
  obtain ⟨f, e, a, am, r, ng, -⟩ := s.endGreen_spec g
  rw [e, State.mark_groups, s.updGroup_get_same, r]
  exact ng

theorem State.endGreen_pending (s : State) (g d : Group) :
    ((s.endGreen g).groups[d]).pendingGreen = (s.groups[d]).pendingGreen := by
  obtain ⟨f, e, a, am, r, -⟩ := s.endGreen_spec g
  rw [e, State.mark_groups, s.updGroup_get]
  split
  · next k => subst k; rw [r]
  · rfl

theorem State.endGreen_mark (s : State) (g d : Group) :
    ((s.endGreen g).groups[d]).greenMark = (s.groups[d]).greenMark := by
  obtain ⟨f, e, a, am, r, -⟩ := s.endGreen_spec g
  rw [e, State.mark_groups, s.updGroup_get]
  split
  · next k => subst k; rw [r]
  · rfl

/-- The greens of a list end one after the other. -/
theorem State.Ready.endGreens (l : List Group) (nd : l.Nodup) (x : s.Ready q) (h : ∀ g ∈ l, (s.groups[g]).aspect = .green) :
    (s.each l fun g t => t.endGreen g).Ready q := by
  induction l generalizing s with
  | nil => exact x
  | cons a l ih =>
    obtain ⟨na, nd⟩ := List.nodup_cons.mp nd
    have k := Touches.endGreen s a
    refine ih nd ⟨⟨x.toCore.endGreen (h a (by simp)), by rw [k.mode]; exact x.running⟩,
      fun g => (s.endGreen_pending a g).trans (x.noneWaits g)⟩ fun g hg => ?_
    rw [k.others g fun e => na (e ▸ hg)]
    exact h g (by simp [hg])

/-- After the greens outside a record have ended every green is one of the record's groups. -/
theorem State.changeCleared_green {i : Nat} {r : ResolvedRecord} {g : Group}
    (h : ((s.changeCleared i r).groups[g]).aspect = .green) : r.groups[g] = true := by
  obtain ⟨-, -, -, -, -, -, -, k⟩ := State.each_touches (f := fun g t => t.endGreen g) (fun g t => .endGreen t g)
    ((s.changeOpened i r).losing r) (s.changeOpened i r) (fun _ => True) trivial (fun _ _ _ _ => trivial)
    (State.losing_nodup _ r)
  by_contra n
  unfold State.changeCleared at h
  by_cases m : g ∈ (s.changeOpened i r).losing r
  · obtain ⟨u, -, -, -, -, -, -, e⟩ := (k g).2 m
    rw [e] at h
    exact u.endGreen_not_green g h
  · rw [(k g).1 m] at h
    exact m (State.mem_losing.mpr ⟨h, by simpa using n⟩)

theorem State.Ready.changeOpened (x : s.Ready q) (i : Nat) (r : ResolvedRecord) : (s.changeOpened i r).Ready q := by
  unfold State.changeOpened
  exact ((x.calm (.leave s _)).stopTimers.engineTo .changing).reengine _ _ rfl

theorem State.Ready.changeCleared (x : s.Ready q) (i : Nat) (r : ResolvedRecord) : (s.changeCleared i r).Ready q :=
  (x.changeOpened i r).endGreens _ (State.losing_nodup _ r) fun _ h => (State.mem_losing.mp h).1

/-- What the gaining groups of a change toward a record find: only groups of the record call for green, and at the entry change only they carry the mark. -/
structure State.Opening (q : Claims) (entry : Bool) (r : ResolvedRecord) (t : State) : Prop extends State.Going q t where
  changing : t.engine.state = .changing
  fit      : t.work.Peaceful r.groups
  inside   : ∀ i : Group, (t.groups[i]).calls = true → r.groups[i] = true
  marks    : entry = true → q.timed → ∀ i : Group, (t.groups[i]).greenMark = true → r.groups[i] = true

theorem State.Opening.gain {entry : Bool} {r : ResolvedRecord} (x : t.Opening q entry r) {g : Group}
    (hr : r.groups[g] = true) (m : t.engine.gaining[g] = true) (p : (t.groups[g]).pendingGreen = false) :
    (t.gain entry g).Opening q entry r := by
  have k := Touches.gain entry g t
  have free : ∀ i : Group, i ≠ g → (t.groups[i]).calls = true → t.work.conflict i g = false ∧ t.work.conflict g i = false :=
    fun i n c => ⟨x.fit i g n (x.inside i c) hr, x.fit g i (Ne.symm n) hr (x.inside i c)⟩
  have outside : entry = true → q.timed → ∀ n (i : Group) (ig off : Nat), i ≠ g → t.work.ig[i][g] = some ig →
      (t.groups[i]).greenMark = true → (t.groups[i]).lastGreenOff = some off → off + 100 * ig ≤ n := by
    intro e c n i ig off ne h mk _
    have := x.fit i g ne (x.marks e c i mk) hr
    unfold Settings.conflict at this
    rw [h] at this
    cases this
  have core : (t.gain entry g).Core q := by
    unfold State.gain
    split
    · next e => split <;> exact x.toCore.setGaining p x.changing m free fun c => outside e c _
    · exact x.toCore.setGaining p x.changing m free fun _ i ig off _ => (t.releaseTime_ge g).2 i ig off
  have kept : ∀ i : Group, r.groups[i] = false → (t.gain entry g).groups[i] = t.groups[i] := fun i n =>
    k.others i fun e => by rw [e, n] at hr; cases hr
  exact
    { core with
      running := by rw [k.mode]; exact x.running
      changing := by rw [k.engine]; exact x.changing
      fit := by rw [k.work]; exact x.fit
      inside := fun i c => by
        by_contra n
        rw [kept i (by simpa using n)] at c
        exact n (x.inside i c)
      marks := fun e c i mk => by
        by_contra n
        rw [kept i (by simpa using n)] at mk
        exact n (x.marks e c i mk) }

theorem State.Opening.gains {entry : Bool} {r : ResolvedRecord} (l : List Group) (nd : l.Nodup) (x : t.Opening q entry r)
    (h : ∀ g ∈ l, r.groups[g] = true ∧ t.engine.gaining[g] = true ∧ (t.groups[g]).pendingGreen = false) :
    (t.each l (State.gain entry)).Opening q entry r := by
  induction l generalizing t with
  | nil => exact x
  | cons a l ih =>
    obtain ⟨na, nd⟩ := List.nodup_cons.mp nd
    have k := Touches.gain entry a t
    obtain ⟨ha, hm, hp⟩ := h a (by simp)
    refine ih nd (x.gain ha hm hp) fun g hg => ?_
    obtain ⟨hr, hm, hp⟩ := h g (by simp [hg])
    rw [k.engine, k.others g fun e => na (e ▸ hg)]
    exact ⟨hr, hm, hp⟩

/-- A stage change begins toward a record that is fit to be shown; at the entry change no group carries the mark. -/
theorem State.Ready.beginChange (x : s.Ready q) {i : Nat} {r : ResolvedRecord} {entry : Bool} (fit : s.work.Peaceful r.groups)
    (h : entry = true → q.timed → ∀ g : Group, (s.groups[g]).greenMark = false) : (s.beginChange i r entry).Going q := by
  rw [s.beginChange_eq]
  obtain ⟨og, ow, -⟩ := s.changeOpened_frame i r
  obtain ⟨en, w, -, -, -, -, mk, -⟩ := State.each_touches (f := fun g t => t.endGreen g) (fun g t => .endGreen t g)
    ((s.changeOpened i r).losing r) (s.changeOpened i r)
    (fun t => ∀ g : Group, (t.groups[g]).greenMark = (s.groups[g]).greenMark) (fun g => by rw [og])
    (fun g _ t p d => (t.endGreen_mark g d).trans (p d)) (State.losing_nodup _ r)
  have en : (s.changeCleared i r).engine = (s.changeOpened i r).engine := en
  have w : (s.changeCleared i r).work = s.work := w.trans ow
  have mk : ∀ g : Group, ((s.changeCleared i r).groups[g]).greenMark = (s.groups[g]).greenMark := mk
  have c := x.changeCleared i r
  have green := fun g => State.changeCleared_green (s := s) (i := i) (r := r) (g := g)
  have st : (s.changeCleared i r).engine.state = .changing := by rw [en]; rfl
  generalize s.changeCleared i r = u at c green mk w en st ⊢
  have hold : (u.holdGaining (u.gainers r)).Ready q := by
    unfold State.holdGaining
    exact c.ofEngine _ rfl
  have open' : (u.holdGaining (u.gainers r)).Opening q entry r :=
    { hold.toGoing with
      changing := by rw [State.holdGaining_state]; exact st
      fit := by rw [State.holdGaining_work, w]; exact fit
      inside := fun i ci => by
        rw [State.holdGaining_groups] at ci
        rcases (GroupRun.calls_iff _).mp ci with g | p
        · exact green i g
        · rw [c.noneWaits i] at p; cases p
      marks := fun e t i m => by
        rw [State.holdGaining_groups, mk i, h e t i] at m
        cases m }
  refine State.Going.calm (open'.gains _ (State.gainers_nodup u r) fun g hg => ⟨(State.mem_gainers.mp hg).1, ?_, ?_⟩).toGoing
    (.mark _)
  · rw [State.holdGaining_gaining]; exact decide_eq_true hg
  · rw [State.holdGaining_groups]; exact c.noneWaits g

end Sys2Proof.Machine

namespace Sys2Proof.Machine

variable {q : Claims} {s t : State}

/-! ### The engine's work in one event (R17, R48 to R64) -/

theorem State.Ready.takeDecision (x : s.Ready q) : s.takeDecision.Going q := by
  have c := Calm.scanPlan s x.running
  have fit := fun i r => State.scanPlan_peaceful x.lawful.voids x.lawful.records x.running (i := i) (r := r)
  unfold State.takeDecision
  split
  · exact x.toGoing
  · split
    · exact x.toGoing
    · generalize s.scanPlan = y at c fit ⊢
      obtain ⟨u, taken⟩ := y
      have k : u.Ready q := x.calm c
      dsimp only at fit ⊢
      split
      · next i r =>
        split
        · exact (k.beginGreen _ _ _).toGoing
        · exact k.beginChange ((fit i r rfl).of_ig c.ig) fun e => (nomatch e)
      · have k := k.stopTimers
        generalize u.stopTimers = v at k ⊢
        split
        · exact ((k.engineTo .resting).ofEngine (v.engineTo .resting).engine.changeOver rfl).mark.toGoing
        · exact (k.calm (.leave v _)).toAllRed.toGoing

theorem State.Ready.enterPlan (x : s.Ready q) (c : PlanCause) : (s.enterPlan c).Going q :=
  State.Going.calm (State.Ready.takeDecision (x.stopTimers.calm (.notify _ _))) (.mark _)

/-- The taking of a PROMPT change, and that the engine is as ready as it was where no plan has been entered. -/
theorem State.Ready.takePrompt (x : s.Ready q) :
    s.takePrompt.1.Going q ∧ (s.takePrompt.2 = false → s.takePrompt.1.Ready q) := by
  obtain e | ⟨c, -, -, h⟩ := s.takePrompt_cases
  · rw [e]; exact ⟨x.toGoing, fun _ => x⟩
  · have a := Calm.takeChange s c x.running
    have b := a.trans (.fallBack _ (a.mode.trans x.running))
    obtain ⟨-, e⟩ | ⟨-, -, e⟩ | ⟨-, -, e⟩ := h <;> rw [e]
    · exact ⟨(x.calm a).enterPlan _, fun h => (nomatch h)⟩
    · exact ⟨(x.calm b).enterPlan _, fun h => (nomatch h)⟩
    · exact ⟨(x.calm b).toGoing, fun _ => x.calm b⟩

theorem State.Going.dropInhibited (x : s.Going q) : s.dropInhibited.Going q ∧ s.dropInhibited.engine = s.engine := by
  refine State.each_induct (P := fun t => t.Going q ∧ t.engine = s.engine) _ s ⟨x, rfl⟩ fun g _ t ⟨h, e⟩ => ?_
  dsimp only
  split
  · exact ⟨h, e⟩
  · have k : (if (t.groups[g]).aspect = .green then t.endGreen g else t).Going q
        ∧ (if (t.groups[g]).aspect = .green then t.endGreen g else t).engine = s.engine := by
      split
      · next c => exact ⟨⟨h.endGreen c, by rw [(Touches.endGreen t g).mode]; exact h.running⟩, (Touches.endGreen t g).engine.trans e⟩
      · exact ⟨h, e⟩
    generalize (if (t.groups[g]).aspect = .green then t.endGreen g else t) = u at k ⊢
    split
    · exact ⟨⟨k.1.dropGaining, k.1.running⟩, (Touches.dropGaining u g).engine.trans k.2⟩
    · exact k

/-- With no group that waits for its green the engine is ready for the end of its change. -/
theorem State.Going.ready_of_anyGaining (x : s.Going q) (h : s.anyGaining = false) : s.Ready q where
  toGoing := x
  noneWaits := fun g => by
    by_contra n
    unfold State.anyGaining at h
    rw [List.any_eq_false] at h
    exact h (s.groups[g]) (by simp) (by simpa using n)

theorem State.Going.workChanging (x : s.Going q) : s.workChanging.Going q := by
  unfold State.workChanging
  split
  · exact x
  · next n =>
    have r := x.ready_of_anyGaining (by simpa using n)
    split
    · split
      · exact (r.beginGreen _ _ _).toGoing
      · exact x
    · exact r.toAllRed.takeDecision

theorem Calm.startMaximum (s : State) : Calm s s.startMaximum := by
  unfold State.startMaximum
  split
  · exact .ite {} (.refl s)
  · exact .refl s

theorem State.Ready.workGreen (x : s.Ready q) (b : Bool) : (s.workGreen b).Going q := by
  have rest : ∀ t : State, t.Ready q → State.Going q (match t.engine.plan with
      | none => t
      | some p =>
        if p.kind = .fixed then (if t.engine.greenTimer.isNone then t.stopTimers.takeDecision else t)
        else
          let s := t.startMaximum
          if s.engine.greenTimer.isNone && (s.ev.maxOut || (s.engine.gapped && s.opposing)) then
            s.stopTimers.takeDecision
          else s) := by
    intro t r
    split
    · exact r.toGoing
    · split
      · split
        · exact r.stopTimers.takeDecision
        · exact r.toGoing
      · have m := r.calm (.startMaximum t)
        dsimp only
        split
        · exact m.stopTimers.takeDecision
        · exact m.toGoing
  unfold State.workGreen
  split
  · exact x.stopTimers.takeDecision
  · have h : State.Going q (if s.engine.greenTimer.isNone then s.takePrompt else (s, false)).1
        ∧ ((if s.engine.greenTimer.isNone then s.takePrompt else (s, false)).2 = false →
          State.Ready q (if s.engine.greenTimer.isNone then s.takePrompt else (s, false)).1) := by
      split
      · exact x.takePrompt
      · exact ⟨x.toGoing, fun _ => x⟩
    generalize (if s.engine.greenTimer.isNone then s.takePrompt else (s, false)) = y at h ⊢
    obtain ⟨u, taken⟩ := y
    obtain ⟨core, ready⟩ := h
    dsimp only at core ready ⊢
    split
    · exact core
    · next n => exact rest u (ready (by simpa using n))

theorem State.Ready.workIdle (x : s.Ready q) (b : Bool) : (s.workIdle b).Going q := by
  have h : Calm s { s with ev := { s.ev with occasion := false } } := {}
  have prompt : ∀ t : State, t.Going q →
      (if t.engine.state = .resting ∨ t.engine.state = .allRed then t.takePrompt.1 else t).Going q := by
    intro t c
    split
    · next e =>
      refine (State.Ready.takePrompt (c.ready ?_ c.running)).1
      rcases e with e | e <;> rw [e] <;> decide
    · exact c
  have go : ∀ (t : State) (g : Bool), t.Ready q → (if g then t.takeDecision else t).Going q := by
    intro t g r
    split
    · exact r.takeDecision
    · exact r.toGoing
  exact prompt _ (go _ _ (x.calm h))

/-- The work of the engine; in OFF it does nothing. -/
theorem State.Core.engineWork (x : s.Core q) :
    s.engineWork.Core q ∧ (s.engineWork = s ∨ s.engineWork.mode.mode = .running) := by
  unfold State.engineWork
  split
  · exact ⟨x, .inl rfl⟩
  · next off =>
    obtain ⟨d, e⟩ := State.Going.dropInhibited ⟨x, x.lawful.running off⟩
    have going : ∀ u : State, u.Going q → u.Core q ∧ (u = s ∨ u.mode.mode = .running) :=
      fun u h => ⟨h.toCore, .inr h.running⟩
    dsimp only
    generalize s.dropInhibited = u at d e ⊢
    refine going _ ?_
    split
    · exact d
    · exact d.workChanging
    · next e => exact State.Ready.workGreen (d.ready (by rw [e]; decide) d.running) _
    · next e => exact State.Ready.workIdle (d.ready (by rw [e]; decide) d.running) _
    · next e => exact State.Ready.workIdle (d.ready (by rw [e]; decide) d.running) _

/-! ### Leaving RUNNING (R62) -/

/-- The engine stands in OFF without a plan, and is not barred. -/
def State.EngineOff (s : State) : Prop := s.engine.state = .off ∧ s.engine.plan = none ∧ s.engine.barred = false

/-- The engine leaves RUNNING: no group waits for its green any more. -/
theorem State.Core.leaveRunning (x : s.Core q) (m : s.mode.mode = .running) :
    s.leaveRunning.Ready q ∧ s.leaveRunning.EngineOff := by
  unfold State.leaveRunning
  dsimp only
  have y : State.Core q (if s.engine.inForce = 0 then s
      else { s with ev := { s.ev with leftForce := s.ev.leftForce ++ [s.engine.inForce] } }) := x.calm (.leave s _)
  have my := (Calm.leave s s.engine.inForce).mode.trans m
  generalize (if s.engine.inForce = 0 then s
      else { s with ev := { s.ev with leftForce := s.ev.leftForce ++ [s.engine.inForce] } }) = u at y my ⊢
  obtain ⟨-, -, -, -, mode, -, core, k⟩ := State.each_touches (f := fun g t => t.dropGaining g)
    (fun g t => .dropGaining t g) (allGroups.filter fun g => (u.groups[g]).pendingGreen) u (fun t => t.Core q) y
    (fun _ _ _ h => h.dropGaining) (allGroups_nodup.filter _)
  have waits : ∀ g : Group, ((u.each (allGroups.filter fun g => (u.groups[g]).pendingGreen) fun g t =>
      t.dropGaining g).groups[g]).pendingGreen = false := by
    intro g
    by_cases p : (u.groups[g]).pendingGreen = true
    · obtain ⟨v, -, -, -, -, -, -, e⟩ := (k g).2 (List.mem_filter.mpr ⟨mem_allGroups g, p⟩)
      rw [e]
      unfold State.dropGaining
      rw [State.mark_groups, v.updGroup_get_same]
    · rw [(k g).1 fun h => p (List.mem_filter.mp h).2]
      simpa using p
  generalize (u.each (allGroups.filter fun g => (u.groups[g]).pendingGreen) fun g t => t.dropGaining g) = v
    at mode core waits ⊢
  have r : v.Ready q := ⟨⟨core, by rw [mode]; exact my⟩, waits⟩
  have r := (r.stopTimers.engineTo .off)
  refine ⟨State.Ready.mark ?_, rfl, rfl, rfl⟩
  exact
    { lawful :=
        { peaceful := r.lawful.peaceful
          records := fun _ h => (nomatch h)
          voids := r.lawful.voids
          gaining := fun g a => absurd a (Bool.eq_false_iff.mp (r.noneWaits g))
          redAmber := r.lawful.redAmber
          engine := fun _ => ⟨rfl, rfl, rfl⟩
          commit := r.lawful.commit
          write := r.lawful.write
          start := r.lawful.start }
      spaced := fun c => ⟨⟨(r.spaced c).1.release, (r.spaced c).1.redAmber, (r.spaced c).1.redAmberAspect,
        (r.spaced c).1.amber, (r.spaced c).1.marked⟩, (r.spaced c).2⟩
      running := r.running
      noneWaits := r.noneWaits }

end Sys2Proof.Machine

namespace Sys2Proof.Machine

variable {q : Claims} {s t : State}

/-! ### The entry of a mode that sets the aspects (R9, R20) -/

/-- What a state must be for the aspects of a mode to be set in it: the engine is OFF, and what the laws ask of jobs, writes and the bring-up holds of the mode. -/
structure State.Parked (q : Claims) (s : State) : Prop where
  off    : s.EngineOff
  marked : q.timed → ∀ g : Group, (s.groups[g]).greenMark = true →
    (s.groups[g]).aspect = .green ∨ (s.groups[g]).lastGreenOff ≠ none
  commit : s.hasJob .commitConfig = true →
    s.mode.mode = .unconfigured ∨ s.mode.mode = .standby ∨ s.mode.mode = .failsafe
  write  : ∀ w, s.store.writing = some w → w.forCommit = true → w.image = .config → s.hasJob .commitConfig = true
  start  : s.power.phase ≠ .running → s.mode.mode = .unconfigured ∧ s.hasJob .commitConfig = false ∧ s.link.queue = []
  mode   : s.mode.mode ≠ .running ∧ s.mode.mode ≠ .shutdown

/-- A parked state in which no group is GREEN or waits for it, and no group's timer runs. -/
structure State.AtRest (q : Claims) (s : State) : Prop extends State.Parked q s where
  groups : ∀ g : Group, (s.groups[g]).aspect ≠ .green ∧ (s.groups[g]).pendingGreen = false
    ∧ (s.groups[g]).redAmberTimer = none ∧ (s.groups[g]).amberTimer = none

theorem State.Parked.calm (x : s.Parked q) (h : Calm s t) : t.Parked q where
  off := ⟨h.state.trans x.off.1, h.plan x.mode.1 x.off.2.1, h.barred.trans x.off.2.2⟩
  marked := fun c g m => by
    obtain ⟨a, -, -, -, -, l, mk⟩ := h.groupFields g
    rw [mk] at m
    rw [a, l]; exact x.marked c g m
  commit := fun j => by rw [h.mode]; exact x.commit (h.job j)
  write := fun w e c i => by
    obtain ⟨e', j⟩ := h.write w e
    rw [j]; exact x.write w e' c i
  start := fun p => by
    rw [h.phase] at p
    obtain ⟨a, b, c⟩ := x.start p
    exact ⟨h.mode.trans a, Bool.eq_false_iff.mpr fun j => Bool.eq_false_iff.mp b (h.job j), h.queue p c⟩
  mode := by rw [h.mode]; exact x.mode

theorem State.AtRest.calm (x : s.AtRest q) (h : Calm s t) : t.AtRest q where
  toParked := x.toParked.calm h
  groups := fun g => by
    obtain ⟨a, p, am, ra, -⟩ := h.groupFields g
    rw [a, p, am, ra]; exact x.groups g

/-- A state at rest whose stages are fit keeps the laws that no mode gives. -/
theorem State.AtRest.core (x : s.AtRest q) (v : s.VoidsSet) : s.Core q where
  lawful :=
    { peaceful := fun i _ _ a => by
        obtain ⟨g, p, -⟩ := x.groups i
        rcases (GroupRun.calls_iff _).mp a with a | a
        · exact (g a).elim
        · rw [p] at a; cases a
      records := fun p h => by rw [x.off.2.1] at h; cases h
      voids := v
      gaining := fun g a => by rw [(x.groups g).2.1] at a; cases a
      redAmber := fun g a => (a (x.groups g).2.2.1).elim
      engine := fun _ => x.off
      commit := x.commit
      write := x.write
      start := x.start }
  spaced := fun c =>
    ⟨{ release := fun j a => by rw [(x.groups j).2.1] at a; cases a
       redAmber := fun j e a => by rw [(x.groups j).2.2.1] at a; cases a
       redAmberAspect := fun g a => (a (x.groups g).2.2.1).elim
       amber := fun g a => (a (x.groups g).2.2.2).elim
       marked := x.marked c },
     fun _ j _ _ _ a => ((x.groups j).1 a).elim⟩

/-- New records of the groups, none of them GREEN or waiting for it, in a parked state. -/
theorem State.Parked.ofGroups (x : s.Parked q) (v : Vector GroupRun 16) (e : Ev)
    (marked : q.timed → ∀ g : Group, (v[g]).greenMark = true → (v[g]).lastGreenOff ≠ none)
    (rest : ∀ g : Group, (v[g]).aspect ≠ .green ∧ (v[g]).pendingGreen = false ∧ (v[g]).redAmberTimer = none
      ∧ (v[g]).amberTimer = none) : State.AtRest q { s with groups := v, ev := e } where
  off := x.off
  marked := fun c g m => .inr (marked c g m)
  commit := x.commit
  write := x.write
  start := x.start
  mode := x.mode
  groups := rest

/-- The setting of the aspects of a mode (R9). -/
theorem State.Parked.setAspects (x : s.Parked q) : s.setAspects.AtRest q := by
  have get : ∀ g : Group, ∃ a, s.groupsByMode[g] = (s.groups[g]).setByMode a s.now ∧ a ≠ .green := by
    intro g
    obtain ⟨a, e⟩ := modeAspect_some s.mode.mode s.work.junction.standbyDisplay s.mode.style s.work.groups[g].type
      x.mode.1 x.mode.2
    refine ⟨a, ?_, fun n => modeAspect_ne_green _ _ _ _ (n ▸ e)⟩
    rw [← State.setAspects_groups, s.setAspects_get g, e]
  refine x.ofGroups s.groupsByMode _ (fun c g m => ?_) fun g => ?_
  · obtain ⟨a, e, na⟩ := get g
    rw [e] at m ⊢
    show (if (s.groups[g]).aspect = .green then some s.now else (s.groups[g]).lastGreenOff) ≠ none
    split
    · simp
    · next n => exact (x.marked c g m).resolve_left n
  · obtain ⟨a, e, na⟩ := get g
    rw [e]
    exact ⟨na, rfl, rfl, rfl⟩

theorem State.clearGreens_get (s : State) (g : Group) :
    s.clearGreens.groups[g] = { s.groups[g] with greenMark := false, lastGreenOff := none } := by
  rw [State.clearGreens_groups, map_get]

theorem State.AtRest.clearGreens (x : s.AtRest q) : s.clearGreens.AtRest q where
  off := x.off
  marked := fun _ g m => by rw [s.clearGreens_get] at m; cases m
  commit := x.commit
  write := x.write
  start := x.start
  mode := x.mode
  groups := fun g => by rw [s.clearGreens_get]; exact x.groups g

theorem State.ByMode.clearGreens (x : s.ByMode) : s.clearGreens.ByMode := fun a b g => by
  rw [s.clearGreens_get]
  exact x a b g

/-- The mode controller enters a mode: the engine has left RUNNING, and the mode is in force with its timer (R166; log 61). -/
def State.modeSet (s : State) (m : Mode) : State :=
  let s := if s.mode.mode = .running then s.leaveRunning else s
  { s with mode := { s.mode with mode := m, timer := s.entryTimer m, target := none, darkMark := false } }

/-- The commands and resets at the entry of a mode. -/
def State.modeCommanded (s : State) (m : Mode) : State :=
  let s := s.modeSet m
  let s := if m = .failsafe ∨ m = .mainsOut then s.releaseAll else s
  let s := if m = .startFlash then s.resetFailed else s
  s.supplyCommands

/-- The aspects of a mode are set at its entry, and at the entry of START_RED the green marks are cleared. -/
def State.modePosted (s : State) (m : Mode) : State :=
  if m = .startRed then (s.modeCommanded m).setAspects.clearGreens else (s.modeCommanded m).setAspects

/-- The notice of a mode's entry, the adoption of a pending set and the end of a LEARN job. -/
def State.modeReported (s : State) (old m : Mode) : State :=
  let s := s.modeChanged old
  let s := if m = .unconfigured ∨ m = .standby ∨ m = .failsafe then s.adoptPending else s
  (if learnEnds m none then s.learnEnd .abandoned else s).mark

theorem State.enterMode_eq (s : State) (m : Mode) : s.enterMode m = (s.modePosted m).modeReported s.mode.mode m := by
  unfold State.enterMode State.modePosted State.modeReported State.modeCommanded State.modeSet
  rfl

theorem Calm.modeCommanded (s : State) (m : Mode) : Calm (s.modeSet m) (s.modeCommanded m) := by
  have release : ∀ t : State, Calm t (if m = .failsafe ∨ m = .mainsOut then t.releaseAll else t) :=
    fun t => .ite (Quiet.releaseAll t).calm (.refl t)
  have reset : ∀ t : State, Calm t (if m = .startFlash then t.resetFailed else t) :=
    fun t => .ite (Quiet.resetFailed t).calm (.refl t)
  exact .of (Quiet.supplyCommands _).calm <| .of (reset _) (release _)

theorem Calm.modeReported (s : State) (old m : Mode) : Calm s (s.modeReported old m) := by
  have adopt : ∀ t : State, Calm t (if m = .unconfigured ∨ m = .standby ∨ m = .failsafe then t.adoptPending else t) :=
    fun t => .ite (.adoptPending t) (.refl t)
  have learn : ∀ t : State, Calm t (if learnEnds m none then t.learnEnd .abandoned else t) :=
    fun t => .ite (Quiet.learnEnd t _).calm (.refl t)
  exact .of (.mark _) <| .of (learn _) <| .of (adopt _) (.notify s _)

/-- A mode that sets the aspects may be entered: power is up, and a COMMIT_CONFIG under way goes with the mode. -/
structure State.MayEnter (s : State) (m : Mode) : Prop where
  phase : s.power.phase = .running
  job   : s.hasJob .commitConfig = true → m = .unconfigured ∨ m = .standby ∨ m = .failsafe
  mode  : m ≠ .running ∧ m ≠ .shutdown

theorem State.Core.modeSet {m : Mode} (x : s.Core q) (h : s.MayEnter m) : (s.modeSet m).Parked q ∧ (s.modeSet m).VoidsSet := by
  obtain ⟨phase, job, mode⟩ := h
  have set : ∀ u : State, u.Core q → u.EngineOff → Kept s u → ∀ c : ModeCtl, c.mode = m →
      State.Parked q { u with mode := c } ∧ State.VoidsSet { u with mode := c } := by
    intro u core off kept c hc
    subst hc
    exact
      ⟨{ off := off
         marked := fun c => (core.spaced c).1.marked
         commit := fun k => job (kept.hasConfigJob ▸ k)
         write := core.lawful.write
         start := fun p => (p (show u.power.phase = .running by rw [kept.power]; exact phase)).elim
         mode := mode },
       core.lawful.voids⟩
  have left : State.Core q (if s.mode.mode = .running then s.leaveRunning else s)
      ∧ (if s.mode.mode = .running then s.leaveRunning else s).EngineOff
      ∧ Kept s (if s.mode.mode = .running then s.leaveRunning else s) := by
    split
    · next r =>
      obtain ⟨ready, off⟩ := x.leaveRunning r
      exact ⟨ready.toCore, off, .leaveRunning s⟩
    · next r => exact ⟨x, x.lawful.engine r, .refl s⟩
  unfold State.modeSet
  dsimp only
  generalize (if s.mode.mode = .running then s.leaveRunning else s) = u at left ⊢
  exact set u left.1 left.2.1 left.2.2 _ rfl

theorem State.VoidsSet.of_eq (v : s.VoidsSet) (i : t.inUse = s.inUse) (w : t.work = s.work) : t.VoidsSet := by
  unfold State.VoidsSet
  rw [i, w]
  exact v

/-- The entry of a mode that sets the aspects gives all the laws. -/
theorem State.Core.enterMode {m : Mode} (x : s.Core q) (h : s.MayEnter m) : (s.enterMode m).Safe q := by
  obtain ⟨p, v⟩ := x.modeSet h
  have c := Calm.modeCommanded s m
  have p := p.calm c
  have v := c.voids v
  have mode : (s.modeCommanded m).mode.mode = m := c.mode
  have va : (s.modeCommanded m).setAspects.VoidsSet := v.of_eq (State.setAspects_inUse _) (State.setAspects_work _)
  have vc : (s.modeCommanded m).setAspects.clearGreens.VoidsSet :=
    va.of_eq (State.clearGreens_inUse _) (State.clearGreens_work _)
  have posted : (s.modePosted m).Safe q := by
    unfold State.modePosted
    split
    · next e =>
      exact { p.setAspects.clearGreens.core vc with
        startRed := fun _ _ i => by rw [State.clearGreens_get]
        byMode := fun _ => (State.byMode_setAspects _).clearGreens }
    · next e =>
      exact { p.setAspects.core va with
        startRed := fun _ n => (e (mode.symm.trans n)).elim
        byMode := fun _ => State.byMode_setAspects _ }
  rw [s.enterMode_eq]
  exact posted.calm (.modeReported _ _ _)

end Sys2Proof.Machine

namespace Sys2Proof.Machine

variable {q : Claims} {s t : State}

/-! ### The mode controller (R167 to R170) -/

/-- Outside UNCONFIGURED the start event has been. -/
theorem State.Lawful.phase_running (x : s.Lawful) (h : s.mode.mode ≠ .unconfigured) : s.power.phase = .running := by
  by_contra n
  exact h (x.start n).1

/-- Outside UNCONFIGURED, STANDBY and FAILSAFE no COMMIT_CONFIG is under way. -/
theorem State.Lawful.no_commit (x : s.Lawful)
    (h : ¬ (s.mode.mode = .unconfigured ∨ s.mode.mode = .standby ∨ s.mode.mode = .failsafe)) :
    s.hasJob .commitConfig = false := by
  by_contra n
  exact h (x.commit (by simpa using n))

theorem State.Lawful.mayEnter (x : s.Lawful) {m : Mode} (h : s.mode.mode ≠ .unconfigured)
    (j : s.hasJob .commitConfig = false) (m1 : m ≠ .running) (m2 : m ≠ .shutdown) : s.MayEnter m :=
  ⟨x.phase_running h, fun k => (Bool.eq_false_iff.mp j k).elim, m1, m2⟩

/-- Other values of the mode controller in the mode in force. -/
theorem State.Core.ofMode (x : s.Core q) (c : ModeCtl) (h : c.mode = s.mode.mode) : State.Core q { s with mode := c } where
  lawful :=
    { peaceful := x.lawful.peaceful
      records := x.lawful.records
      voids := x.lawful.voids
      gaining := x.lawful.gaining
      redAmber := x.lawful.redAmber
      engine := fun m => x.lawful.engine (h ▸ m)
      commit := fun j => by
        show c.mode = _ ∨ _
        rw [h]; exact x.lawful.commit j
      write := x.lawful.write
      start := fun p => by
        show c.mode = _ ∧ _
        rw [h]; exact x.lawful.start p }
  spaced := fun c => ⟨⟨(x.spaced c).1.release, (x.spaced c).1.redAmber, (x.spaced c).1.redAmberAspect,
    (x.spaced c).1.amber, (x.spaced c).1.marked⟩, (x.spaced c).2⟩

/-- A mode that sets the aspects sets them anew. -/
theorem State.Core.parked (x : s.Core q) (h : s.mode.mode ≠ .running) (k : s.mode.mode ≠ .shutdown) : s.Parked q where
  off := x.lawful.engine h
  marked := fun c => (x.spaced c).1.marked
  commit := x.lawful.commit
  write := x.lawful.write
  start := x.lawful.start
  mode := ⟨h, k⟩

theorem State.Core.setAspects (x : s.Core q) (h : s.mode.mode ≠ .running) (k : s.mode.mode ≠ .shutdown)
    (r : s.mode.mode ≠ .startRed) : s.setAspects.Safe q :=
  { (x.parked h k).setAspects.core (x.lawful.voids.of_eq (State.setAspects_inUse s) (State.setAspects_work s)) with
    startRed := fun _ m => (r (by rw [State.setAspects_mode] at m; exact m)).elim
    byMode := fun _ => s.byMode_setAspects }

theorem Calm.failsafeEntry (s : State) : Calm s s.failsafeEntry := (Quiet.observe s _).calm

theorem State.Safe.enterFailsafe (x : s.Safe q) (c : Cause) (dark : Bool) : (s.enterFailsafe c dark).Safe q := by
  have enter : s.mode.mode ≠ .unconfigured → ∀ c : ModeCtl, c.mode = s.mode.mode →
      State.Safe q (State.enterMode { s with mode := c } .failsafe) := fun n c h =>
    State.Core.enterMode (x.toCore.ofMode c h)
      ⟨x.lawful.phase_running n, fun _ => .inr (.inr rfl), by decide, by decide⟩
  have darken : ∀ u : State, u.Core q → u.mode.mode = .failsafe → ∀ c : ModeCtl, c.mode = .failsafe →
      State.Safe q (State.setAspects { u with mode := c }).smcOpen.mark := fun u y m c h =>
    (State.Core.setAspects (y.ofMode c (h.trans m.symm)) (by rw [h]; decide) (by rw [h]; decide)
      (by rw [h]; decide)).calm (.of (.mark _) (Quiet.smcOpen _).calm)
  unfold State.enterFailsafe
  split
  · exact x
  · next n =>
    split
    · next m =>
      have y := x.calm (.failsafeEntry s)
      have m := (Calm.failsafeEntry s).mode.trans m
      dsimp only
      split
      · exact darken _ y.toCore m _ m
      · exact y
    · refine State.Safe.calm ?_ (.failsafeEntry _)
      exact enter n _ rfl

theorem State.Safe.enterStartFlash (x : s.Safe q) (h : s.mode.mode ≠ .unconfigured)
    (j : s.hasJob .commitConfig = false) : s.enterStartFlash.Safe q := by
  unfold State.enterStartFlash
  split
  · exact x.enterFailsafe _ _
  · exact x.toCore.enterMode (x.lawful.mayEnter h j (by decide) (by decide))

/-- The engine leaves RUNNING for SHUTDOWN, in which every green ends (R62, R168). -/
theorem State.Core.enterShutdown (x : s.Core q) (h : s.mode.mode = .running) (target : Target) (dark : Bool) :
    (s.enterShutdown target dark).Safe q := by
  have job : s.hasJob .commitConfig = false := x.lawful.no_commit (by rw [h]; decide)
  obtain ⟨ready, off⟩ := x.leaveRunning h
  have kept : Kept s s.leaveRunning.endGreens := .of (.endGreens _) (.leaveRunning s)
  have ended : s.leaveRunning.endGreens.Core q ∧ s.leaveRunning.endGreens.engine = s.leaveRunning.engine :=
    State.each_induct (P := fun t => t.Core q ∧ t.engine = s.leaveRunning.engine) _ _ ⟨ready.toCore, rfl⟩
      fun g _ t ⟨a, b⟩ => by
        split
        · next c => exact ⟨a.endGreen c, (Touches.endGreen t g).engine.trans b⟩
        · exact ⟨a, b⟩
  have power : s.leaveRunning.endGreens.power.phase = .running := by
    rw [kept.power]; exact x.lawful.phase_running (by rw [h]; decide)
  have noJob : s.leaveRunning.endGreens.hasJob .commitConfig = false := kept.hasConfigJob.trans job
  have learn : ∀ u : State, Calm u (if learnEnds .shutdown (some target) then u.learnEnd .abandoned else u) :=
    fun u => .ite (Quiet.learnEnd u _).calm (.refl u)
  unfold State.EngineOff at off
  rw [← ended.2] at off
  have set : ∀ u : State, u.Core q → u.EngineOff → u.hasJob .commitConfig = false → u.power.phase = .running →
      ∀ c : ModeCtl, c.mode = .shutdown → State.Safe q { u with mode := c } := by
    intro u y off j p c hc
    refine State.Core.safe ?_ (.inr hc)
    exact
      { lawful :=
          { peaceful := y.lawful.peaceful
            records := y.lawful.records
            voids := y.lawful.voids
            gaining := y.lawful.gaining
            redAmber := y.lawful.redAmber
            engine := fun _ => off
            commit := fun k => absurd k (Bool.eq_false_iff.mp j)
            write := y.lawful.write
            start := fun n => (n p).elim }
        spaced := fun c => ⟨⟨(y.spaced c).1.release, (y.spaced c).1.redAmber, (y.spaced c).1.redAmberAspect,
          (y.spaced c).1.amber, (y.spaced c).1.marked⟩, (y.spaced c).2⟩ }
  unfold State.enterShutdown
  exact (set _ ended.1 off noJob power _ rfl).calm <|
    .of (.mark _) <| .of (learn _) <| .of (.notify _ _) (Quiet.supplyCommands _).calm

/-- No group carries the mark. -/
def State.Unmarked (s : State) : Prop := ∀ g : Group, (s.groups[g]).greenMark = false

theorem State.Unmarked.calm (x : s.Unmarked) (h : Calm s t) : t.Unmarked := fun g => by
  obtain ⟨-, -, -, -, -, -, m⟩ := h.groupFields g
  rw [m]; exact x g

/-- The entry change (R61): a gaining group has no other group's green behind it since START_RED. -/
theorem State.Ready.entryChange (x : s.Ready q) (h : q.timed → s.Unmarked) :
    s.entryChange.Going q := by
  have c := Calm.scanPlan s x.running
  have fit := fun i r => State.scanPlan_peaceful x.lawful.voids x.lawful.records x.running (i := i) (r := r)
  unfold State.entryChange
  split
  · exact x.toGoing
  · next p hp =>
    split
    · next r hr =>
      split
      · exact x.beginChange (x.lawful.records p hp r (List.mem_of_getElem? hr)) fun _ => h
      · generalize s.scanPlan = y at c fit ⊢
        obtain ⟨u, taken⟩ := y
        dsimp only at c fit ⊢
        split
        · next i r =>
          exact (x.calm c).beginChange ((fit i r rfl).of_ig c.ig) fun _ t => (h t).calm c
        · exact ((x.calm c).mark).toGoing
    · exact x.toGoing

/-- The engine of a state stands in ALL_RED with the all-red stage, a pending set adopted (R61 steps 1 and 2). -/
def State.engineOpened (s : State) : State :=
  let s := s.adoptPending.engineTo .allRed
  { s with engine := { s.engine with stage := some 0, record := none } }

/-- The reference with which the engine begins is translated, else the base reference, and the plan entered; where both fail the engine is barred (R61 steps 2 to 5). -/
def State.planEntered (s : State) (ref : PlanRef) : State :=
  let a := s.translateFor ref
  let b := a.1.translateFor baseRef
  if a.2 then (a.1.planChanged .entry none).entryChange
  else if b.2 then (b.1.planChanged .baseFallback none).entryChange
  else b.1.bar

/-- A time-of-day result of FLASH is passed to the mode controller at the entry to RUNNING. -/
def State.flashAsked (s : State) : State :=
  match s.engine.source, s.clock.valid, s.engine.tableAction with
  | .timeTable, true, .flash => s.ask .flash
  | _, _, _ => s

theorem State.enterRunning_eq (s : State) :
    s.enterRunning = (s.engineOpened.planEntered s.adoptPending.entryRef).flashAsked := by
  unfold State.enterRunning State.planEntered State.engineOpened
  dsimp only
  generalize { s.adoptPending.engineTo .allRed with
      engine := { (s.adoptPending.engineTo .allRed).engine with stage := some 0, record := none } } = t
  generalize t.translateFor s.adoptPending.entryRef = a
  obtain ⟨u, done⟩ := a
  cases done
  · generalize u.translateFor baseRef = b
    obtain ⟨v, done⟩ := b
    cases done
    · simp only [Bool.false_eq_true, if_false]
      rfl
    · simp only [Bool.false_eq_true, if_false, if_true]
      rfl
  · simp only [if_true]
    rfl

theorem Calm.flashAsked (s : State) : Calm s s.flashAsked := by
  unfold State.flashAsked
  split
  · exact .ask s _
  · exact .refl s

theorem State.Ready.planEntered (x : s.Ready q) (h : q.timed → s.Unmarked) (ref : PlanRef) :
    (s.planEntered ref).Going q := by
  have a := Calm.translateFor s ref x.running
  have b := a.trans (.translateFor _ baseRef (a.mode.trans x.running))
  have enter : ∀ t : State, Calm s t → ∀ c, (t.planChanged c none).entryChange.Going q := fun t k c =>
    have k := k.trans (.notify t _)
    (x.calm k).entryChange fun d => (h d).calm k
  unfold State.planEntered
  dsimp only
  split
  · exact enter _ a _
  · split
    · exact enter _ b _
    · exact ((x.calm b).ofEngine { (((s.translateFor ref).1.translateFor baseRef).1).engine with barred := true } rfl).mark.toGoing

theorem State.Ready.enterRunning (x : s.Ready q) (h : q.timed → s.Unmarked) : s.enterRunning.Going q := by
  have a := Calm.adoptPending s
  have y : s.engineOpened.Ready q := ((x.calm a).engineTo .allRed).ofEngine _ rfl
  have k : q.timed → s.engineOpened.Unmarked := fun c => ((h c).calm a : s.adoptPending.Unmarked)
  rw [s.enterRunning_eq]
  exact (y.planEntered k _).calm (.flashAsked _)

end Sys2Proof.Machine

namespace Sys2Proof.Machine

variable {q : Claims} {s t : State}

/-! ### The mode timers (R167, R168) -/

/-- The mode controller goes to RUNNING (R61, R167). -/
def State.runningSet (s : State) : State :=
  { s with mode := { s.mode with mode := .running, timer := none, target := none, darkMark := false } }

theorem State.goRunning_eq (s : State) :
    s.goRunning = ((s.runningSet.supplyCommands.modeChanged s.mode.mode).enterRunning).mark := rfl

/-- START_RED is left for RUNNING: no group carries the mark. -/
theorem State.Safe.goRunning (x : s.Safe q) (h : s.mode.mode = .startRed) : s.goRunning.Safe q := by
  have n : s.mode.mode ≠ .running := by rw [h]; decide
  have job : s.hasJob .commitConfig = false := x.lawful.no_commit (by rw [h]; decide)
  have phase := x.lawful.phase_running (by rw [h]; decide)
  obtain ⟨off, plan, -⟩ := x.lawful.engine n
  have waits := x.lawful.none_pending (by rw [off]; decide)
  have r : s.runningSet.Ready q :=
    { lawful :=
        { peaceful := x.lawful.peaceful
          records := x.lawful.records
          voids := x.lawful.voids
          gaining := x.lawful.gaining
          redAmber := x.lawful.redAmber
          engine := fun m => (m rfl).elim
          commit := fun k => absurd k (Bool.eq_false_iff.mp job)
          write := x.lawful.write
          start := fun p => (p phase).elim }
      spaced := fun c => ⟨⟨(x.spaced c).1.release, (x.spaced c).1.redAmber, (x.spaced c).1.redAmberAspect,
        (x.spaced c).1.amber, (x.spaced c).1.marked⟩, (x.spaced c).2⟩
      running := rfl
      noneWaits := waits }
  have k : q.timed → s.runningSet.Unmarked := fun c => x.startRed c h
  have c : Calm s.runningSet (s.runningSet.supplyCommands.modeChanged s.mode.mode) :=
    .of (.notify _ _) (Quiet.supplyCommands _).calm
  have g := ((r.calm c).enterRunning fun d => (k d).calm c).calm (.mark _)
  rw [s.goRunning_eq]
  exact g.toCore.safe (.inl g.running)

/-- A mode that sets the aspects is entered from a mode in which no COMMIT_CONFIG is under way. -/
theorem State.Safe.enterModeFrom (x : s.Safe q) {m : Mode}
    (h : ¬ (s.mode.mode = .unconfigured ∨ s.mode.mode = .standby ∨ s.mode.mode = .failsafe))
    (m1 : m ≠ .running) (m2 : m ≠ .shutdown) : (s.enterMode m).Safe q :=
  x.toCore.enterMode (x.lawful.mayEnter (fun u => h (.inl u)) (x.lawful.no_commit h) m1 m2)

theorem State.Safe.startFlashExpiry (x : s.Safe q) (h : s.mode.mode = .startFlash) : s.startFlashExpiry.Safe q := by
  unfold State.startFlashExpiry
  split
  · exact x.enterModeFrom (by rw [h]; decide) (by decide) (by decide)
  · exact x.enterFailsafe _ _

theorem State.Safe.startRedExpiry (x : s.Safe q) (h : s.mode.mode = .startRed) : s.startRedExpiry.Safe q := by
  unfold State.startRedExpiry
  split
  · exact x.goRunning h
  · exact x.enterFailsafe _ _

theorem State.Safe.endRedExpiry (x : s.Safe q) (h : s.mode.mode = .shutdown) : s.endRedExpiry.Safe q := by
  have n : ¬ (s.mode.mode = .unconfigured ∨ s.mode.mode = .standby ∨ s.mode.mode = .failsafe) := by rw [h]; decide
  have flash : State.Safe q (if s.engine.source = .linkOverride ∨ (s.clock.valid = true ∧ s.engine.tableAction ≠ .flash) then
      s.enterMode .startRed else s.enterMode .partFlash) := by
    split
    · exact x.enterModeFrom n (by decide) (by decide)
    · exact x.enterModeFrom n (by decide) (by decide)
  unfold State.endRedExpiry
  split
  · exact x.enterModeFrom n (by decide) (by decide)
  · exact x.enterFailsafe _ _
  · exact flash
  · exact flash

theorem State.Safe.modeLoss (x : s.Safe q) : s.modeLoss.Safe q := by
  have out : ∀ r, ¬ (s.mode.mode = .unconfigured ∨ s.mode.mode = .standby ∨ s.mode.mode = .failsafe) →
      State.Safe q (State.enterMode { s with mode := { s.mode with returnMode := r } } .mainsOut) := fun r n =>
    State.Core.enterMode (x.toCore.calm (t := { s with mode := { s.mode with returnMode := r } }) {})
      ⟨x.lawful.phase_running fun u => n (.inl u), fun k => absurd k (Bool.eq_false_iff.mp (x.lawful.no_commit n)),
        by decide, by decide⟩
  unfold State.modeLoss
  dsimp only
  split
  · exact x.enterFailsafe _ _
  · exact out .standby (by simp_all)
  · exact out .startFlash (by simp_all)
  · exact out .startFlash (by simp_all)
  · exact out .startFlash (by simp_all)
  · exact out .startFlash (by simp_all)
  · exact out .startFlash (by simp_all)
  · exact x
  · exact x
  · exact x
  · exact x

theorem State.Safe.modeReturn (x : s.Safe q) : s.modeReturn.Safe q := by
  unfold State.modeReturn
  split
  · next h =>
    have n : ¬ (s.mode.mode = .unconfigured ∨ s.mode.mode = .standby ∨ s.mode.mode = .failsafe) := by rw [h]; decide
    split
    · exact x.enterStartFlash (fun u => n (.inl u)) (x.lawful.no_commit n)
    · exact x.enterModeFrom n (by decide) (by decide)
  · exact x

/-! ### Requests inside an event, and the event (R162, R168, R170) -/

theorem State.Safe.junctionRequest (x : s.Safe q) (dark immediate : Bool) : (s.junctionRequest dark immediate).Safe q := by
  unfold State.junctionRequest
  split
  · exact x.enterFailsafe _ _
  · split
    · exact x
    · exact x
    · exact x.enterFailsafe _ _
    · exact x.enterFailsafe _ _
    · exact x.enterFailsafe _ _
    · exact x.enterFailsafe _ _
    · exact x.enterFailsafe _ _
    · next h =>
      dsimp only
      generalize (if s.mode.cause = .none then Cause.faultResponse else s.mode.cause) = c
      exact State.Core.enterShutdown (x.toCore.calm (t := { s with mode := { s.mode with cause := c } }) {}) h _ _
    · exact x.calm {}

theorem State.Safe.modeRequest (x : s.Safe q) (r : ModeReq) : (s.modeRequest r).Safe q := by
  unfold State.modeRequest
  split
  · exact x.enterFailsafe _ _
  · exact x.enterFailsafe _ _
  · exact x.junctionRequest _ _
  · split
    · next h => exact x.toCore.enterShutdown h _ _
    · exact x
  · split
    · next h => exact x.enterModeFrom (by rw [h]; decide) (by decide) (by decide)
    · exact x

theorem State.Safe.modeWork (x : s.Safe q) : s.modeWork.Safe q := by
  unfold State.modeWork
  exact State.each_induct (P := State.Safe q) _ _ (x.calm {}) fun r _ t y => y.modeRequest r

theorem State.Safe.engineWork (x : s.Safe q) : s.engineWork.Safe q := by
  obtain ⟨y, e | r⟩ := x.toCore.engineWork
  · rw [e]; exact x
  · exact y.safe (.inl r)

theorem State.Safe.settle (x : s.Safe q) (n : Nat) : (s.settle n).Safe q := by
  have endRed : ∀ t : State, Calm t t.startEndRed := fun t => .ite {} (.refl t)
  induction n generalizing s with
  | zero => exact x
  | succ n ih =>
    unfold State.settle
    split
    · exact ih ((State.Safe.modeWork (x.calm {})).calm (endRed _)).engineWork
    · split
      · exact x
      · exact ih (x.calm (.of (.mark _) (.passLeftForce s)))

theorem State.Safe.judged (x : s.Safe q) (n : Nat) : (s.judged n).Safe q := by
  induction n generalizing s with
  | zero => exact x
  | succ n ih =>
    have h : (s.settle 200).judgeMonitor.Safe q := (x.settle 200).calm (Quiet.judgeMonitor _).calm
    have k : (s.settle 200).judgeMonitor.judgeFailed.Safe q := h.calm (Quiet.judgeFailed _).calm
    unfold State.judged
    dsimp only
    split
    · exact ih h
    · split
      · exact ih k
      · exact k

theorem Calm.commandGroup (s : State) (g : Group) : Calm s (s.commandGroup g) := by
  have command : ∀ (t : State) (c : Chan) (a b : Prop) [Decidable a] [Decidable b],
      Calm t (if a then t else if b then t.operate c else t.release c) :=
    fun t c _ _ _ _ => .ite (.refl t) (.ite (Quiet.operate t c).calm (Quiet.release t c).calm)
  unfold State.commandGroup
  dsimp only
  split
  · exact .refl s
  · exact .of (.each (fun k t => command t (chanOf g k) _ _) _ _) {}

theorem Calm.commandAspects (s : State) : Calm s s.commandAspects :=
  .each (fun g t => .ite (.refl t) (.of (Quiet.wantSelection _).calm (.commandGroup t g))) _ s

theorem State.Safe.round (x : s.Safe q) : s.round.Safe q :=
  (x.judged 8).calm (.of (Quiet.judgeMonitor _).calm (.commandAspects _))

theorem State.Safe.rounds (x : s.Safe q) (n : Nat) : (s.rounds n).Safe q := by
  induction n generalizing s with
  | zero => exact x
  | succ n ih =>
    unfold State.rounds
    dsimp only
    split
    · exact ih x.round
    · exact x.round

theorem State.Safe.spread (x : s.Safe q) (before : State) : (before.spread s).Safe q := by
  have tail : ∀ t : State, Calm t (if before.selectionCause t then t.wantSelection else t) :=
    fun t => .ite (Quiet.wantSelection t).calm (.refl t)
  unfold State.spread
  exact (State.Safe.rounds (x.calm (.mark s)) 8).calm (.of (Quiet.selections _ _).calm (tail _))

end Sys2Proof.Machine

namespace Sys2Proof.Machine

variable {q : Claims} {s t : State}

/-! ### Starts (R172, R173) -/

/-- A state whose groups, engine, plans, mode and link stand at their start values. -/
theorem State.Safe.ofDefaults (g : s.groups = .replicate 16 .default) (e : s.engine = .default) (m : s.mode = .default)
    (i : s.inUse = .empty) (l : s.link = .default) (w : s.store.writing = none) : s.Safe q := by
  have get : ∀ d : Group, s.groups[d] = .default := fun d => by rw [g]; simp
  have job : s.hasJob .commitConfig = false := by unfold State.hasJob State.job?; rw [l]; rfl
  have mode : s.mode.mode = .unconfigured := by rw [m]; rfl
  have rest : s.AtRest q :=
    { off := by unfold State.EngineOff; rw [e]; exact ⟨rfl, rfl, rfl⟩
      marked := fun _ d k => by rw [get d] at k; cases k
      commit := fun _ => .inl mode
      write := fun _ k => by rw [w] at k; cases k
      start := fun _ => ⟨mode, job, by rw [l]; rfl⟩
      mode := by rw [mode]; decide
      groups := fun d => by rw [get d]; exact ⟨by decide, rfl, rfl, rfl⟩ }
  have voids : s.VoidsSet := fun st _ => by
    refine Settings.peaceful_of_unwritten ?_
    rw [i]
    simp [PlanSet.empty, StageDef.written]
  exact
    { rest.core voids with
      startRed := fun _ k => by rw [mode] at k; cases k
      byMode := fun _ _ _ d => by
        rw [get d, mode]
        exact ⟨rfl, rfl, rfl, rfl, rfl⟩ }

/-- New records of the groups without a green mark, and the aspects of the mode set in them. -/
theorem State.Parked.setAspectsOf (x : s.Parked q) (v : Vector GroupRun 16)
    (h : ∀ g : Group, (v[g]).greenMark = false) : State.AtRest q (State.setAspects { s with groups := v }) := by
  have y : State.Parked q { s with groups := v } :=
    { off := x.off
      marked := fun _ g m => absurd m (Bool.eq_false_iff.mp (h g))
      commit := x.commit
      write := x.write
      start := x.start
      mode := x.mode }
  exact y.setAspects

theorem State.renewVoids_voidsSet (s : State) : s.renewVoids.VoidsSet := by
  unfold State.renewVoids State.judgeVoids
  exact (Calm.judgeUsable _).voids (State.voidsSet_of_setVoids rfl)

theorem Calm.renewVoids (s : State) : Calm s s.renewVoids := by
  have h : Calm s { s with pendingSet := s.pendingSet.map fun p => { p with set := p.set.setVoids s.work } } := {}
  exact h.trans (.judgeVoids _)

/-- A new working copy in UNCONFIGURED, STANDBY or FAILSAFE (R179). -/
theorem State.Parked.newWorkingCopy (x : s.Parked q) (p : s.power.phase = .running)
    (m : s.mode.mode = .unconfigured ∨ s.mode.mode = .standby ∨ s.mode.mode = .failsafe) (old : Settings) :
    (s.newWorkingCopy old).Safe q := by
  have mode : s.resetGroups.mode = s.mode := State.setAspects_mode _
  have rest : s.resetGroups.AtRest q := x.setAspectsOf _ fun g => by rw [map_get]; rfl
  have posted : s.resetGroups.Posted q :=
    { startRed := fun _ k => by rw [mode] at k; rw [k] at m; simp at m
      byMode := fun _ => State.byMode_setAspects _ }
  have c := Calm.renewVoids s.resetGroups
  have renewed : s.resetGroups.renewVoids.Safe q :=
    { (rest.calm c).core (State.renewVoids_voidsSet _), posted.calm c with }
  have blocks : (s.blocksRenewed old).Safe q := renewed.calm (.blocksRenewed s old)
  rw [State.newWorkingCopy_eq]
  split
  · refine blocks.modeWork.toCore.enterMode ⟨?_, fun _ => .inr (.inl rfl), by decide, by decide⟩
    rw [(Kept.modeWork _).power, (c.trans (.blocksRenewed s old)).phase]
    show (State.setAspects _).power.phase = _
    rw [State.setAspects_power]
    exact p
  · exact blocks

theorem State.Safe.committed (x : s.Safe q) {w : Write} (h : s.store.writing = some w) (c : w.forCommit = true)
    (i : w.image = .config) : (s.writeVerified w).Safe q := by
  have job := x.lawful.write w h c i
  have mode := x.lawful.commit job
  have phase : s.power.phase = .running := by
    by_contra n
    rw [(x.lawful.start n).2.1] at job
    cases job
  have n : s.mode.mode ≠ .running ∧ s.mode.mode ≠ .shutdown := by
    rcases mode with m | m | m <;> rw [m] <;> decide
  have ended : ∀ st : Store, st.writing = none → ∀ k : Cond,
      (State.configCommitted (State.endCond { s with store := st } k)).Safe q := by
    intro st w k
    have e := (Calm.writeOver s st w).trans (.endCond _ k)
    have wk : (State.endCond { s with store := st } k).store.writing = none := (Quiet.endCond _ k).writing.trans w
    have y := (x.toCore.parked n.1 n.2).calm e
    generalize State.endCond { s with store := st } k = u at e y wk
    have y : State.Parked q { u with work := u.edit } :=
      { off := y.off, marked := y.marked, commit := y.commit, write := y.write, start := y.start, mode := y.mode }
    have j := Calm.endJobIdle { u with work := u.edit } .commitConfig .ok .none wk
    exact (y.calm j).newWorkingCopy (by rw [j.phase]; exact e.phase.trans phase)
      (by rw [j.mode, show State.mode { u with work := u.edit } = u.mode from rfl, e.mode]; exact mode) _
  unfold State.writeVerified
  rw [if_pos c, i]
  exact ended _ rfl _

/-- The start mode is UNCONFIGURED, STANDBY or FAILSAFE (R173). -/
theorem startMode_cases (config : Bool) (code : BringUp) :
    startMode config code = .unconfigured ∨ startMode config code = .standby ∨ startMode config code = .failsafe := by
  unfold startMode
  split
  · exact .inl rfl
  · split
    · exact .inr (.inl rfl)
    · exact .inr (.inr rfl)

/-- The start event (R173). -/
theorem State.Safe.startUp (x : s.Safe q) (answers : Bool) (raw : Vector Bool 32) (h : s.power.phase = .reading) :
    (s.startUp answers raw).Safe q := by
  obtain ⟨mode, job, queue⟩ := x.lawful.start (by rw [h]; decide)
  have off := x.lawful.engine (by rw [mode]; decide)
  have parked : ∀ (u : State) (c : ModeCtl), u.engine = s.engine → u.groups = s.groups → u.link = s.link →
      u.store.writing = s.store.writing → u.power.phase = .running → c.mode ≠ .running → c.mode ≠ .shutdown →
      State.Parked q { u with mode := c } := by
    intro u c e g l w p n k
    have j : State.hasJob { u with mode := c } .commitConfig = false := by
      unfold State.hasJob State.job? at job ⊢
      rw [show State.link { u with mode := c } = s.link from l]; exact job
    exact
      { off := by unfold State.EngineOff; rw [show State.engine { u with mode := c } = s.engine from e]; exact off
        marked := fun c d => by
          rw [show State.groups _ = s.groups from g]; exact (x.spaced c).1.marked d
        commit := fun k => absurd k (Bool.eq_false_iff.mp j)
        write := fun y hy f i => by
          have := x.lawful.write y (w ▸ hy) f i
          rw [job] at this
          cases this
        start := fun n => (n p).elim
        mode := ⟨n, k⟩ }
  have start : ∀ (u : State) (c : ModeCtl) (n : Notice) (l : List BringUp), u.engine = s.engine → u.groups = s.groups →
      u.link = s.link → u.store.writing = s.store.writing → u.power.phase = .running →
      (c.mode = .unconfigured ∨ c.mode = .standby ∨ c.mode = .failsafe) →
      State.Safe q ((State.setAspects { u with mode := c }).notify n |>.startEntries l).judgeVoids := by
    intro u c n l e g li w p m
    have k : c.mode ≠ .running ∧ c.mode ≠ .shutdown := by rcases m with m | m | m <;> rw [m] <;> decide
    have rest := (parked u c e g li w p k.1 k.2).setAspects
    have posted : (State.setAspects { u with mode := c }).Posted q :=
      { startRed := fun _ r => by
          rw [State.setAspects_mode] at r
          rw [show c.mode = .startRed from r] at m
          simp at m
        byMode := fun _ => State.byMode_setAspects _ }
    have b := Calm.of (Quiet.startEntries _ l).calm (.notify (State.setAspects { u with mode := c }) n)
    have v := Calm.judgeVoids (((State.setAspects { u with mode := c }).notify n).startEntries l)
    have voids : (((State.setAspects { u with mode := c }).notify n).startEntries l).judgeVoids.VoidsSet :=
      (Calm.judgeUsable _).voids (State.voidsSet_of_setVoids rfl)
    exact { (rest.calm (b.trans v)).core voids, posted.calm (b.trans v) with }
  have images := start (((State.takeImages { s with power := { s.power with phase := .running } }
      (readImage answers .config s.store.nvConfig) (readImage answers .plans s.store.nvPlans)
      (readImage answers .survey s.store.nvSurvey))).startTimers)
  exact State.Safe.calm (images _ _ _ rfl rfl rfl rfl rfl (startMode_cases _ _)) (s.startUp_spec answers raw)

/-! ### The moves, and a step -/

/-- A group that is given green at its red-amber timer or its green-release time is a gaining group whose time has come (R8, R21). -/
theorem State.Safe.giveGreen (x : s.Safe q) (g : Group) (e : Nat) (n : e ≤ s.now)
    (h : (s.groups[g]).redAmberTimer = some e
      ∨ ((s.groups[g]).pendingGreen = true ∧ (s.groups[g]).aspect ≠ .amber ∧ (s.groups[g]).greenRelease = some e)) :
    (s.giveGreen g).Safe q := by
  have p : (s.groups[g]).pendingGreen = true := by
    rcases h with h | ⟨p, -⟩
    · exact x.lawful.redAmber g (by rw [h]; simp)
    · exact p
  refine (x.toCore.giveGreen p fun c => ?_).safe (.inl (x.lawful.running (by rw [(x.lawful.gaining g p).1]; decide)))
  rcases h with h | ⟨-, a, r⟩
  · refine ⟨?_, e, (x.spaced c).1.redAmber g e h, n⟩
    rw [(x.spaced c).1.redAmberAspect g (by rw [h]; simp)]
    decide
  · exact ⟨a, e, r, n⟩

/-- A group that does not wait for its green is not taken on. -/
theorem State.advanceGroup_none (s : State) (g : Group) (h : (s.groups[g]).pendingGreen = false) :
    s.advanceGroup g = s := by
  obtain e | ⟨p, -⟩ | ⟨p, -⟩ := s.advanceGroup_cases g
  · exact e
  · rw [h] at p; cases p
  · rw [h] at p; cases p

/-- Outside RUNNING the end of an amber takes no group on. -/
theorem State.amberEnd_of_not_pending (s : State) (g : Group) (h : (s.groups[g]).pendingGreen = false) :
    ∃ a, s.amberEnd g = (s.updGroup g fun r => { r with aspect := a, amberTimer := none }).mark := by
  unfold State.amberEnd
  dsimp only
  generalize (if s.work.groups[g].type = .arrow then Aspect.dark else .red) = a
  exact ⟨a, State.advanceGroup_none _ g (by rw [State.mark_groups, s.updGroup_get_same]; exact h)⟩

theorem State.Safe.amberEnd (x : s.Safe q) (g : Group) (h : (s.groups[g]).amberTimer ≠ none) : (s.amberEnd g).Safe q := by
  have core := x.toCore.amberEnd h
  by_cases r : s.mode.mode = .running
  · exact core.safe (.inl (by unfold State.amberEnd; dsimp only; rw [(Touches.advanceGroup _ g).mode]; exact r))
  · have off := x.lawful.engine r
    obtain ⟨a, e⟩ := s.amberEnd_of_not_pending g (x.lawful.none_pending (by rw [off.1]; decide) g)
    by_cases k : s.mode.mode = .shutdown
    · exact core.safe (.inr (by rw [e]; exact k))
    · exact
        { core with
          startRed := fun c m d => by
            rw [e] at m ⊢
            rw [State.mark_groups, s.updGroup_get]
            split
            · exact x.startRed c m d
            · exact x.startRed c m d
          byMode := fun c => (h (x.byMode c r k g).2.1).elim }

theorem State.Safe.advanceGroup (x : s.Safe q) (g : Group) : (s.advanceGroup g).Safe q := by
  by_cases p : (s.groups[g]).pendingGreen = true
  · refine x.toCore.advanceGroup.safe (.inl ?_)
    rw [(Touches.advanceGroup s g).mode]
    exact x.lawful.running (by rw [(x.lawful.gaining g p).1]; decide)
  · rw [s.advanceGroup_none g (by simpa using p)]; exact x

theorem State.Safe.elapseTo (x : s.Safe q) (n : Nat) : (s.elapseTo n).Safe q where
  lawful := x.lawful.elapseTo n
  spaced := fun c => by
    obtain ⟨a, b⟩ := x.spaced c
    rcases Nat.lt_or_ge s.now n with g | g
    · rw [(s.elapseTo_spec n).2 g]
      refine ⟨⟨a.release, a.redAmber, a.redAmberAspect, a.amber, a.marked⟩, fun i j ig ne o gr ci m => ?_⟩
      obtain ⟨off, ho, le⟩ := b i j ig ne o gr ci m
      exact ⟨off, ho, le.trans g.le⟩
    · rw [(s.elapseTo_spec n).1 g]
      exact ⟨a, b⟩
  startRed := fun c => by
    rw [State.elapseTo_mode, State.elapseTo_groups]
    exact x.startRed c
  byMode := fun c => (x.byMode c).elapseTo n

theorem State.Safe.close (x : s.Safe q) : s.close.Safe q := by
  have lawful := x.lawful.close
  obtain ⟨m, l, st, e, -⟩ := s.close_spec
  rw [e] at lawful ⊢
  exact
    { lawful := lawful
      spaced := fun c =>
        ⟨⟨(x.spaced c).1.release, (x.spaced c).1.redAmber, (x.spaced c).1.redAmberAspect, (x.spaced c).1.amber,
          (x.spaced c).1.marked⟩, (x.spaced c).2⟩
      startRed := x.startRed
      byMode := x.byMode }

/-- A COMMIT_CONFIG joins the job table where the edit copy may be written. -/
theorem State.Safe.addCommit (x : s.Safe q) (h : s.editable) (p : s.power.phase = .running) :
    (s.addJob .commitConfig none).Safe q where
  lawful :=
    { peaceful := x.lawful.peaceful
      records := x.lawful.records
      voids := x.lawful.voids
      gaining := x.lawful.gaining
      redAmber := x.lawful.redAmber
      engine := x.lawful.engine
      commit := fun _ => h.1.elim .inl fun m => .inr (.inl m)
      write := fun w e c i => by
        have := x.lawful.write w e c i
        rw [h.2] at this
        cases this
      start := fun n => (n p).elim }
  spaced := fun c =>
    ⟨⟨(x.spaced c).1.release, (x.spaced c).1.redAmber, (x.spaced c).1.redAmberAspect, (x.spaced c).1.amber,
      (x.spaced c).1.marked⟩, (x.spaced c).2⟩
  startRed := x.startRed
  byMode := x.byMode

/-- Every move keeps the laws. -/
theorem State.Safe.move {early : Prop} (n : ¬ early) (m : Move early s t) (x : s.Safe q) : t.Safe q := by
  cases m with
  | calm c => exact x.calm c
  | elapse => exact x.elapseTo _
  | close => exact x.close
  | spread b => exact x.spread b
  | start => exact .ofDefaults rfl rfl rfl rfl rfl rfl
  | powerLoss e => cases e; exact .ofDefaults rfl rfl rfl rfl rfl rfl
  | proofsRead _ loads smc ftr line m p =>
    obtain ⟨mode, job, queue⟩ := x.lawful.start (by rw [p]; decide)
    exact
      { lawful :=
          { peaceful := x.lawful.peaceful
            records := x.lawful.records
            voids := x.lawful.voids
            gaining := x.lawful.gaining
            redAmber := x.lawful.redAmber
            engine := x.lawful.engine
            commit := x.lawful.commit
            write := x.lawful.write
            start := fun _ => ⟨mode, job, queue⟩ }
        spaced := fun c =>
          ⟨⟨(x.spaced c).1.release, (x.spaced c).1.redAmber, (x.spaced c).1.redAmberAspect, (x.spaced c).1.amber,
            (x.spaced c).1.marked⟩, (x.spaced c).2⟩
        startRed := x.startRed
        byMode := x.byMode }
  | startUp _ answers raw p => exact x.startUp answers raw p
  | addCommit _ h p => exact x.addCommit h (p.resolve_right n)
  | committed _ w h c i => exact x.committed h c i
  | amberEnd _ g h => exact x.amberEnd g h
  | advance _ g => exact x.advanceGroup g
  | giveGreen _ g e n h => exact x.giveGreen g e n h
  | enterStartFlash _ h j =>
    exact x.enterStartFlash (by rcases h with h | h <;> rw [h] <;> decide) j
  | enterShutdown _ h => exact x.toCore.enterShutdown h _ _
  | enterStandby _ h =>
    exact x.enterModeFrom (by rcases h with h | h | h <;> rw [h] <;> decide) (by decide) (by decide)
  | modeLoss => exact x.modeLoss
  | modeReturn => exact x.modeReturn
  | startFlashExpiry _ h => exact x.startFlashExpiry h
  | startRedExpiry _ h => exact x.startRedExpiry h
  | endRedExpiry _ h => exact x.endRedExpiry h

/-- A step from a lawful state keeps the laws: before the start event no request is queued in it. -/
theorem State.Safe.step (x : s.Safe q) (h : step s = .next t) : t.Safe q := by
  have early : ¬ s.queuedEarly := fun ⟨p, k⟩ => k (x.lawful.start p).2.2
  exact (Moves.step h).induct (fun _ _ m y => y.move early m) x

/-! ### The statements -/

/-- The state right after reset keeps all the laws. -/
theorem State.Safe.reset : State.reset.Safe q := .ofDefaults rfl rfl rfl rfl rfl rfl

/-- Settles O6: one of the laws that a step keeps, with which no two green groups have an intergreen entry. -/
theorem lawfulKept : Obligations.LawfulKept := fun s t x h => by
  have y : s.Safe ⟨False, False, fun _ => False⟩ := ⟨⟨x, False.elim⟩, ⟨False.elim, False.elim⟩⟩
  have z := (y.step h).lawful
  refine ⟨z, fun i j n a b => ?_⟩
  have := z.peaceful i j n (GroupRun.calls_of_green a) (GroupRun.calls_of_green b)
  simpa [Settings.conflict] using this

/-- Settles O7, by the intergreen law with the groups that are GREEN before the step as the old greens. -/
theorem intergreenKept : Obligations.IntergreenKept := fun s t x y h => by
  obtain ⟨spaced, startRed⟩ := s.timed_iff.mp y
  have z : s.Safe ⟨True, False, fun j => (s.groups[j]).aspect = .green⟩ :=
    ⟨⟨x, fun _ => ⟨spaced, fun _ _ _ _ n a => (n a).elim⟩⟩, ⟨fun _ => startRed, False.elim⟩⟩
  have w := z.step h
  exact ⟨t.timed_iff.mpr ⟨(w.spaced trivial).1, w.startRed trivial⟩, fun i j ig n a b c m =>
    (w.spaced trivial).2 i j ig n a b c m⟩

/-- Settles O8: the aspects of the mode are one of the laws that a step keeps. -/
theorem modeAspectsKept : Obligations.ModeAspectsKept := by
  refine ⟨(State.Safe.reset (q := ⟨False, True, fun _ => False⟩)).byMode trivial, fun s t x y h => ?_⟩
  have z : s.Safe ⟨False, True, fun _ => False⟩ := ⟨⟨x, False.elim⟩, ⟨False.elim, fun _ => y⟩⟩
  exact (z.step h).byMode trivial

end Sys2Proof.Machine

/-! SUPPORT. The aspects handed over to the switch controller at the end of an event (R5), and the frame of an event. -/

namespace Sys2Proof.Machine

variable {s t : State}

/-! ### The aspects handed over (R5) -/

/-- The switch controller has been given the aspects in force. -/
def State.HandedOver (s : State) : Prop := ∀ g : Group, s.handed[g] = (s.groups[g]).aspect

theorem State.HandedOver.quiet (x : s.HandedOver) (h : Quiet s t) : t.HandedOver := fun g => by
  rw [h.handed, h.aspect]
  exact x g

/-- The command of a group's aspect leaves every aspect, and what the other groups have been given. -/
theorem State.commandGroup_aspect (s : State) (g d : Group) :
    ((s.commandGroup g).groups[d]).aspect = (s.groups[d]).aspect := by
  obtain ⟨-, e, -⟩ := s.commandGroup_handed g
  have := congrArg (fun v : Vector Aspect 16 => v[d]) e
  simpa using this

/-- One pass of the commands over a list of groups: those in the list have been given their aspects, the others as before. -/
theorem State.command_each (l : List Group) (s : State) :
    let u := s.each l fun g t => if t.handed[g] = (t.groups[g]).aspect then t else (t.commandGroup g).wantSelection
    (∀ d : Group, (u.groups[d]).aspect = (s.groups[d]).aspect)
      ∧ ∀ d : Group, (d ∈ l ∨ s.handed[d] = (s.groups[d]).aspect) → u.handed[d] = (u.groups[d]).aspect := by
  induction l generalizing s with
  | nil => exact ⟨fun _ => rfl, fun d h => h.resolve_left (by simp)⟩
  | cons a l ih =>
    have one : ∀ t : State, (∀ d : Group, ((if t.handed[a] = (t.groups[a]).aspect then t
          else (t.commandGroup a).wantSelection).groups[d]).aspect = (t.groups[d]).aspect)
        ∧ ∀ d : Group, (d = a ∨ t.handed[d] = (t.groups[d]).aspect) → (if t.handed[a] = (t.groups[a]).aspect then t
          else (t.commandGroup a).wantSelection).handed[d] = (t.groups[d]).aspect := by
      intro t
      split
      · next h => exact ⟨fun _ => rfl, fun d k => k.elim (fun e => e ▸ h) id⟩
      · refine ⟨fun d => t.commandGroup_aspect a d, fun d k => ?_⟩
        obtain ⟨-, -, own, others⟩ := t.commandGroup_handed a
        by_cases e : d = a
        · subst e; exact own
        · exact (others d e).trans (k.resolve_left e)
    obtain ⟨aspects, handed⟩ := one s
    obtain ⟨aspects', handed'⟩ := ih (if s.handed[a] = (s.groups[a]).aspect then s
      else (s.commandGroup a).wantSelection)
    refine ⟨fun d => (aspects' d).trans (aspects d), fun d h => handed' d ?_⟩
    by_cases m : d ∈ l
    · exact .inl m
    · refine .inr ((handed d ?_).trans (aspects d).symm)
      rcases h with h | h
      · exact .inl ((List.mem_cons.mp h).resolve_right m)
      · exact .inr h

theorem State.HandedOver.commandAspects (s : State) : s.commandAspects.HandedOver := fun g =>
  (State.command_each allGroups s).2 g (.inl (mem_allGroups g))

theorem State.HandedOver.round (s : State) : s.round.HandedOver :=
  (State.HandedOver.commandAspects _).quiet (.judgeMonitor _)

theorem State.HandedOver.rounds (n : Nat) (s : State) : (s.rounds (n + 1)).HandedOver := by
  induction n generalizing s with
  | zero =>
    unfold State.rounds
    dsimp only
    split
    · exact .round s
    · exact .round s
  | succ n ih =>
    unfold State.rounds
    dsimp only
    split
    · exact ih _
    · exact .round s

theorem State.HandedOver.spread (before after : State) : (before.spread after).HandedOver := by
  have tail : ∀ t : State, Quiet t (if before.selectionCause t then t.wantSelection else t) :=
    fun t => .ite (.wantSelection t) (.refl t)
  unfold State.spread
  exact (State.HandedOver.rounds 7 _).quiet (.of (.selections _ _) (tail _))

theorem State.HandedOver.cascade (before after : State) : (before.cascade after).HandedOver := by
  have h := State.HandedOver.spread before after
  obtain ⟨m, l, st, e, -⟩ := (before.spread after).close_spec
  unfold State.cascade
  rw [e]
  exact h

/-- Settles O10: what the blocks make of an event is kept, and every event ends after a round of commands. -/
theorem eventFrame : Obligations.EventFrame := by
  refine ⟨fun before after => ?_, fun before after => State.HandedOver.cascade before after⟩
  have k := Kept.spread after before
  exact ⟨k.power, k.now, k.clock, k.edit, k.work, k.tod, k.staging, k.dets, k.occupied, k.mains, k.freeUses,
    k.pending, k.queue, k.slot, k.tx, k.writing, k.notices⟩

end Sys2Proof.Machine

/-! SUPPORT. The times of a gaining group (R21, R22) and what its timers make of it (R7, R8). -/

namespace Sys2Proof.Machine

variable {s : State} {g : Group}

/-! ### Taking a gaining group on (R8, R21, R22) -/

/-- A gaining group in AMBER waits for its amber expiry. -/
theorem State.advanceGroup_amber (h : (s.groups[g]).aspect = .amber) : s.advanceGroup g = s := by
  obtain e | ⟨-, n, -⟩ | ⟨-, r, -⟩ := s.advanceGroup_cases g
  · exact e
  · exact (n h).elim
  · rw [h] at r; cases r

/-- A gaining group whose green-release time has come is given green, but not in the event in which its last inhibit reason has gone. -/
theorem State.advanceGroup_green {x : Nat} (p : (s.groups[g]).pendingGreen = true) (a : (s.groups[g]).aspect ≠ .amber)
    (r : (s.groups[g]).greenRelease = some x) (n : x ≤ s.now) :
    s.advanceGroup g = if g ∈ s.ev.freed then s else s.giveGreen g := by
  have go : (!(s.groups[g]).pendingGreen || decide ((s.groups[g]).aspect = .amber)) = false := by
    rw [p, decide_eq_false a]; rfl
  have due : (s.groups[g]).greenRelease.any (· ≤ s.now) = true := by rw [r]; simpa using n
  unfold State.advanceGroup
  dsimp only
  rw [if_neg (by rw [go]; decide), if_pos due]

/-- A gaining group in RED whose red-amber start has come, and whose green-release time has not, shows RED_AMBER until that time. -/
theorem State.advanceGroup_redAmber {x y : Nat} (p : (s.groups[g]).pendingGreen = true) (a : (s.groups[g]).aspect = .red)
    (r : (s.groups[g]).greenRelease = some x) (n : s.now < x) (b : (s.groups[g]).redAmberStart = some y) (m : y ≤ s.now) :
    s.advanceGroup g = (s.updGroup g fun r => { r with aspect := .redAmber, redAmberTimer := r.greenRelease }).mark := by
  have go : (!(s.groups[g]).pendingGreen || decide ((s.groups[g]).aspect = .amber)) = false := by rw [p, a]; rfl
  have due : (s.groups[g]).greenRelease.any (· ≤ s.now) = false := by rw [r]; simpa using n
  have start : (decide ((s.groups[g]).aspect = .red) && (s.groups[g]).redAmberStart.any (· ≤ s.now)) = true := by
    rw [a, b]; simpa using m
  unfold State.advanceGroup
  dsimp only
  rw [if_neg (by rw [go]; decide), if_neg (by rw [due]; decide), if_pos start]

theorem State.advanceGroup_redAmber_get {x y : Nat} (p : (s.groups[g]).pendingGreen = true)
    (a : (s.groups[g]).aspect = .red) (r : (s.groups[g]).greenRelease = some x) (n : s.now < x)
    (b : (s.groups[g]).redAmberStart = some y) (m : y ≤ s.now) :
    (s.advanceGroup g).groups[g] = { s.groups[g] with aspect := .redAmber, redAmberTimer := some x } := by
  rw [State.advanceGroup_redAmber p a r n b m, State.mark_groups, State.updGroup_get_same]
  dsimp only
  rw [r]

/-- A gaining group whose green-release time has not come, and whose red-amber start has not, or cannot be shown, waits. -/
theorem State.advanceGroup_waits {x : Nat} (r : (s.groups[g]).greenRelease = some x) (n : s.now < x)
    (h : (s.groups[g]).aspect ≠ .red ∨ (s.groups[g]).redAmberStart = none
      ∨ ∃ y, (s.groups[g]).redAmberStart = some y ∧ s.now < y) : s.advanceGroup g = s := by
  obtain e | ⟨-, -, ⟨x', e, k⟩, -⟩ | ⟨-, a, ⟨y', e, k⟩, -⟩ := s.advanceGroup_cases g
  · exact e
  · rw [r] at e; cases e; omega
  · rcases h with h | h | ⟨y, h, m⟩
    · exact (h a).elim
    · rw [h] at e; cases e
    · rw [h] at e; cases e; omega

theorem State.giveGreen_get (s : State) (g : Group) : (s.giveGreen g).groups[g] = (s.groups[g]).given := by
  unfold State.giveGreen
  rw [State.wantSelection_groups, State.mark_groups, s.updGroup_get_same]
  rfl

/-- The group operations change the groups and what the blocks pass one another alone. -/
theorem State.advanceGroup_frame (s : State) (g : Group) :
    s.advanceGroup g = { s with groups := (s.advanceGroup g).groups, ev := (s.advanceGroup g).ev } := by
  obtain e | ⟨-, -, -, -, e⟩ | ⟨-, -, -, e⟩ := s.advanceGroup_cases g
  · rw [e]
  · rw [e]; rfl
  · rw [e]; rfl

/-! ### The release time (R21) -/

/-- One conflicting group's part of a green-release time: the intergreen after its last green-off, where it carries the mark. -/
def State.releaseStep (s : State) (j : Group) (t : Nat) (i : Group) : Nat :=
  match s.work.ig[i][j], (s.groups[i]).lastGreenOff with
  | some ig, some off => if (s.groups[i]).greenMark then max t (off + tenths ig) else t
  | _, _ => t

/-- The green-release time but for the group's own amber. -/
def State.releaseBase (s : State) (j : Group) : Nat := allGroups.foldl (s.releaseStep j) s.now

theorem State.releaseTime_eq (s : State) (j : Group) : s.releaseTime j = if (s.groups[j]).aspect = .amber then
    max (s.releaseBase j) ((s.groups[j]).amberTimer.getD 0) else s.releaseBase j := rfl

/-- A conflicting group's part of the green-release time of group j, where it has one (R21). -/
def State.HoldsBack (s : State) (j : Group) (y : Nat) : Prop :=
  ∃ (i : Group) (ig off : Nat), s.work.ig[i][j] = some ig ∧ (s.groups[i]).lastGreenOff = some off
    ∧ (s.groups[i]).greenMark = true ∧ y = off + 100 * ig

theorem State.releaseStep_cases (s : State) (j : Group) (t : Nat) (i : Group) :
    s.releaseStep j t i = t ∨ s.HoldsBack j (s.releaseStep j t i) := by
  unfold State.releaseStep
  split
  · next ig off a b =>
    split
    · next m =>
      rcases Nat.le_total (off + tenths ig) t with h | h
      · exact .inl (Nat.max_eq_left h)
      · exact .inr ⟨i, ig, off, a, b, m, Nat.max_eq_right h⟩
    · exact .inl rfl
  · exact .inl rfl

theorem State.releaseBase_cases (s : State) (j : Group) : s.releaseBase j = s.now ∨ s.HoldsBack j (s.releaseBase j) := by
  have go : ∀ (l : List Group) (t : Nat), (t = s.now ∨ s.HoldsBack j t) →
      (l.foldl (s.releaseStep j) t = s.now ∨ s.HoldsBack j (l.foldl (s.releaseStep j) t)) := by
    intro l
    induction l with
    | nil => exact fun t h => h
    | cons a l ih =>
      intro t h
      refine ih _ ?_
      rcases s.releaseStep_cases j t a with e | e
      · rw [e]; exact h
      · exact .inr e
  exact go _ _ (.inl rfl)

theorem State.amber_le_releaseTime {s : State} {j : Group} {a : Nat} (h : (s.groups[j]).aspect = .amber)
    (t : (s.groups[j]).amberTimer = some a) : a ≤ s.releaseTime j := by
  rw [s.releaseTime_eq, if_pos h, t]
  exact Nat.le_max_right _ _

/-- The green-release time is one of the times it is the latest of. -/
theorem State.releaseTime_cases (s : State) (j : Group) :
    s.releaseTime j = s.now ∨ s.HoldsBack j (s.releaseTime j)
      ∨ ((s.groups[j]).aspect = .amber ∧ (s.groups[j]).amberTimer = some (s.releaseTime j)) := by
  have base : (s.releaseTime j = s.releaseBase j) ∨ ((s.groups[j]).aspect = .amber
      ∧ (s.groups[j]).amberTimer = some (s.releaseTime j)) := by
    rw [s.releaseTime_eq]
    split
    · next h =>
      cases t : (s.groups[j]).amberTimer with
      | none => exact .inl (Nat.max_eq_left (Nat.zero_le _))
      | some a =>
        rcases Nat.le_total a (s.releaseBase j) with k | k
        · exact .inl (Nat.max_eq_left k)
        · exact .inr ⟨h, congrArg some (Nat.max_eq_right k).symm⟩
    · exact .inl rfl
  rcases base with e | e
  · rw [e]
    exact (s.releaseBase_cases j).imp_right .inl
  · exact .inr (.inr e)

/-- Settles O42: the latest of the times, by the fold over the conflicting groups. -/
theorem releaseTime : Obligations.ReleaseTime := fun s j => by
  obtain ⟨now, behind⟩ := s.releaseTime_ge j
  exact ⟨now, fun i ig off h o m => behind i ig off h m o, fun a h t => State.amber_le_releaseTime h t,
    s.releaseTime_cases j⟩

/-! ### The timers of a group (R7, R8, R21, R22) -/

/-- The event of a timer that runs is the event of what its block does at its end. -/
theorem State.due_some {t : Timer} {e : Nat} (h : t = some e) (f : State → State) :
    s.due t f = (s.elapseTo e).cascade (f (s.elapseTo e)) := (s.due_spec t f).2 e h

/-- The record of a group at the end of its amber (R7). -/
def State.amberEnded (s : State) (g : Group) : GroupRun :=
  { s.groups[g] with aspect := if s.work.groups[g].type = .arrow then .dark else .red, amberTimer := none }

/-- The state with the amber of a group ended, before the group is taken on. -/
def State.amberOver (s : State) (g : Group) : State := (s.updGroup g fun _ => s.amberEnded g).mark

theorem State.amberEnd_eq (s : State) (g : Group) : s.amberEnd g = (s.amberOver g).advanceGroup g := by
  have e : upd s.groups g (fun r => { r with
      aspect := if s.work.groups[g].type = .arrow then Aspect.dark else .red, amberTimer := none })
      = upd s.groups g fun _ => s.amberEnded g := rfl
  unfold State.amberEnd State.amberOver State.updGroup
  dsimp only
  rw [e]

theorem State.amberOver_get (s : State) (g : Group) : (s.amberOver g).groups[g] = s.amberEnded g := by
  unfold State.amberOver
  rw [State.mark_groups, s.updGroup_get_same]

theorem State.amberEnd_frame (s : State) (g : Group) :
    s.amberEnd g = { s with groups := (s.amberEnd g).groups, ev := (s.amberEnd g).ev } := by
  rw [s.amberEnd_eq, State.advanceGroup_frame]
  rfl

theorem State.amberEnd_others (s : State) {g h : Group} (n : h ≠ g) : (s.amberEnd g).groups[h] = s.groups[h] := by
  rw [s.amberEnd_eq, (Touches.advanceGroup _ g).others h (Ne.symm n)]
  unfold State.amberOver
  rw [State.mark_groups, s.updGroup_get_ne _ (Ne.symm n)]

/-- What the amber timer's expiry makes of its group (R7, R21, R22). -/
theorem State.amberEnd_get (s : State) (g : Group) : let r := s.amberEnded g
    (r.pendingGreen = false → (s.amberEnd g).groups[g] = r)
    ∧ (∀ x, r.pendingGreen = true → r.greenRelease = some x → x ≤ s.now →
        (s.amberEnd g).groups[g] = if g ∈ s.ev.freed then r else r.given)
    ∧ (∀ x y, r.pendingGreen = true → r.greenRelease = some x → s.now < x → r.aspect = .red →
        r.redAmberStart = some y → y ≤ s.now →
        (s.amberEnd g).groups[g] = { r with aspect := .redAmber, redAmberTimer := some x })
    ∧ (∀ x, r.pendingGreen = true → r.greenRelease = some x → s.now < x →
        (r.aspect = .dark ∨ r.redAmberStart = none ∨ ∃ y, r.redAmberStart = some y ∧ s.now < y) →
        (s.amberEnd g).groups[g] = r) := by
  have get := s.amberOver_get g
  have amber : (s.amberEnded g).aspect ≠ .amber := by
    show (if _ then Aspect.dark else .red) ≠ _
    split <;> decide
  dsimp only
  rw [s.amberEnd_eq]
  rw [← get] at amber ⊢
  refine ⟨fun p => ?_, fun x p r n => ?_, fun x y p r n a b m => ?_, fun x p r n w => ?_⟩
  · rw [State.advanceGroup_none _ g p]
  · rw [State.advanceGroup_green p amber r n]
    show (if g ∈ s.ev.freed then _ else _ : State).groups[g] = _
    split
    · rfl
    · exact State.giveGreen_get _ g
  · rw [State.advanceGroup_redAmber_get p a r n b m]
  · rw [State.advanceGroup_waits r n (w.imp_left fun d => by rw [d]; decide)]

/-- The event of a group's timer at which the group is given green. -/
theorem State.giveGreen_event (s : State) (g : Group) (e : Nat) :
    let t := s.elapseTo e
    ∃ u : State, (s.elapseTo e).cascade ((s.elapseTo e).giveGreen g) = t.cascade u
      ∧ u = { t with groups := u.groups, ev := u.ev } ∧ (∀ h : Group, h ≠ g → u.groups[h] = s.groups[h])
      ∧ u.groups[g] = (s.groups[g]).given :=
  ⟨_, rfl, rfl, fun h n => by rw [(Touches.giveGreen _ g).others h (Ne.symm n), State.elapseTo_groups],
    by rw [State.giveGreen_get, State.elapseTo_groups]⟩

/-- Settles O41, by the event of each timer and what the taking on of a gaining group does. -/
theorem groupTimers : Obligations.GroupTimers := by
  refine ⟨fun g s e h => ?_, fun g s e x hx => ⟨fun p a b => ?_, fun h => ?_, fun p a v ex => ?_⟩⟩
  · have k := (s.elapseTo e).amberEnd_get g
    unfold State.amberEnded at k
    rw [State.elapseTo_groups, State.elapseTo_work, State.elapseTo_ev] at k
    exact ⟨_, congrArg Host.Outcome.next (State.due_some h _), (s.elapseTo e).amberEnd_frame g,
      fun d n => by rw [State.amberEnd_others _ n, State.elapseTo_groups], k⟩
  · have due : s.redAmberDue g = some e := by
      unfold State.redAmberDue
      dsimp only
      rw [p, a]
      exact b
    have le : e ≤ (s.elapseTo e).now := by rw [State.elapseTo_now]; exact Nat.le_max_right _ _
    have gr : (s.elapseTo e).groups[g] = s.groups[g] := by rw [State.elapseTo_groups]
    refine ⟨_, congrArg Host.Outcome.next (State.due_some due _), State.advanceGroup_frame _ g,
      fun d n => by rw [(Touches.advanceGroup _ g).others d (Ne.symm n), State.elapseTo_groups], fun n => ?_, fun n => ?_⟩
    · rw [State.advanceGroup_green (by rw [gr]; exact p) (by rw [gr, a]; decide) (by rw [gr]; exact hx) n,
        State.elapseTo_ev]
      split
      · exact gr
      · rw [State.giveGreen_get, gr]
    · rw [State.advanceGroup_redAmber_get (by rw [gr]; exact p) (by rw [gr]; exact a) (by rw [gr]; exact hx) n
        (by rw [gr]; exact b) le, gr]
  · obtain ⟨u, eq, k⟩ := s.giveGreen_event g e
    exact ⟨u, congrArg Host.Outcome.next ((State.due_some h _).trans eq), k⟩
  · have due : s.releaseDue g = some e := by
      unfold State.releaseDue
      dsimp only
      rw [p, decide_eq_true a, decide_eq_true v, ← ex]
      exact hx
    obtain ⟨u, eq, k⟩ := s.giveGreen_event g e
    exact ⟨u, congrArg Host.Outcome.next ((State.due_some due _).trans eq), k⟩

end Sys2Proof.Machine

/-! SUPPORT. A decision of the sequence engine (R49, R52 to R54, R56): the scan of the records, the plan boundary, and what is made of the record taken. -/

namespace Sys2Proof.Machine

variable {s : State}

/-! ### The scan (R49, R52) -/

theorem State.eligible_iff (s : State) (g : Group) : s.eligible g = true ↔ s.MayGain g := by
  simp [State.eligible, State.MayGain, GroupRun.inhibited, and_assoc]

theorem State.qualifies_iff (s : State) (r : ResolvedRecord) : s.qualifies r = true ↔
    (r.mode = .always ∨ s.engine.demands[r.stage] = true) ∧ ∃ g : Group, r.groups[g] = true ∧ s.MayGain g := by
  unfold State.qualifies
  simp only [Bool.and_eq_true, Bool.or_eq_true, decide_eq_true_eq, List.any_eq_true]
  refine and_congr Iff.rfl ⟨fun ⟨g, _, r, e⟩ => ⟨g, r, (s.eligible_iff g).mp e⟩,
    fun ⟨g, r, m⟩ => ⟨g, mem_allGroups g, r, (s.eligible_iff g).mpr m⟩⟩

theorem mem_indices {a b i : Nat} : i ∈ indices a b ↔ a ≤ i ∧ i ≤ b := by
  unfold indices
  simp only [List.mem_map, List.mem_range]
  exact ⟨fun ⟨x, h, e⟩ => by omega, fun ⟨h, k⟩ => ⟨i - a, by omega, by omega⟩⟩

theorem indices_cons {a b : Nat} (h : a ≤ b) : indices a b = a :: indices (a + 1) b := by
  unfold indices
  rw [show b + 1 - a = (b + 1 - (a + 1)) + 1 by omega, List.range_succ_eq_map, List.map_cons, List.map_map]
  congr 1
  exact List.map_congr_left fun x _ => by simp; omega

/-- Record i of a plan is r, it qualifies, and it is the first from a to b that does. -/
def State.FirstIn (s : State) (p : ResolvedPlan) (a b i : Nat) (r : ResolvedRecord) : Prop := i ≤ b ∧ s.firstOf p a i r

/-- What a scan makes of one record index. -/
def State.candidate (s : State) (p : ResolvedPlan) (i : Nat) : Option (Nat × ResolvedRecord) :=
  match p.records[i - 1]? with
  | some r => if s.qualifies r then some (i, r) else none
  | none => none

theorem State.firstQualifying_eq (s : State) (p : ResolvedPlan) (l : List Nat) :
    s.firstQualifying p l = l.findSome? (s.candidate p) := rfl

theorem State.candidate_some {p : ResolvedPlan} {i j : Nat} {r : ResolvedRecord} :
    s.candidate p i = some (j, r) ↔ i = j ∧ p.records[i - 1]? = some r ∧ s.qualifies r = true := by
  unfold State.candidate
  split
  · next x hx =>
    split
    · next h => simp only [Option.some.injEq, Prod.mk.injEq, hx]
                exact ⟨fun ⟨e, k⟩ => ⟨e, k, k ▸ h⟩, fun ⟨e, k, _⟩ => ⟨e, k⟩⟩
    · next h => simp only [reduceCtorEq, hx, Option.some.injEq, false_iff]
                exact fun ⟨_, k, q⟩ => h (k ▸ q)
  · next hx => simp [hx]

theorem State.candidate_none {p : ResolvedPlan} {i : Nat} :
    s.candidate p i = none ↔ ∀ x, p.records[i - 1]? = some x → s.qualifies x = false := by
  unfold State.candidate
  split
  · next x hx => simp [hx]
  · next hx => simp [hx]

/-- The scan over a range of indices finds the first record of it that qualifies. -/
theorem State.firstQualifying_indices (s : State) (p : ResolvedPlan) (a b i : Nat) (r : ResolvedRecord) :
    s.firstQualifying p (indices a b) = some (i, r) ↔ s.FirstIn p a b i r := by
  rw [s.firstQualifying_eq]
  obtain ⟨n, hn⟩ : ∃ n, n = b + 1 - a := ⟨_, rfl⟩
  induction n generalizing a with
  | zero =>
    have e : indices a b = [] := List.eq_nil_iff_forall_not_mem.mpr fun x h => by
      have := mem_indices.mp h; omega
    rw [e]
    exact ⟨fun h => (nomatch h), fun ⟨h, k, _⟩ => by omega⟩
  | succ n ih =>
    rw [indices_cons (by omega), List.findSome?_cons]
    cases c : s.candidate p a with
    | some x =>
      obtain ⟨j, x⟩ := x
      obtain ⟨rfl, hx, q⟩ := State.candidate_some.mp c
      simp only [Option.some.injEq, Prod.mk.injEq]
      constructor
      · rintro ⟨rfl, rfl⟩
        exact ⟨by omega, le_refl _, hx, q, fun j y h k => by omega⟩
      · rintro ⟨le, ge, hr, hq, first⟩
        have : a = i := by
          by_contra ne
          have := first a x (le_refl _) (by omega) hx
          rw [q] at this
          cases this
        subst this
        exact ⟨rfl, Option.some.inj (hx.symm.trans hr)⟩
    | none =>
      have c := State.candidate_none.mp c
      rw [ih (a + 1) (by omega)]
      constructor
      · rintro ⟨le, ge, hr, hq, first⟩
        refine ⟨le, by omega, hr, hq, fun j x h k hx => ?_⟩
        by_cases e : j = a
        · subst e; exact c x hx
        · exact first j x (by omega) k hx
      · rintro ⟨le, ge, hr, hq, first⟩
        have : i ≠ a := by
          rintro rfl
          rw [c r hr] at hq
          cases hq
        exact ⟨le, by omega, hr, hq, fun j x h k hx => first j x (by omega) k hx⟩

theorem State.firstQualifying_none (s : State) (p : ResolvedPlan) (a b : Nat) :
    s.firstQualifying p (indices a b) = none ↔ ∀ i r, ¬ s.FirstIn p a b i r := by
  rw [Option.eq_none_iff_forall_ne_some]
  exact ⟨fun h i r k => h (i, r) ((s.firstQualifying_indices p a b i r).mpr k),
    fun h x k => h x.1 x.2 ((s.firstQualifying_indices p a b x.1 x.2).mp k)⟩

/-- The first record from an index to the end of the plan. -/
theorem State.firstIn_length {p : ResolvedPlan} {a i : Nat} {r : ResolvedRecord} :
    s.FirstIn p a p.records.length i r ↔ s.firstOf p a i r := by
  refine ⟨fun h => h.2, fun h => ⟨?_, h⟩⟩
  obtain ⟨-, hr, -⟩ := h
  have := (List.getElem?_eq_some_iff.mp hr).1
  omega

/-! ### The plan boundary (R53) -/

/-- What a translation by the engine does: a failure is reported and nothing else changes; on success the plan is current with no record, and the set in use and the pending one are as they were. -/
theorem State.translateFor_cases (s : State) (ref : PlanRef) :
    (∃ k, s.inUse.translate ref = .error k ∧ (s.translateFor ref).2 = false ∧ Quiet s (s.translateFor ref).1)
    ∨ (∃ p, s.inUse.translate ref = .ok p ∧ (s.translateFor ref).2 = true
      ∧ (s.translateFor ref).1.engine = { s.engine with plan := some p, record := none }
      ∧ (s.translateFor ref).1.inUse = s.inUse ∧ (s.translateFor ref).1.pendingSet = s.pendingSet) := by
  unfold State.translateFor
  split
  · next k hk => exact .inl ⟨k, hk, rfl, .observe s _⟩
  · next p hp =>
    have q : Quiet s (s.each translationKinds fun k t => t.endCond ⟨.plan p.number, k⟩) :=
      .each (fun k t => .endCond t _) _ s
    refine .inr ⟨p, hp, rfl, ?_, q.inUse, q.pendingSet⟩
    dsimp only
    rw [q.engine]

/-- The taking of a change: it is no longer pending; its plan is current with no record where its reference translates, and the current plan and record stay where it does not. -/
theorem State.takeChange_cases (s : State) (c : PendingChange) :
    (s.takeChange c).1.inUse = s.inUse ∧ (s.takeChange c).1.pendingSet = s.pendingSet
    ∧ ((∃ k, s.inUse.translate c.ref = .error k ∧ (s.takeChange c).2 = false
        ∧ (s.takeChange c).1.engine = { s.engine with change := none })
      ∨ ∃ q, s.inUse.translate c.ref = .ok q ∧ (s.takeChange c).2 = true
        ∧ (s.takeChange c).1.engine = { s.engine with change := none, plan := some q, record := none }) := by
  unfold State.takeChange
  dsimp only
  obtain ⟨k, hk, no, qu⟩ | ⟨q, hq, yes, e, i, p⟩ := State.translateFor_cases
    { s with engine := { s.engine with change := none } } c.ref
  · exact ⟨qu.inUse, qu.pendingSet, .inl ⟨k, hk, no, qu.engine⟩⟩
  · exact ⟨i, p, .inr ⟨q, hq, yes, e⟩⟩

/-- The renewal of the current plan against the set in use: no record is current, and the plan is the one its reference translates to, where it does. -/
theorem State.planRenewed_spec {s : State} {p : ResolvedPlan} (h : s.engine.plan = some p) :
    s.planRenewed.inUse = s.inUse ∧ s.planRenewed.pendingSet = s.pendingSet
    ∧ s.planRenewed.engine.change = s.engine.change ∧ s.planRenewed.engine.record = none
    ∧ ∀ q, s.inUse.translate p.ref = .ok q → s.planRenewed.engine.plan = some q := by
  unfold State.planRenewed
  rw [h]
  dsimp only
  obtain ⟨k, hk, no, qu⟩ | ⟨q, hq, yes, e, i, ps⟩ := s.translateFor_cases p.ref
  · rw [no, if_neg (by decide)]
    generalize (s.translateFor p.ref).1 = u at qu ⊢
    have fails : ∀ q, s.inUse.translate p.ref = .ok q → False := fun q hq => by rw [hk] at hq; cases hq
    obtain ⟨k, -, no, qv⟩ | ⟨b, -, yes, e, i, ps⟩ := u.translateFor_cases baseRef
    · rw [no, if_neg (by decide)]
      have change : (u.translateFor baseRef).1.engine.change = s.engine.change := by rw [qv.engine, qu.engine]
      exact ⟨qv.inUse.trans qu.inUse, qv.pendingSet.trans qu.pendingSet, change, rfl, fun q hq => (fails q hq).elim⟩
    · rw [yes, if_pos rfl]
      refine ⟨i.trans qu.inUse, ps.trans qu.pendingSet, ?_, by rw [e], fun q hq => (fails q hq).elim⟩
      rw [e, qu.engine]
  · rw [yes, if_pos rfl]
    refine ⟨i, ps, by rw [e], by rw [e], fun q' hq' => ?_⟩
    rw [hq] at hq'
    cases hq'
    rw [e]

/-- Step 4 of R44 with a current plan. -/
theorem State.reResolve_spec {s : State} {p : ResolvedPlan} (h : s.engine.plan = some p) :
    s.reResolve.inUse = s.inUse ∧ s.reResolve.pendingSet = s.pendingSet
    ∧ s.reResolve.engine.change = none ∧ s.reResolve.engine.record = none
    ∧ ∀ q, s.inUse.translate ((s.engine.change.map PendingChange.ref).getD p.ref) = .ok q →
      s.reResolve.engine.plan = some q := by
  rw [s.reResolve_eq]
  unfold State.changeTaken
  cases hc : s.engine.change with
  | none =>
    dsimp only
    rw [if_neg (by decide)]
    obtain ⟨i, ps, c, r, t⟩ := State.planRenewed_spec h
    exact ⟨i, ps, c.trans hc, r, t⟩
  | some c =>
    dsimp only
    obtain ⟨i, ps, ⟨k, hk, no, e⟩ | ⟨q, hq, yes, e⟩⟩ := s.takeChange_cases c
    · rw [no, if_neg (by decide)]
      obtain ⟨i', ps', c', r', -⟩ := State.planRenewed_spec (s := (s.takeChange c).1) (p := p) (by rw [e]; exact h)
      refine ⟨i'.trans i, ps'.trans ps, by rw [c', e], r', fun q hq => ?_⟩
      have : s.inUse.translate c.ref = .ok q := hq
      rw [hk] at this
      cases this
    · rw [yes, if_pos rfl]
      refine ⟨i, ps, by rw [e], by rw [e], fun q' hq' => ?_⟩
      have : s.inUse.translate c.ref = .ok q' := hq'
      rw [hq] at this
      cases this
      rw [e]

/-- Adoption outside its last step: the pending set is in use with its void marks, and the engine is as it was (R44). -/
theorem State.adoptSet_spec (s : State) (x : PendingSet) :
    (s.adoptSet x).inUse = x.set.setVoids s.work ∧ (s.adoptSet x).pendingSet = none ∧ (s.adoptSet x).engine = s.engine := by
  have q : ∀ t : State, Quiet t ((t.each (t.faults.confirmed.filter Cond.translation) fun k t => t.endCond k).judgeUsable) :=
    fun t => .of (.judgeUsable _) (.each (fun k t => .endCond t k) _ t)
  have h := q { s with inUse := x.set.setVoids s.work, pendingSet := none }
  exact ⟨h.inUse, h.pendingSet, h.engine⟩

theorem State.crossBoundary_none (h : s.pendingSet = none) (k : s.engine.change = none) : s.crossBoundary = (s, false) := by
  unfold State.crossBoundary
  rw [h]
  dsimp only
  rw [k]

/-- A decision that crosses the plan boundary with a change pending (R65). -/
theorem State.crossBoundary_change {c : PendingChange} (h : s.pendingSet = none) (k : s.engine.change = some c) :
    (∃ e, s.inUse.translate c.ref = .error e ∧ s.crossBoundary.2 = false
      ∧ s.crossBoundary.1.engine = { s.engine with change := none })
    ∨ ∃ q, s.inUse.translate c.ref = .ok q ∧ s.crossBoundary.2 = true
      ∧ s.crossBoundary.1.engine = { s.engine with change := none, plan := some q, record := none } := by
  have e : s.crossBoundary = if (s.takeChange c).2 then ((s.takeChange c).1.planChanged c.origin.cause none, true)
      else ((s.takeChange c).1, false) := by
    unfold State.crossBoundary
    rw [h]
    dsimp only
    rw [k]
  obtain ⟨-, -, ⟨x, hx, no, en⟩ | ⟨q, hq, yes, en⟩⟩ := s.takeChange_cases c
  · rw [no, if_neg (by decide)] at e
    rw [e]
    exact .inl ⟨x, hx, rfl, en⟩
  · rw [yes, if_pos rfl] at e
    rw [e]
    exact .inr ⟨q, hq, rfl, (Quiet.notify _ _).engine.trans en⟩

/-- A decision that crosses the plan boundary with a set pending (R44). -/
theorem State.crossBoundary_set {x : PendingSet} {p : ResolvedPlan} (h : s.pendingSet = some x)
    (k : s.engine.plan = some p) :
    let v := s.crossBoundary.1
    s.crossBoundary.2 = true ∧ v.pendingSet = none ∧ v.inUse = x.set.setVoids s.work ∧ v.engine.change = none
      ∧ v.engine.record = none
      ∧ ∀ q, v.inUse.translate ((s.engine.change.map PendingChange.ref).getD p.ref) = .ok q → v.engine.plan = some q := by
  have e : s.crossBoundary = ((s.adoptSet x).reResolve.planChanged .setAdopted (some x.generation), true) := by
    unfold State.crossBoundary
    rw [h]
  obtain ⟨i, ps, en⟩ := s.adoptSet_spec x
  obtain ⟨i', ps', c, r, t⟩ := State.reResolve_spec (s := s.adoptSet x) (p := p) (by rw [en]; exact k)
  have q : Quiet (s.adoptSet x).reResolve ((s.adoptSet x).reResolve.planChanged .setAdopted (some x.generation)) :=
    .notify _ _
  rw [e]
  dsimp only
  rw [q.engine, q.inUse, q.pendingSet, ← en]
  exact ⟨rfl, ps'.trans ps, i'.trans i, c, r, fun y hy => t y (i' ▸ hy)⟩

/-- Where crossing the boundary has made a plan current no record is. -/
theorem State.crossBoundary_record {p : ResolvedPlan} (k : s.engine.plan = some p) (h : s.crossBoundary.2 = true) :
    s.crossBoundary.1.engine.record = none := by
  cases hs : s.pendingSet with
  | some x =>
    obtain ⟨-, -, -, -, r, -⟩ := State.crossBoundary_set hs k
    exact r
  | none =>
    cases hc : s.engine.change with
    | none => rw [State.crossBoundary_none hs hc] at h; cases h
    | some c =>
      obtain ⟨x, -, no, -⟩ | ⟨q, -, -, e⟩ := State.crossBoundary_change hs hc
      · rw [no] at h; cases h
      · rw [e]

/-! ### The outcome of the scan (R52, R53) -/

theorem Engine.scanOrder_eq {e : Engine} {p : ResolvedPlan} {first last : Nat}
    (h : (∃ cur, e.record = some cur ∧ first = cur + 1 ∧ last = cur)
      ∨ (e.record = none ∧ first = p.start ∧ last = p.start - 1)) :
    e.scanOrder p = (indices first p.records.length, indices 1 last) := by
  unfold Engine.scanOrder
  obtain ⟨cur, r, rfl, rfl⟩ | ⟨r, rfl, rfl⟩ := h <;> rw [r]

theorem indices_isEmpty (n : Nat) : (indices 1 n).isEmpty = decide (n = 0) := by
  unfold indices
  cases n <;> simp

section
variable {p : ResolvedPlan} {first last : Nat} (k : s.engine.plan = some p)
  (o : s.engine.scanOrder p = (indices first p.records.length, indices 1 last))
include k o

/-- The scan takes the first qualifying record from its index on. -/
theorem State.scanPlan_found {x : Nat × ResolvedRecord}
    (h : s.firstQualifying p (indices first p.records.length) = some x) : s.scanPlan = (s, some x) := by
  unfold State.scanPlan
  rw [k]
  dsimp only
  rw [o]
  dsimp only
  rw [h]

section
variable (h : s.firstQualifying p (indices first p.records.length) = none)
include h

/-- Past the last record the scan ends where no record is left before its index. -/
theorem State.scanPlan_ended (z : last = 0) : s.scanPlan = (s, none) := by
  unfold State.scanPlan
  rw [k]
  dsimp only
  rw [o]
  dsimp only
  rw [h]
  dsimp only
  rw [if_pos (by rw [indices_isEmpty]; exact decide_eq_true z)]

/-- Past the last record the scan goes on to the records before its index, where the plan boundary has made no plan current. -/
theorem State.scanPlan_same (z : last ≠ 0) (c : s.crossBoundary.2 = false) :
    s.scanPlan = (s.crossBoundary.1, s.crossBoundary.1.firstQualifying p (indices 1 last)) := by
  unfold State.scanPlan
  rw [k]
  dsimp only
  rw [o]
  dsimp only
  rw [h]
  dsimp only
  rw [if_neg (by rw [indices_isEmpty]; simpa using z), if_neg (by rw [c]; decide)]

/-- A plan that the plan boundary has made current is scanned from its start index and around. -/
theorem State.scanPlan_fresh {q : ResolvedPlan} (z : last ≠ 0) (c : s.crossBoundary.2 = true)
    (hq : s.crossBoundary.1.engine.plan = some q) :
    s.scanPlan = (s.crossBoundary.1, s.crossBoundary.1.firstQualifying q
      ((s.crossBoundary.1.engine.scanOrder q).1 ++ (s.crossBoundary.1.engine.scanOrder q).2)) := by
  unfold State.scanPlan
  rw [k]
  dsimp only
  rw [o]
  dsimp only
  rw [h]
  dsimp only
  rw [if_neg (by rw [indices_isEmpty]; simpa using z), if_pos c, hq]

/-- Where the plan boundary has left no plan current no record is taken. -/
theorem State.scanPlan_lost (z : last ≠ 0) (c : s.crossBoundary.2 = true) (hq : s.crossBoundary.1.engine.plan = none) :
    s.scanPlan = (s.crossBoundary.1, none) := by
  unfold State.scanPlan
  rw [k]
  dsimp only
  rw [o]
  dsimp only
  rw [h]
  dsimp only
  rw [if_neg (by rw [indices_isEmpty]; simpa using z), if_pos c, hq]

end

end

end Sys2Proof.Machine

/-! SUPPORT. What is made of the record a decision takes (R47, R54, R56), and the decision as a whole (R49 to R54). -/

namespace Sys2Proof.Machine

variable {s t w : State} {r : ResolvedRecord} {g : Group}

/-! ### The times of a gaining group (R21, R22) -/

/-- What is left of a group's timing in a state after the greens outside a record have ended: the groups that hold it back stand as they do in s after that end. -/
structure State.TimesAs (s : State) (r : ResolvedRecord) (g : Group) (w : State) : Prop where
  now  : w.now = s.now
  work : w.work = s.work
  own  : w.groups[g] = s.groups[g]
  back : ∀ (i : Group) (ig : Nat), s.work.ig[i][g] = some ig →
    (w.groups[i]).greenMark = (s.groups[i]).greenMark ∧ (w.groups[i]).lastGreenOff = s.greenOff r i

/-- The green-release time is the latest of the times of R21. -/
theorem State.TimesAs.releasesAt (h : s.TimesAs r g w) : s.ReleasesAt r g (w.releaseTime g) := by
  obtain ⟨now, behind⟩ := w.releaseTime_ge g
  refine ⟨?_, fun y hy => ?_⟩
  · rcases w.releaseTime_cases g with e | ⟨i, ig, off, c, o, m, e⟩ | ⟨a, t⟩
    · exact .inl (e.trans h.now)
    · rw [h.work] at c
      obtain ⟨hm, ho⟩ := h.back i ig c
      exact .inr (.inl ⟨i, ig, off, c, hm ▸ m, ho ▸ o, e⟩)
    · rw [h.own] at a t
      exact .inr (.inr ⟨a, t⟩)
  · rcases hy with rfl | ⟨i, ig, off, c, m, o, rfl⟩ | ⟨a, t⟩
    · exact h.now ▸ now
    · obtain ⟨hm, ho⟩ := h.back i ig c
      exact behind i ig off (h.work ▸ c) (hm.trans m) (ho.trans o)
    · rw [← h.own] at a t
      exact State.amber_le_releaseTime a t

/-- The red-amber start is the latest of the times of R22. -/
theorem State.TimesAs.redAmberAt (h : s.TimesAs r g w) (x : Nat) : s.RedAmberAt g x (w.redAmberTime g x) := by
  unfold State.redAmberTime
  rw [h.work, h.now, h.own]
  dsimp only
  split
  · next v =>
    unfold tenths
    refine ⟨v, ?_, fun z hz => ?_⟩
    · show _ ∨ _ ∨ _
      split
      · next a =>
        cases am : (s.groups[g]).amberTimer with
        | none =>
          simp only [Option.getD_none, reduceCtorEq, and_false, or_false]
          omega
        | some e =>
          simp only [Option.getD_some, a, true_and, Option.some.injEq]
          omega
      · omega
    · rcases hz with h | h | ⟨a, h⟩
      · split <;> omega
      · split <;> omega
      · rw [if_pos a, h, Option.getD_some]
        omega
  · next v => exact v

/-- The state in which a group has become gaining, before it is taken on (R19). -/
def State.madeGaining (s : State) (g : Group) (n : Nat) (o : Option Nat) : State :=
  ((s.updGroup g fun r => { r with pendingGreen := true, greenRelease := some n, redAmberStart := o }).surveyPending
    g).wantSelection

theorem State.setGaining_eq (s : State) (g : Group) (n : Nat) (o : Option Nat) :
    s.setGaining g n o = (s.madeGaining g n o).advanceGroup g := rfl

theorem State.madeGaining_spec (s : State) (g : Group) (n : Nat) (o : Option Nat) :
    (s.madeGaining g n o).groups[g]
        = { s.groups[g] with pendingGreen := true, greenRelease := some n, redAmberStart := o }
      ∧ (s.madeGaining g n o).now = s.now ∧ (s.madeGaining g n o).ev.freed = s.ev.freed := by
  have k := (Touches.updGroup s g fun r => { r with pendingGreen := true, greenRelease := some n, redAmberStart := o }).trans
    (.surveyPending _ g)
  refine ⟨?_, k.now, k.freed⟩
  unfold State.madeGaining
  rw [State.wantSelection_groups, State.surveyPending_groups, State.updGroup_get_same]

/-- What a change to the groups of a record makes of a gaining group (R19, R21, R22, R56). -/
theorem State.TimesAs.gains (h : s.TimesAs r g w) (f : w.ev.freed = s.ev.freed)
    (e : t.groups[g] = (w.gain false g).groups[g]) : s.Gains t r g := by
  refine ⟨w.releaseTime g, w.redAmberTime g (w.releaseTime g), h.releasesAt, h.redAmberAt _, ?_⟩
  have start : ∀ y, w.redAmberTime g (w.releaseTime g) = some y → s.now ≤ y := fun y hy => by
    have := h.redAmberAt (w.releaseTime g)
    rw [hy] at this
    exact this.2.2 (.inl rfl)
  have gain : w.gain false g = (w.madeGaining g (w.releaseTime g) (w.redAmberTime g (w.releaseTime g))).advanceGroup g := by
    unfold State.gain
    rw [if_neg (by decide), State.setGaining_eq]
  rw [gain] at e
  obtain ⟨get, now, freed⟩ := w.madeGaining_spec g (w.releaseTime g) (w.redAmberTime g (w.releaseTime g))
  rw [h.own] at get
  rw [h.now] at now
  rw [f] at freed
  generalize w.redAmberTime g (w.releaseTime g) = o at e get now freed start ⊢
  generalize w.releaseTime g = x at e get now freed ⊢
  generalize w.madeGaining g x o = u at e get now freed
  have pending : (u.groups[g]).pendingGreen = true := by rw [get]
  have release : (u.groups[g]).greenRelease = some x := by rw [get]
  have aspect : (u.groups[g]).aspect = (s.groups[g]).aspect := by rw [get]
  have begin' : (u.groups[g]).redAmberStart = o := by rw [get]
  dsimp only
  rw [e, ← get]
  refine ⟨fun c => ?_, fun a n => ?_, fun a n b => ?_⟩
  · rcases c with a | ⟨n, b⟩
    · rw [State.advanceGroup_amber (aspect.trans a)]
    · rw [State.advanceGroup_waits release (now ▸ n)]
      refine .inr ?_
      rw [begin', now]
      cases o with
      | none => exact .inl rfl
      | some y =>
        refine .inr ⟨y, rfl, Nat.lt_of_le_of_ne (start y rfl) fun k => b (by rw [k])⟩
  · rw [State.advanceGroup_green pending (by rw [aspect]; exact a) release (by rw [now]; exact n.le), freed]
    split
    · rfl
    · exact State.giveGreen_get u g
  · have shown := State.advanceGroup_redAmber_get pending (aspect.trans a) release (now ▸ n) (begin'.trans b) now.ge
    rw [get] at shown
    exact shown

/-! ### The stage change (R19, R56) -/

/-- The engine of a stage change that has been opened. -/
theorem State.changeOpened_engine (s : State) (i : Nat) (r : ResolvedRecord) : (s.changeOpened i r).engine =
    { s.engine with greenTimer := none, maxTimer := none, gapTimer := none, gapped := false, state := .changing
                    record := some i, stage := some (r.stage.val + 1), prevStage := some s.engine.inForce } := by
  unfold State.changeOpened
  dsimp only
  split <;> rfl

/-- What the opened change makes of the groups, by the end of the greens outside it. -/
theorem State.changeCleared_groups (s : State) (i : Nat) (r : ResolvedRecord) (g : Group) :
    (¬ ((s.groups[g]).aspect = .green ∧ r.groups[g] = false) → (s.changeCleared i r).groups[g] = s.groups[g])
    ∧ ((s.groups[g]).aspect = .green → r.groups[g] = false → ((s.changeCleared i r).groups[g]).aspect ≠ .green
      ∧ ((s.changeCleared i r).groups[g]).lastGreenOff = some s.now
      ∧ ((s.changeCleared i r).groups[g]).greenMark = (s.groups[g]).greenMark) := by
  obtain ⟨og, ow, -, on, -⟩ := s.changeOpened_frame i r
  obtain ⟨-, -, -, -, -, -, -, k⟩ := State.each_touches (f := fun g t => t.endGreen g) (fun g t => .endGreen t g)
    ((s.changeOpened i r).losing r) (s.changeOpened i r) (fun _ => True) trivial (fun _ _ _ _ => trivial)
    (State.losing_nodup _ r)
  have mem : g ∈ (s.changeOpened i r).losing r ↔ (s.groups[g]).aspect = .green ∧ r.groups[g] = false := by
    rw [State.mem_losing, og]
  refine ⟨fun n => ?_, fun a b => ?_⟩
  · have := (k g).1 (fun m => n (mem.mp m))
    rw [og] at this
    exact this
  · obtain ⟨u, -, ug, -, -, un, -, e⟩ := (k g).2 (mem.mpr ⟨a, b⟩)
    obtain ⟨f, eq, as, am, fr, ng, -⟩ := u.endGreen_spec g
    have e : (s.changeCleared i r).groups[g] = (u.endGreen g).groups[g] := e
    rw [e, eq, State.mark_groups, State.updGroup_get_same, fr]
    refine ⟨ng, ?_, ?_⟩
    · dsimp only; rw [un, on]
    · dsimp only; rw [ug, og]

theorem State.changeCleared_frame (s : State) (i : Nat) (r : ResolvedRecord) :
    (s.changeCleared i r).engine = (s.changeOpened i r).engine ∧ (s.changeCleared i r).work = s.work
      ∧ (s.changeCleared i r).now = s.now ∧ (s.changeCleared i r).ev.freed = s.ev.freed := by
  obtain ⟨-, ow, -, on, -, of⟩ := s.changeOpened_frame i r
  obtain ⟨en, w, -, n, -, f, -⟩ := State.each_touches (f := fun g t => t.endGreen g) (fun g t => .endGreen t g)
    ((s.changeOpened i r).losing r) (s.changeOpened i r) (fun _ => True) trivial (fun _ _ _ _ => trivial)
    (State.losing_nodup _ r)
  exact ⟨en, w.trans ow, n.trans on, f.trans of⟩

/-- The groups of a change that gain are those of the record, not GREEN, that are green-eligible. -/
theorem State.mem_changeGainers {i : Nat} : g ∈ (s.changeCleared i r).gainers r ↔
    (s.groups[g]).aspect ≠ .green ∧ r.groups[g] = true ∧ s.MayGain g := by
  have eligible : r.groups[g] = true → ((s.changeCleared i r).groups[g] = s.groups[g]
      ∧ ((s.changeCleared i r).eligible g = s.eligible g)) := fun h => by
    have e := ((s.changeCleared_groups i r g).1 fun k => by rw [h] at k; cases k.2)
    refine ⟨e, ?_⟩
    unfold State.eligible
    rw [e, (s.changeCleared_frame i r).2.1]
  rw [State.mem_gainers]
  constructor
  · rintro ⟨h, a, e⟩
    obtain ⟨eg, ee⟩ := eligible h
    rw [eg] at a
    rw [ee] at e
    exact ⟨a, h, (s.eligible_iff g).mp e⟩
  · rintro ⟨a, h, m⟩
    obtain ⟨eg, ee⟩ := eligible h
    rw [eg, ee]
    exact ⟨h, a, (s.eligible_iff g).mpr m⟩

/-- A stage change toward another stage than the one in force. -/
theorem State.takes_beginChange {i : Nat} (n : s.engine.inForce ≠ r.stage.val + 1) :
    s.Takes (s.beginChange i r false) i r := by
  obtain ⟨ce, cw, cn, cf⟩ := s.changeCleared_frame i r
  have groups := s.changeCleared_groups i r
  have gainer := fun g => State.mem_changeGainers (s := s) (r := r) (g := g) (i := i)
  obtain ⟨en, -, -, -, -, -, keep, k⟩ := State.each_touches (f := State.gain false) (Touches.gain false)
    ((s.changeCleared i r).gainers r) ((s.changeCleared i r).holdGaining ((s.changeCleared i r).gainers r))
    (fun t => ∀ d : Group, r.groups[d] = false → t.groups[d] = (s.changeCleared i r).groups[d])
    (fun d _ => by rw [State.holdGaining_groups])
    (fun g m t p d hd => ((Touches.gain false g t).others d fun e => by
      subst e
      rw [(State.mem_gainers.mp m).1] at hd
      cases hd).trans (p d hd)) (State.gainers_nodup _ r)
  have eng : (s.beginChange i r false).engine = { s.engine with
      greenTimer := none, maxTimer := none, gapTimer := none, gapped := false, state := .changing
      record := some i, stage := some (r.stage.val + 1), prevStage := some s.engine.inForce
      gaining := Vector.ofFn fun g => decide (g ∈ (s.changeCleared i r).gainers r) } := by
    rw [s.beginChange_eq, State.mark_engine, en]
    unfold State.holdGaining
    dsimp only
    rw [ce, s.changeOpened_engine]
  have out : ∀ g, g ∉ (s.changeCleared i r).gainers r → (s.beginChange i r false).groups[g]
      = (s.changeCleared i r).groups[g] := fun g m => by
    rw [s.beginChange_eq, State.mark_groups, (k g).1 m, State.holdGaining_groups]
  refine ⟨by rw [eng], by rw [eng], by rw [eng], fun e => (n e).elim, fun _ => ⟨by rw [eng], by rw [eng], by rw [eng],
    by rw [eng], fun g => ?_, fun g a h => ?_, fun g a h => ?_, fun peace g a h m => ?_, fun g a h => ?_⟩⟩
  · rw [← gainer g, eng]
    simp
  · have m : g ∉ (s.changeCleared i r).gainers r := fun m => ((gainer g).mp m).1 a
    obtain ⟨ng, off, -⟩ := (groups g).2 a h
    rw [out g m]
    exact ⟨ng, off⟩
  · rw [out g fun m => ((gainer g).mp m).1 a]
    exact (groups g).1 fun k => by rw [h] at k; cases k.2
  · obtain ⟨w, kept, wg, -, ww, wn, wf, e⟩ := (k g).2 ((gainer g).mpr ⟨a, h, m⟩)
    refine State.TimesAs.gains (w := w) ⟨?_, ?_, ?_, fun j ig c => ?_⟩ ?_ ?_
    · rw [wn, State.holdGaining_now]; exact cn
    · rw [ww, State.holdGaining_work]; exact cw
    · rw [wg, State.holdGaining_groups]
      exact (groups g).1 fun k => a k.1
    · have own : w.groups[g] = s.groups[g] := by
        rw [wg, State.holdGaining_groups]
        exact (groups g).1 fun k => a k.1
      unfold State.greenOff
      by_cases d : j = g
      · subst d
        rw [own, if_neg fun k => a k.1]
        exact ⟨rfl, rfl⟩
      · have jr : r.groups[j] = false := by
          by_contra y
          have := peace j g d (by simpa using y) h
          unfold Settings.conflict at this
          rw [c] at this
          cases this
        rw [kept j jr]
        by_cases gr : (s.groups[j]).aspect = .green
        · rw [if_pos ⟨gr, jr⟩]
          obtain ⟨-, off, mk⟩ := (groups j).2 gr jr
          exact ⟨mk, off⟩
        · rw [if_neg fun k => gr k.1, (groups j).1 fun k => gr k.1]
          exact ⟨rfl, rfl⟩
    · rw [wf, State.holdGaining_ev]; exact cf
    · rw [s.beginChange_eq, State.mark_groups]
      exact e
  · have m : g ∉ (s.changeCleared i r).gainers r := fun m => by
      obtain ⟨-, y, z⟩ := (gainer g).mp m
      rcases h with h | h
      · rw [h] at y; cases y
      · exact h z
    rw [out g m]
    exact (groups g).1 fun k => a k.1

/-! ### A new green period, and no record (R47, R54) -/

/-- The green period of a record is in force, but for its gap timer. -/
def State.greenBegun (s : State) (i : Nat) (r : ResolvedRecord) : State :=
  let s := s.stopTimers.engineTo .green
  { s with engine := { s.engine.changeOver with
    record := some i, stage := some (r.stage.val + 1)
    greenTimer := some (s.now + tenths r.min), demands := s.engine.demands.set r.stage false } }

/-- The gap timer of a green period under an ACTUATED plan (R50). -/
def State.gapBegun (s : State) (k : PlanKind) (r : ResolvedRecord) : State :=
  if k = .fixed then s else if s.occupied[r.stage] then s.stopGap else s.startGap r.gap

theorem State.beginGreen_eq (s : State) (k : PlanKind) (i : Nat) (r : ResolvedRecord) :
    s.beginGreen k i r = ((s.greenBegun i r).gapBegun k r).mark := by
  unfold State.beginGreen State.greenBegun State.gapBegun
  rfl

theorem State.gapBegun_spec (s : State) (k : PlanKind) (r : ResolvedRecord) : (s.gapBegun k r).groups = s.groups
    ∧ ∃ x b, (s.gapBegun k r).engine = { s.engine with gapTimer := x, gapped := b } := by
  unfold State.gapBegun State.stopGap State.startGap
  split
  · exact ⟨rfl, _, _, rfl⟩
  · split
    · exact ⟨rfl, _, _, rfl⟩
    · split <;> exact ⟨rfl, _, _, rfl⟩

/-- A new green period of the stage in force. -/
theorem State.takes_beginGreen (k : PlanKind) {i : Nat} (h : s.engine.inForce = r.stage.val + 1) :
    s.Takes (s.beginGreen k i r) i r := by
  have ue : (s.greenBegun i r).engine = { s.engine.changeOver with
      state := .green, record := some i, stage := some (r.stage.val + 1), greenTimer := some (s.now + 100 * r.min)
      maxTimer := none, gapTimer := none, gapped := false, demands := s.engine.demands.set r.stage false } := rfl
  obtain ⟨gg, x, b, ge⟩ := (s.greenBegun i r).gapBegun_spec k r
  have grp : ((s.greenBegun i r).gapBegun k r).groups = s.groups := gg
  rw [ue] at ge
  unfold State.Takes
  rw [s.beginGreen_eq, State.mark_engine, State.mark_groups, ge, grp]
  exact ⟨rfl, rfl, rfl, fun _ => ⟨rfl, rfl, rfl, fun g => by simp [Engine.changeOver], rfl, rfl⟩, fun n => (n h).elim⟩

theorem State.someGreen_iff (s : State) (st : Nat) :
    s.someGreen st = true ↔ ∃ g : Group, (s.stageGroups st)[g] = true ∧ (s.groups[g]).aspect = .green := by
  unfold State.someGreen
  simp only [List.any_eq_true, Bool.and_eq_true, beq_iff_eq]
  exact ⟨fun ⟨g, _, h⟩ => ⟨g, h⟩, fun ⟨g, h⟩ => ⟨g, mem_allGroups g, h⟩⟩

/-- What a decision makes of a scan that found no record. -/
def State.noneTaken (s : State) : State :=
  let s := s.stopTimers
  if s.someGreen (s.engine.stage.getD 0) then
    let s := s.engineTo .resting
    State.mark { s with engine := s.engine.changeOver }
  else
    let old := s.engine.inForce
    let s := if old = 0 then s else { s with ev := { s.ev with leftForce := s.ev.leftForce ++ [old] } }
    s.toAllRed

theorem State.takesNone_noneTaken (s : State) : s.TakesNone s.noneTaken := by
  have green := s.someGreen_iff (s.engine.stage.getD 0)
  unfold State.noneTaken
  dsimp only
  split
  · next h =>
    have h : s.someGreen (s.engine.stage.getD 0) = true := h
    refine ⟨rfl, rfl, rfl, rfl, rfl, rfl, rfl, fun g => by simp [Engine.changeOver, State.mark, State.engineTo],
      fun _ => ⟨rfl, rfl⟩, fun n => ?_⟩
    obtain ⟨g, a, b⟩ := green.mp h
    exact (n g a b).elim
  · next h =>
    have h : ¬ s.someGreen (s.engine.stage.getD 0) = true := h
    have leave : ∀ u : State, u.engine = s.stopTimers.engine → u.groups = s.groups → s.TakesNone u.toAllRed := by
      intro u e g
      have eng : u.toAllRed.engine = { u.engine.changeOver with state := .allRed, stage := some 0 } := rfl
      have grp : u.toAllRed.groups = u.groups := rfl
      generalize u.toAllRed = v at eng grp ⊢
      rw [e] at eng
      unfold State.TakesNone
      rw [eng, grp, g]
      exact ⟨rfl, rfl, rfl, rfl, rfl, rfl, rfl, fun g => by simp [Engine.changeOver],
        fun k => (h (green.mpr k)).elim, fun _ => ⟨rfl, rfl⟩⟩
    refine leave _ ?_ ?_
    · split <;> rfl
    · split <;> rfl

/-! ### The decision -/

/-- A decision of an engine that has a plan and is not barred is the outcome of its scan. -/
theorem State.takeDecision_of_scan {p : ResolvedPlan} (h : s.engine.plan = some p) (b : s.engine.barred = false)
    {v : State} :
    (∀ i r, s.scanPlan = (v, some (i, r)) → v.Takes s.takeDecision i r)
    ∧ (s.scanPlan = (v, none) → v.TakesNone s.takeDecision) := by
  have e : s.takeDecision = match s.scanPlan.2 with
      | some (i, r) =>
        if s.scanPlan.1.engine.inForce = r.stage.val + 1 then
          s.scanPlan.1.beginGreen ((s.scanPlan.1.engine.plan.map (·.kind)).getD .fixed) i r
        else s.scanPlan.1.beginChange i r false
      | none => s.scanPlan.1.noneTaken := by
    unfold State.takeDecision
    rw [if_neg (by rw [b]; decide), h]
    rfl
  constructor
  · intro i r k
    rw [k] at e
    dsimp only at e
    rw [e]
    split
    · next f => exact State.takes_beginGreen _ f
    · next f => exact State.takes_beginChange f
  · intro k
    rw [k] at e
    dsimp only at e
    rw [e]
    exact State.takesNone_noneTaken v

/-- Settles O44, by the scan's outcome in each of its cases and what a decision makes of it. -/
theorem decision : Obligations.Decision := by
  refine ⟨fun s r => s.qualifies_iff r, fun s p first last hp hb ho => ?_⟩
  have o := Engine.scanOrder_eq ho
  have out := fun v => State.takeDecision_of_scan hp hb (v := v)
  refine ⟨fun i r f => ?_, fun n => ?_⟩
  · exact (out s).1 i r <|
      State.scanPlan_found hp o ((s.firstQualifying_indices p first _ i r).mpr (State.firstIn_length.mpr f))
  · have h := (s.firstQualifying_none p first _).mpr fun i r f => n i r (State.firstIn_length.mp f)
    refine ⟨fun z => (out s).2 (State.scanPlan_ended hp o h z), fun z => ?_⟩
    · have z : last ≠ 0 := by omega
      refine ⟨fun c => ?_, fun q c hq => ?_, fun c hq => ?_, State.crossBoundary_none, fun c a b => ?_, fun x hx => ?_⟩
      · have scan := State.scanPlan_same hp o h z c
        refine ⟨fun i r le f => ?_, fun n => ?_⟩
        · rw [(State.firstQualifying_indices _ p 1 last i r).mpr ⟨le, f⟩] at scan
          exact (out _).1 i r scan
        · rw [(State.firstQualifying_none _ p 1 last).mpr fun i r f => n i r f.1 f.2] at scan
          exact (out _).2 scan
      · have scan := State.scanPlan_fresh hp o h z c hq
        have o := Engine.scanOrder_eq (e := s.crossBoundary.1.engine) (p := q)
          (.inr ⟨State.crossBoundary_record hp c, rfl, rfl⟩)
        rw [o] at scan
        dsimp only at scan
        rw [State.firstQualifying_eq, List.findSome?_append, ← State.firstQualifying_eq, ← State.firstQualifying_eq]
          at scan
        refine ⟨fun i r f => ?_, fun n => ⟨fun i r lt f => ?_, fun m => ?_⟩⟩
        · rw [(State.firstQualifying_indices _ q q.start _ i r).mpr (State.firstIn_length.mpr f)] at scan
          exact (out _).1 i r scan
        · rw [(State.firstQualifying_none _ q q.start _).mpr fun i r f => n i r (State.firstIn_length.mp f),
            (State.firstQualifying_indices _ q 1 (q.start - 1) i r).mpr ⟨by omega, f⟩] at scan
          exact (out _).1 i r scan
        · rw [(State.firstQualifying_none _ q q.start _).mpr fun i r f => n i r (State.firstIn_length.mp f),
            (State.firstQualifying_none _ q 1 (q.start - 1)).mpr fun i r f =>
              m i r (by have := f.1; have := f.2.1; omega) f.2] at scan
          exact (out _).2 scan
      · exact (out _).2 (State.scanPlan_lost hp o h z c hq)
      · obtain ⟨e, he, no, en⟩ | ⟨q, hq, yes, en⟩ := State.crossBoundary_change a b
        · rw [en]
          refine ⟨rfl, fun q hq => ?_, fun _ _ => ⟨no, hp, rfl⟩⟩
          rw [he] at hq
          cases hq
        · rw [en]
          refine ⟨rfl, fun q' hq' => ?_, fun k hk => ?_⟩
          · rw [hq] at hq'
            cases hq'
            exact ⟨yes, rfl, rfl⟩
          · rw [hq] at hk
            cases hk
      · exact State.crossBoundary_set hx hp

end Sys2Proof.Machine

/-! SUPPORT. The requests that write the edit copy: which field values pass their checks, and how such a request is answered (R2, R10, R87, R117, R138, R161, R165, R177). -/

namespace Sys2Proof.Machine

variable {s : State}

/-! ### A request taken in its own event (R176) -/

/-- A request that is taken in its own event is answered from its slot at the end of that event. -/
theorem State.takes_arrive (h : s.takes) (i : Instr) (act : State → Answer) :
    s.arrive i act false = (act s).1.replied (requestTag i) (act s).2.1 (act s).2.2 := by
  obtain ⟨l, q, k⟩ := h
  exact (s.arrive_spec i act false).2.2 l q k

/-! ### The gate (R2) -/

theorem State.editWith_value {α : Type} {x : Option α} {a : α} (f : α → Answer) (h : x = some a) (e : s.editable) :
    s.editWith x f = f a := by
  unfold State.editWith
  rw [h]
  dsimp only
  rw [s.editGate_none_iff.mpr e]

theorem State.editWith_refusedValue {α : Type} {x : Option α} (f : α → Answer) (h : x.isSome = false) :
    s.editWith x f = s.refuse .refusedValue := by
  cases x with
  | none => rfl
  | some a => cases h

theorem State.editWith_refusedMode {α : Type} {x : Option α} (f : α → Answer) (h : x.isSome = true)
    (m : s.mode.mode ≠ .unconfigured) (n : s.mode.mode ≠ .standby) : s.editWith x f = s.refuse .refusedMode := by
  obtain ⟨a, rfl⟩ := Option.isSome_iff_exists.mp h
  unfold State.editWith State.editGate
  rw [if_pos ⟨m, n⟩]

theorem State.editWith_refusedBusy {α : Type} {x : Option α} (f : α → Answer) (h : x.isSome = true)
    (m : s.mode.mode = .unconfigured ∨ s.mode.mode = .standby) (j : s.hasJob .commitConfig = true) :
    s.editWith x f = s.refuse .refusedBusy := by
  obtain ⟨a, rfl⟩ := Option.isSome_iff_exists.mp h
  unfold State.editWith State.editGate
  rw [if_neg fun ⟨a, b⟩ => m.elim a b, if_pos j]

/-- A write whose fields pass their checks is made where the edit copy may be written. -/
theorem State.arrive_edits {α : Type} {x : Option α} {a : α} {f : α → Answer} {act : State → Answer} (i : Instr)
    (t : s.takes) (e : s.editable) (h : x = some a) (k : act s = s.editWith x f) :
    s.arrive i act false = (f a).1.replied (requestTag i) (f a).2.1 (f a).2.2 := by
  rw [State.takes_arrive t, k, State.editWith_value f h e]

/-! ### The checks -/

theorem within_iff {lo hi x : Nat} : within lo hi x = true ↔ lo ≤ x ∧ x ≤ hi := by
  simp [within]

theorem index?_isSome {n x : Nat} : (index? n x).isSome = true ↔ 1 ≤ x ∧ x ≤ n := by
  unfold index?
  split <;> simp [*]

theorem index?_succ {n : Nat} (i : Fin n) : index? n (i.val + 1) = some i := by
  unfold index?
  rw [dif_pos ⟨by omega, by omega⟩]
  rfl

theorem both_isSome {α β : Type} {x : Option α} {y : Option β} :
    (both x y).isSome = true ↔ x.isSome = true ∧ y.isSome = true := by
  cases x <;> cases y <;> simp [both]

theorem lampsOk_iff {t : GroupType} {k : Fin 3} {n : Nat} :
    lampsOk t k n = true ↔ (typeUses t k = true → 1 ≤ n ∧ n ≤ 4) := by
  unfold lampsOk
  cases typeUses t k <;> simp [within_iff]

/-- The record that a SET_GROUP leaves in the edit copy (R2). -/
def groupRecord (f : GroupFields) (t : GroupType) : GroupCfg :=
  { type := t, amber := f.amber, redAmber := f.redAmber
    lampsRed := if typeUses t 0 then f.lampsRed else 0
    lampsAmber := if typeUses t 1 then f.lampsAmber else 0
    lampsGreen := if typeUses t 2 then f.lampsGreen else 0
    rmin := if typeUses t 0 then f.rmin else 1 }

/-- The fields of a SET_GROUP that names a type lie in their ranges (R2). -/
def groupInRange (f : GroupFields) (t : GroupType) : Prop :=
  30 ≤ f.amber ∧ f.amber ≤ 50 ∧ f.redAmber ≤ 30
    ∧ (typeUses t 0 = true → 1 ≤ f.lampsRed ∧ f.lampsRed ≤ 4 ∧ 1 ≤ f.rmin ∧ f.rmin ≤ f.lampsRed)
    ∧ (typeUses t 1 = true → 1 ≤ f.lampsAmber ∧ f.lampsAmber ≤ 4)
    ∧ (typeUses t 2 = true → 1 ≤ f.lampsGreen ∧ f.lampsGreen ≤ 4)

theorem checkGroup_of_type {f : GroupFields} {t : GroupType} (h : f.type = some t) :
    (groupInRange f t → checkGroup f = some (groupRecord f t)) ∧ (¬ groupInRange f t → checkGroup f = none) := by
  have cond : (within 30 50 f.amber && within 0 30 f.redAmber && lampsOk t 0 f.lampsRed && lampsOk t 1 f.lampsAmber
      && lampsOk t 2 f.lampsGreen && (!typeUses t 0 || within 1 f.lampsRed f.rmin)) = true ↔ groupInRange f t := by
    unfold groupInRange
    simp only [Bool.and_eq_true, within_iff, lampsOk_iff, Bool.or_eq_true, Bool.not_eq_true']
    cases typeUses t 0 <;> simp <;> tauto
  unfold checkGroup
  rw [h]
  dsimp only
  refine ⟨fun k => ?_, fun k => ?_⟩
  · rw [if_pos (cond.mpr k)]
    rfl
  · rw [if_neg fun c => k (cond.mp c)]

theorem checkGroup_isSome {f : GroupFields} : (checkGroup f).isSome = true ↔ ∃ t, f.type = some t ∧ groupInRange f t := by
  cases h : f.type with
  | none =>
    unfold checkGroup
    rw [h]
    simp
  | some t =>
    obtain ⟨yes, no⟩ := checkGroup_of_type h
    by_cases k : groupInRange f t
    · rw [yes k]; simp [k]
    · rw [no k]; simp [k]

theorem intergreenOk_iff {v : Option Nat} : intergreenOk v = true ↔ ∀ x, v = some x → 10 ≤ x ∧ x ≤ 300 := by
  cases v <;> simp [intergreenOk, within_iff]

theorem checkLimits_isSome {op rel : Nat} :
    (checkLimits op rel).isSome = true ↔ 10 ≤ op ∧ op ≤ 200 ∧ 10 ≤ rel ∧ rel ≤ 200 := by
  unfold checkLimits
  split
  · next h => simpa [within_iff, and_assoc] using h
  · next h => simpa [within_iff, and_assoc] using h

theorem checkChannel_isSome {f : ChannelFields} {old : ChannelCfg} : (checkChannel f old).isSome = true ↔
    f.lamp ≠ none ∧ 20 ≤ f.nominal ∧ f.nominal ≤ 3000 ∧ 10 ≤ f.operateLimit ∧ f.operateLimit ≤ 200
      ∧ 10 ≤ f.releaseLimit ∧ f.releaseLimit ≤ 200 := by
  rw [← checkLimits_isSome (op := f.operateLimit), ← and_assoc (a := 20 ≤ f.nominal), ← within_iff]
  unfold checkChannel
  cases f.lamp <;> cases checkLimits f.operateLimit f.releaseLimit <;> cases within 20 3000 f.nominal <;> simp

theorem checkRole_isSome {r : RoleField} : (checkRole r).isSome = true ↔
    r ≠ .other ∧ ∀ c, r = .load c → 1 ≤ c ∧ c ≤ 48 := by
  cases r <;> simp [checkRole, index?_isSome]

theorem checkCore_isSome {cable number : Nat} {r : RoleField} : (checkCore cable number r).isSome = true ↔
    1 ≤ cable ∧ cable ≤ 8 ∧ 1 ≤ number ∧ number ≤ 16 ∧ r ≠ .other ∧ ∀ c, r = .load c → 1 ≤ c ∧ c ≤ 48 := by
  rw [← checkRole_isSome, ← and_assoc, ← within_iff, ← and_assoc (a := 1 ≤ number), ← within_iff]
  unfold checkCore
  cases within 1 8 cable <;> cases within 1 16 number <;> simp

theorem checkResponse_isSome {p : Nat} {r : Option Response} {imm : Bool} : (checkResponse p r imm).isSome = true ↔
    p < 32 ∧ r ≠ none ∧ (p = 0 → r = some .none) := by
  unfold checkResponse
  cases r with
  | none => simp
  | some x =>
    dsimp only
    by_cases h : p < 32
    · rw [dif_pos h]
      by_cases k : p = 0 ∧ x ≠ .none
      · rw [if_pos k]; simp [k]
      · rw [if_neg k]
        rw [not_and_not_right] at k
        simpa [h] using k
    · rw [dif_neg h]; simp [h]

theorem checkJunction_isSome {f : JunctionFields} : (checkJunction f).isSome = true ↔
    f.standbyDisplay ≠ none ∧ f.failsafeStyle ≠ none ∧ f.autoStart ≠ none ∧ 50 ≤ f.startFlash ∧ f.startFlash ≤ 600
      ∧ 30 ≤ f.startRed ∧ f.startRed ≤ 100 ∧ 20 ≤ f.endRed ∧ f.endRed ≤ 100 := by
  unfold checkJunction
  cases f.standbyDisplay <;> cases f.failsafeStyle <;> cases f.autoStart <;> simp [within_iff, and_assoc]

/-- A write of the edit copy passes its checks exactly where its fields lie in their ranges, and goes through the gate then. -/
theorem exec_writesEdit {i : Instr} (h : writesEdit i = true) (t : s.takes) :
    ∃ (α : Type) (x : Option α) (f : α → Answer), (x.isSome = true ↔ fieldsInRange i)
      ∧ exec i s = .next ((s.editWith x f).1.replied (requestTag i) (s.editWith x f).2.1 (s.editWith x f).2.2) := by
  have answer : ∀ (act : State → Answer), exec i s = .next (s.arrive i act false) →
      exec i s = .next ((act s).1.replied (requestTag i) (act s).2.1 (act s).2.2) :=
    fun act e => e.trans (congrArg Host.Outcome.next (State.takes_arrive t i act))
  cases i <;> try cases h
  case setGroup tag g f =>
    refine ⟨_, _, _, ?_, answer (State.doSetGroup g f) rfl⟩
    rw [both_isSome, index?_isSome, checkGroup_isSome]
    unfold fieldsInRange groupInRange
    constructor
    · rintro ⟨⟨a, b⟩, t, ht, c, d, e, k⟩
      exact ⟨a, b, c, d, e, t, ht, k⟩
    · rintro ⟨a, b, c, d, e, t, ht, k⟩
      exact ⟨⟨a, b⟩, t, ht, c, d, e, k⟩
  case setIntergreen tag a b v =>
    refine ⟨_, _, _, ?_, answer (State.doSetIntergreen a b v) rfl⟩
    show _ ↔ 1 ≤ a ∧ a ≤ 16 ∧ 1 ≤ b ∧ b ≤ 16 ∧ _
    rw [← intergreenOk_iff]
    cases intergreenOk v
    · simp
    · simp [both_isSome, index?_isSome, and_assoc]
  case setChannel tag c f =>
    refine ⟨_, _, _, ?_, answer (State.doSetChannel c f) rfl⟩
    show _ ↔ 1 ≤ c ∧ c ≤ 48 ∧ _
    rw [← and_assoc, ← index?_isSome]
    cases index? 48 c with
    | none => simp
    | some i => simp [checkChannel_isSome]
  case setChannelSupply tag r op rel =>
    exact ⟨_, _, _, checkLimits_isSome, answer (State.doSetChannelSupply r op rel) rfl⟩
  case setCore tag k cable number role =>
    refine ⟨_, _, _, ?_, answer (State.doSetCore k cable number role) rfl⟩
    rw [both_isSome, index?_isSome, checkCore_isSome, and_assoc]
    rfl
  case setResponse tag p r imm =>
    exact ⟨_, _, _, checkResponse_isSome, answer (State.doSetResponse p r imm) rfl⟩
  case setResponseJunction tag f =>
    exact ⟨_, _, _, checkJunction_isSome, answer (State.doSetJunction f) rfl⟩

/-- Settles O22, by the checks first and the gate after them. -/
theorem editRefused : Obligations.EditRefused := fun i s h t => by
  obtain ⟨α, x, f, range, e⟩ := exec_writesEdit h t
  refine ⟨fun n => ?_, fun r m n => ?_, fun r m j => ?_⟩
  · rw [e, State.editWith_refusedValue f (by simpa using fun k => n (range.mp k))]
    rfl
  · rw [e, State.editWith_refusedMode f (range.mpr r) m n]
    rfl
  · rw [e, State.editWith_refusedBusy f (range.mpr r) m j]
    rfl

/-! ### The writes -/

/-- Settles O19: the record of the group is written where the fields are in range, and the request is refused otherwise. -/
theorem setGroup : Obligations.SetGroup := by
  intro tag g f s t
  refine ⟨fun i ty hg hf ed a1 a2 a3 r am gr => ?_, fun h => (editRefused _ s rfl t).1 ?_⟩
  · have check := (checkGroup_of_type hf).1 ⟨a1, a2, a3, r, am, gr⟩
    have x : both (index? 16 g) (checkGroup f) = some (i, groupRecord f ty) := by rw [hg, index?_succ, check]; rfl
    have written := State.arrive_edits (act := State.doSetGroup g f) (.setGroup tag g f) t ed x rfl
    exact congrArg Host.Outcome.next written
  · unfold fieldsInRange
    rintro ⟨b1, b2, b3, b4, b5, ty, hf, r, am, gr⟩
    rcases h with h | h | h | h | h | h | ⟨ty', hf', h⟩
    · omega
    · omega
    · rw [h] at hf; cases hf
    · omega
    · omega
    · omega
    · rw [hf] at hf'
      cases hf'
      rcases h with ⟨u, h⟩ | ⟨u, h⟩ | ⟨u, h⟩
      · have := r u; omega
      · have := am u; omega
      · have := gr u; omega

theorem checkCore_of_role {cable number : Nat} {role : RoleField} {r : Role} (a : 1 ≤ cable) (b : cable ≤ 8)
    (c : 1 ≤ number) (d : number ≤ 16) (h : checkRole role = some r) :
    checkCore cable number role = some ⟨cable, number, r⟩ := by
  have w : within 1 8 cable = true := within_iff.mpr ⟨a, b⟩
  have v : within 1 16 number = true := within_iff.mpr ⟨c, d⟩
  unfold checkCore
  rw [if_pos (by rw [w, v]; rfl), h]
  rfl

theorem checkJunction_of_ranges {f : JunctionFields} {d y : Display} {a : Bool} (hd : f.standbyDisplay = some d)
    (hy : f.failsafeStyle = some y) (ha : f.autoStart = some a) (h : (checkJunction f).isSome = true) :
    checkJunction f = some ⟨d, y, a, f.startFlash, f.startRed, f.endRed⟩ := by
  unfold checkJunction at h ⊢
  rw [hd, hy, ha] at h ⊢
  dsimp only at h ⊢
  split
  · rfl
  · next k => rw [if_neg k] at h; cases h

/-- Settles O20: the entry is written where the fields are in range, and the request is refused otherwise. -/
theorem setIntergreenCoreResponse : Obligations.SetIntergreenCoreResponse := by
  refine ⟨fun tag a b v s t => ⟨fun i j ha hb ed hv => ?_, fun h => (editRefused _ s rfl t).1 ?_⟩,
    fun tag s k cable number role t => ⟨fun i r hk ed c1 c2 n1 n2 hr => ?_, fun h => (editRefused _ s rfl t).1 ?_⟩,
    fun tag s t => ⟨fun p r imm ed hp => ?_, fun p r imm h => (editRefused _ s rfl t).1 ?_,
      fun f d y a ed hd hy ha b1 b2 b3 b4 b5 b6 => ?_, fun f h => (editRefused _ s rfl t).1 ?_⟩⟩
  · have x : (if intergreenOk v then both (index? 16 a) (index? 16 b) else none) = some (i, j) := by
      rw [if_pos (intergreenOk_iff.mpr hv), ha, hb, index?_succ, index?_succ]
      rfl
    have written := State.arrive_edits (act := State.doSetIntergreen a b v) (.setIntergreen tag a b v) t ed x rfl
    exact congrArg Host.Outcome.next written
  · rintro ⟨a1, a2, b1, b2, hv⟩
    rcases h with h | h | h | h | ⟨x, hx, h⟩
    · omega
    · omega
    · omega
    · omega
    · have := hv x hx; omega
  · have hrole : checkRole role = some r := by
      rcases hr with ⟨c, rfl, rfl⟩ | ⟨rfl, rfl⟩ | ⟨rfl, rfl⟩ | ⟨rfl, rfl⟩
      · unfold checkRole; dsimp only; rw [index?_succ]; rfl
      · rfl
      · rfl
      · rfl
    have x : both (index? 64 k) (checkCore cable number role) = some (i, ⟨cable, number, r⟩) := by
      rw [hk, index?_succ, checkCore_of_role c1 c2 n1 n2 hrole]
      rfl
    have written := State.arrive_edits (act := State.doSetCore k cable number role) (.setCore tag k cable number role) t ed x rfl
    exact congrArg Host.Outcome.next written
  · rintro ⟨a1, a2, b1, b2, d1, d2, ho, hl⟩
    rcases h with h | h | h | h | h | h | h | ⟨c, hc, h⟩
    · omega
    · omega
    · omega
    · omega
    · omega
    · omega
    · exact ho h
    · have := hl c hc; omega
  · have x : checkResponse p.val (some r) imm = some (p, ⟨r, imm⟩) := by
      unfold checkResponse
      dsimp only
      rw [dif_pos p.isLt, if_neg fun k => k.2 (hp (Fin.ext k.1))]
    have written := State.arrive_edits (act := State.doSetResponse p.val (some r) imm) (.setResponse tag p.val (some r) imm) t ed x rfl
    exact congrArg Host.Outcome.next written
  · rintro ⟨a1, a2, a3⟩
    rcases h with h | h | ⟨h, k⟩
    · omega
    · exact a2 h
    · exact k (a3 h)
  · have x := checkJunction_of_ranges hd hy ha (checkJunction_isSome.mpr (by simp [hd, hy, ha, b1, b2, b3, b4, b5, b6]))
    have written := State.arrive_edits (act := State.doSetJunction f) (.setResponseJunction tag f) t ed x rfl
    exact congrArg Host.Outcome.next written
  · rintro ⟨a1, a2, a3, a4, a5, a6, a7, a8, a9⟩
    rcases h with h | h | h | h | h | h | h | h | h
    · exact a1 h
    · exact a2 h
    · exact a3 h
    all_goals omega

end Sys2Proof.Machine

/-! SUPPORT. What time brings on an empty queue, and the laws at reset (R1, R172). -/

namespace Sys2Proof.Machine

variable {s : State}

/-- With no command waiting, and none that time has made due, a step is the passing of time. -/
theorem step_of_idle {t : State} (h : s.pending = []) (k : s.idle = (t, none)) : step s = .next t := by
  unfold step
  rw [h]
  dsimp only
  rw [k]

/-- With no command waiting a step runs the command that time has made due. -/
theorem step_of_due {t : State} {c : Instr} (h : s.pending = []) (k : s.idle = (t, some c)) : step s = exec c t := by
  unfold step
  rw [h]
  dsimp only
  rw [k]

/-- Settles O2, by the phases of a start. -/
theorem stepOnEmptyQueue : Obligations.StepOnEmptyQueue := by
  intro s h
  refine ⟨fun p => step_of_idle h ?_, fun e p r => step_of_idle h ?_, fun p => step_of_idle h ?_,
    fun c p d => step_of_due h ?_, fun p d m => step_of_idle h ?_, fun p d m => step_of_due h ?_⟩
  · unfold State.idle
    rw [p]
  · unfold State.idle
    rw [p]
    dsimp only
    rw [r]
    simp only [Option.any_some, decide_eq_true_eq]
  · unfold State.idle
    rw [p]
  · unfold State.idle
    rw [p]
    dsimp only
    rw [d]
  · unfold State.idle
    rw [p]
    dsimp only
    rw [d]
    dsimp only
    rw [if_neg m]
  · unfold State.idle
    rw [p]
    dsimp only
    rw [d]
    dsimp only
    rw [if_pos m]

theorem State.lampsSound_reset : State.reset.LampsSound := by
  have lit : ∀ c : Chan, (State.reset.lamps[c]).lampsLit = 0 := fun c => by
    rw [show State.reset.lamps = .replicate 48 .default from rfl]
    simp only [Fin.getElem_fin, Vector.getElem_replicate]
    rfl
  exact ⟨fun c => by rw [lit c]; exact Nat.zero_le _, fun _ => ⟨rfl, lit⟩⟩

/-- The bounds of the tables and queues hold right after reset, where all of them are empty. -/
theorem State.sound_reset : State.reset.Sound := by
  have faults : State.reset.faults.Sound := by unfold Faults.Sound; decide
  have link : State.reset.link.Sound := by unfold Link.Sound; decide
  have store : State.reset.store.Sound := by
    show Store.blank.Sound
    simp [Store.Sound, Store.blank]
  have clock : State.reset.clock.Sound := by unfold Clock.Sound; decide
  have meas : State.reset.meas.Sound := .nil
  have hist : ∀ k : CoreId, (State.reset.cores[k]).hist.Sound := fun k => by
    rw [show State.reset.cores = .replicate 64 .default from rfl]
    simp only [Fin.getElem_fin, Vector.getElem_replicate]
    trivial
  exact ⟨faults, link, store, clock, meas, State.lampsSound_reset, Nat.zero_le _, hist⟩

/-- Settles O4: the state right after reset keeps all the laws. -/
theorem invariantsAtReset : Obligations.InvariantsAtReset := by
  have safe : State.reset.Safe ⟨True, False, fun _ => False⟩ := .reset
  exact ⟨State.sound_reset, rfl, safe.lawful, (State.timed_iff _).mpr ⟨(safe.spaced trivial).1, safe.startRed trivial⟩⟩

end Sys2Proof.Machine

/-! SUPPORT. The reading requests: their answers (R23, R86, R103, R136, R152, R164, R178). -/

namespace Sys2Proof.Machine

variable {s : State}

/-- A request taken in its own event, by what it makes of the state and what it answers. -/
theorem State.arrive_answer {act : State → Answer} {u : State} {st : Status} {b : ReplyBody} (t : s.takes) (i : Instr)
    (h : act s = (u, st, b)) :
    (.next (s.arrive i act false) : Host.Outcome State Fault Refusal) = .next (u.replied (requestTag i) st b) := by
  rw [State.takes_arrive t, h]

/-! ### Numbers out of their ranges -/

theorem index?_none {n x : Nat} (h : x < 1 ∨ n < x) : index? n x = none := by
  unfold index?
  rw [dif_neg (by omega)]

theorem both_none_left {α β : Type} (y : Option β) : both (none : Option α) y = none := rfl

theorem both_none_right {α β : Type} (x : Option α) : both x (none : Option β) = none := by
  cases x <;> rfl

/-! ### The answers -/

theorem State.doReadGroup_eq (g : Group) (c : ConfigCopy) :
    s.doReadGroup (g.val + 1) (some c) = s.ok (.groupCopy (s.copy c).groups[g] (s.copy c).ig[g]
      ((s.copy c).ig.map fun row => row[g]) (if c = .working then some (s.groupView g) else none)) := by
  unfold State.doReadGroup
  rw [index?_succ]
  rfl

theorem State.doReadGroup_refused {n : Nat} {c : Option ConfigCopy} (h : both (index? 16 n) c = none) :
    s.doReadGroup n c = s.refuse .refusedValue := by
  unfold State.doReadGroup
  rw [h]

theorem State.doReadChannel_eq (c : Chan) :
    s.doReadChannel (.channel (c.val + 1)) = s.ok (.readChannel (s.relayView c) (s.lampView c)) := by
  unfold State.doReadChannel
  dsimp only
  rw [index?_succ]

theorem State.doReadChannel_refused {n : Nat} (h : n < 1 ∨ 48 < n) :
    s.doReadChannel (.channel n) = s.refuse .refusedValue := by
  unfold State.doReadChannel
  dsimp only
  rw [index?_none h]

theorem State.doReadCore_edit (k : CoreId) :
    s.doReadCore (k.val + 1) (some (some .edit)) = s.ok (.core s.edit.cores[k]) := by
  unfold State.doReadCore
  rw [index?_succ]
  rfl

theorem State.doReadCore_working {k : CoreId} {c : Option (Option ConfigCopy)} (h : c.getD (some .working) = some .working) :
    s.doReadCore (k.val + 1) c = s.ok (.readCore (s.coreView k)) := by
  unfold State.doReadCore
  rw [index?_succ, h]
  rfl

theorem State.doReadCore_refused {n : Nat} {c : Option (Option ConfigCopy)}
    (h : both (index? 64 n) (c.getD (some .working)) = none) : s.doReadCore n c = s.refuse .refusedValue := by
  unfold State.doReadCore
  rw [h]

theorem State.doReadDetector_eq (d : Det) (b : Bool) :
    s.doReadDetector (d.val + 1) b
      = (if b then s.updDet d fun r => { r with count := 0 } else s).ok (.readDetector (s.detView d)) := by
  unfold State.doReadDetector
  rw [index?_succ]

theorem State.doReadDetector_refused {n : Nat} {b : Bool} (h : n < 1 ∨ 32 < n) :
    s.doReadDetector n b = s.refuse .refusedValue := by
  unfold State.doReadDetector
  rw [index?_none h]

theorem State.doReadAlarms_eq {p : Nat} (h : 1 ≤ p) :
    s.doReadAlarms p = s.ok (.alarms ((s.faults.alarms.drop (8 * (p - 1))).take 8) s.faults.alarms.length
      s.faults.listFull) := by
  unfold State.doReadAlarms
  rw [if_neg (by omega)]
  rfl

/-! ### Requests that only read leave the state as it was -/

theorem State.doReadDetector_fst (n : Nat) : (s.doReadDetector n false).1 = s := by
  unfold State.doReadDetector
  split <;> rfl

theorem State.doReadStatus_fst {part : StatusPart} (h : part ≠ .store) (p : Nat) : (s.doReadStatus part p).1 = s := by
  cases part
  case store => exact absurd rfl h
  case fault => unfold State.doReadStatus; dsimp only; split <;> rfl
  all_goals rfl

/-- A request that only reads is answered from the state, which it leaves as it was. -/
theorem exec_onlyReads {i : Instr} (h : onlyReads i = true) (t : s.takes) :
    ∃ st b, exec i s = .next (s.replied (requestTag i) st b) := by
  have answer : ∀ act : State → Answer, exec i s = .next (s.arrive i act false) → (act s).1 = s →
      ∃ st b, exec i s = .next (s.replied (requestTag i) st b) := fun act e f => by
    refine ⟨(act s).2.1, (act s).2.2, ?_⟩
    rw [e, State.takes_arrive t, f]
  cases i <;> try cases h
  case identify => exact answer State.doIdentify rfl rfl
  case readPlan tag c x => exact answer (State.doReadPlan c x) rfl (s.doReadPlan_fst c x)
  case readGroup tag g c => exact answer (State.doReadGroup g c) rfl (s.doReadGroup_fst g c)
  case readChannel tag n => exact answer (State.doReadChannel n) rfl (s.doReadChannel_fst n)
  case readCore tag k c => exact answer (State.doReadCore k c) rfl (s.doReadCore_fst k c)
  case readAlarms tag p => exact answer (State.doReadAlarms p) rfl (s.doReadAlarms_fst p)
  case readDetector tag d b =>
    have no : b = false := by simpa [onlyReads] using h
    subst no
    exact answer (State.doReadDetector d false) rfl (State.doReadDetector_fst d)
  case readStatus tag part p =>
    exact answer (State.doReadStatus part p) rfl (State.doReadStatus_fst (by simpa [onlyReads] using h) p)

/-! ### The views -/

theorem State.learnState_cases (c : Chan) :
    ((s.lamps[c]).learning = true → s.learnState c = .learning)
    ∧ ((s.lamps[c]).learning = false → s.work.channels[c].learned = true → s.learnState c = .learned)
    ∧ ((s.lamps[c]).learning = false → s.work.channels[c].learned = false → s.learnState c = .nominal) := by
  unfold State.learnState
  refine ⟨fun h => ?_, fun h k => ?_, fun h k => ?_⟩
  · rw [h]; rfl
  · rw [h, k]; rfl
  · rw [h, k]; rfl

theorem ChannelCfg.leakApplied_cases (x : ChannelCfg) :
    (∀ n, x.leak = .milliamps n → x.leakApplied = n)
    ∧ (x.leak = .typeDefault → x.lamp = .incandescent → x.leakApplied = 30)
    ∧ (x.leak = .typeDefault → x.lamp = .led → x.leakApplied = 10) := by
  unfold ChannelCfg.leakApplied
  refine ⟨fun n h => ?_, fun h k => ?_, fun h k => ?_⟩
  · rw [h]
  · rw [h, k]; rfl
  · rw [h, k]; rfl

theorem State.coreView_underTest {k : CoreId} (h : s.survey.underTest = some k) :
    (s.coreView k).charge = s.remaining s.survey.charge ∧ (s.coreView k).release = s.remaining s.survey.release
      ∧ ((s.cores[k]).test = .measureX16 → (s.coreView k).range = some .leakX16)
      ∧ ((s.cores[k]).test = .measureX1 → (s.coreView k).range = some .leakX1)
      ∧ ((s.cores[k]).test ≠ .measureX16 → (s.cores[k]).test ≠ .measureX1 → (s.coreView k).range = none) := by
  have tested : decide (s.survey.underTest = some k) = true := decide_eq_true h
  unfold State.coreView
  rw [tested]
  dsimp only
  refine ⟨rfl, rfl, fun e => ?_, fun e => ?_, fun e f => ?_⟩
  · rw [e]; rfl
  · rw [e]; rfl
  · rw [if_pos rfl]
    split
    · next g => exact absurd g e
    · next g => exact absurd g f
    · rfl

theorem State.coreView_idle {k : CoreId} (h : s.survey.underTest ≠ some k) :
    (s.coreView k).charge = none ∧ (s.coreView k).release = none ∧ (s.coreView k).range = none := by
  have tested : decide (s.survey.underTest = some k) = false := decide_eq_false h
  unfold State.coreView
  rw [tested]
  exact ⟨rfl, rfl, rfl⟩

theorem State.detView_occupied (d : Det) :
    (∀ st, s.work.dets[d].kind = .presence → s.work.dets[d].extend = some st →
      (s.detView d).occupied = some s.occupied[st])
    ∧ ((s.work.dets[d].kind ≠ .presence ∨ s.work.dets[d].extend = none) → (s.detView d).occupied = none) := by
  unfold State.detView
  dsimp only
  refine ⟨fun st h k => ?_, fun h => ?_⟩
  · rw [if_pos h, k]; rfl
  · rcases h with h | h
    · rw [if_neg h]
    · rw [h]; split <;> rfl

/-- Settles O36: the answers request by request, then the views field by field. -/
theorem readAnswers : Obligations.ReadAnswers := by
  refine ⟨fun tag s t => ⟨?_, fun g => ?_, fun g => ?_, fun c => ?_, ?_, ?_, fun k => ?_, fun k => ?_, fun k => ?_, fun d => ?_,
      fun d => ?_, fun p h => ?_, ?_, fun n => ?_, fun n => ?_, fun n b h => ?_, fun n h => ?_, fun n b h => ?_, fun n b h => ?_⟩,
    fun s e => ⟨rfl, rfl⟩, fun s g => rfl, fun s c => ?_, fun s r l => rfl, fun s k => ?_, fun s d => ?_,
    fun i s h t => exec_onlyReads h t⟩
  · exact State.arrive_answer t (.identify tag) (act := State.doIdentify) rfl
  · exact State.arrive_answer t (.readGroup tag (g.val + 1) (some .edit)) (State.doReadGroup_eq g .edit)
  · exact State.arrive_answer t (.readGroup tag (g.val + 1) (some .working)) (State.doReadGroup_eq g .working)
  · exact State.arrive_answer t (.readChannel tag (.channel (c.val + 1))) (State.doReadChannel_eq c)
  · exact State.arrive_answer t (.readChannel tag (.supply .smc)) (act := State.doReadChannel _) rfl
  · exact State.arrive_answer t (.readChannel tag (.supply .ftr)) (act := State.doReadChannel _) rfl
  · exact State.arrive_answer t (.readCore tag (k.val + 1) (some (some .edit))) (State.doReadCore_edit k)
  · exact State.arrive_answer t (.readCore tag (k.val + 1) (some (some .working))) (State.doReadCore_working rfl)
  · exact State.arrive_answer t (.readCore tag (k.val + 1) none) (State.doReadCore_working rfl)
  · exact State.arrive_answer t (.readDetector tag (d.val + 1) false) (State.doReadDetector_eq d false)
  · exact State.arrive_answer t (.readDetector tag (d.val + 1) true) (State.doReadDetector_eq d true)
  · exact State.arrive_answer t (.readAlarms tag p) (State.doReadAlarms_eq h)
  · exact State.arrive_answer t (.readAlarms tag 0) (act := State.doReadAlarms 0) rfl
  · exact State.arrive_answer t (.readGroup tag n none) (State.doReadGroup_refused (both_none_right _))
  · exact State.arrive_answer t (.readCore tag n (some none)) (State.doReadCore_refused (both_none_right _))
  · exact State.arrive_answer t (.readGroup tag n b) (State.doReadGroup_refused (by rw [index?_none h, both_none_left]))
  · exact State.arrive_answer t (.readChannel tag (.channel n)) (State.doReadChannel_refused h)
  · exact State.arrive_answer t (.readCore tag n b) (State.doReadCore_refused (by rw [index?_none h, both_none_left]))
  · exact State.arrive_answer t (.readDetector tag n b) (State.doReadDetector_refused h)
  · obtain ⟨leak, incandescent, led⟩ := ChannelCfg.leakApplied_cases s.work.channels[c]
    exact ⟨rfl, rfl, leak, incandescent, led, State.learnState_cases c⟩
  · exact ⟨rfl, rfl, rfl, rfl, rfl, State.coreView_underTest, State.coreView_idle⟩
  · exact ⟨rfl, rfl, rfl, rfl, rfl, rfl, rfl, rfl, State.detView_occupied d⟩

end Sys2Proof.Machine

/-! SUPPORT. What leaves the mode in force alone, the entry of a mode, and the end of RUNNING (R9, R61, R62, R166). -/

namespace Sys2Proof.Machine

variable {s t u : State}

/-! ### The mode controller's record -/

/-- From s to t nothing of the mode controller has changed but its response-active mark. -/
def SameMode (s t : State) : Prop := ∃ b, t.mode = { s.mode with responseActive := b }

theorem SameMode.refl (s : State) : SameMode s s := ⟨_, rfl⟩

theorem SameMode.ofEq (h : t.mode = s.mode) : SameMode s t := ⟨_, h⟩

theorem SameMode.trans (h : SameMode s t) (k : SameMode t u) : SameMode s u := by
  obtain ⟨b, e⟩ := h
  obtain ⟨c, f⟩ := k
  exact ⟨c, by rw [f, e]⟩

/-- What follows comes first, as an operation is read from its outermost part. -/
theorem SameMode.of (k : SameMode t u) (h : SameMode s t) : SameMode s u := h.trans k

theorem Quiet.sameMode (h : Quiet s t) : SameMode s t := h.mode

theorem SameMode.each {α : Type} {f : α → State → State} (h : ∀ a t, SameMode t (f a t)) (l : List α) (s : State) :
    SameMode s (s.each l f) :=
  State.each_induct (P := SameMode s) l s (.refl s) fun a _ t k => k.trans (h a t)

theorem SameMode.ite {p : Prop} [Decidable p] (h : SameMode s t) (k : SameMode s u) :
    SameMode s (if p then t else u) := by
  split <;> assumption

/-! ### What the engine makes of the plans -/

/-- The state differs from another in the plan sets, the engine, the fault confirmation unit and the link alone. -/
def PlanOnly (s t : State) : Prop :=
  t = { s with inUse := t.inUse, pendingSet := t.pendingSet, engine := t.engine, faults := t.faults, link := t.link }

theorem PlanOnly.refl (s : State) : PlanOnly s s := rfl

theorem PlanOnly.trans (h : PlanOnly s t) (k : PlanOnly t u) : PlanOnly s u := by
  unfold PlanOnly at *
  rw [k, h]

theorem PlanOnly.of (k : PlanOnly t u) (h : PlanOnly s t) : PlanOnly s u := h.trans k

theorem PlanOnly.ite {p : Prop} [Decidable p] (h : PlanOnly s t) (k : PlanOnly s u) :
    PlanOnly s (if p then t else u) := by
  split <;> assumption

theorem FaultsOnly.planOnly (h : FaultsOnly s t) : PlanOnly s t := by
  unfold FaultsOnly at h
  unfold PlanOnly
  rw [h]

theorem PlanOnly.frame (h : PlanOnly s t) :
    t.groups = s.groups ∧ t.mode = s.mode ∧ t.ev = s.ev ∧ t.work = s.work ∧ t.now = s.now := by
  unfold PlanOnly at h
  rw [h]
  exact ⟨rfl, rfl, rfl, rfl, rfl⟩

theorem PlanOnly.sameMode (h : PlanOnly s t) : SameMode s t := .ofEq h.frame.2.1

theorem PlanOnly.notify (s : State) (n : Notice) : PlanOnly s (s.notify n) := (FaultsOnly.notify s n).planOnly

theorem Kind.plain_of_translation {k : Kind} (h : k ∈ translationKinds) : k.plain = true ∧ ∀ x, (⟨x, k⟩ : Cond).cls = 0 := by
  unfold translationKinds at h
  simp only [List.mem_cons, List.not_mem_nil, or_false] at h
  rcases h with rfl | rfl | rfl | rfl <;> exact ⟨rfl, fun _ => rfl⟩

/-- A translation fails with one of the four translation faults (R36). -/
theorem PlanSet.translate_error {ps : PlanSet} {ref : PlanRef} {k : Kind} (h : ps.translate ref = .error k) :
    k ∈ translationKinds := by
  unfold PlanSet.translate at h
  unfold translationKinds
  split at h
  · cases h; simp
  · split at h
    · cases h; simp
    · split at h
      · cases h; simp
      · split at h
        · cases h; simp
        · split at h
          · cases h; simp
          · split at h
            · cases h; simp
            · cases h

/-- A direct entry of a plain kind touches the fault confirmation unit and the link alone. -/
theorem FaultsOnly.observe (k : Cond) (c : k.cls = 0) (h : k.kind.plain = true) : FaultsOnly s (s.observe k) := by
  rw [State.observe_direct _ _ c]
  exact .confirm s k _ h

theorem PlanOnly.judgeUsable (s : State) : PlanOnly s s.judgeUsable := by
  unfold State.judgeUsable
  exact .ite (FaultsOnly.endCond s _ rfl).planOnly (.ite (.refl s) (FaultsOnly.observe _ rfl rfl).planOnly)

theorem PlanOnly.adoptSet (s : State) (x : PendingSet) : PlanOnly s (s.adoptSet x) := by
  have ends : ∀ (l : List Cond) (t : State), FaultsOnly t (t.each (l.filter Cond.translation) fun k u => u.endCond k) :=
    fun l t => .each (fun k m u => .endCond u k
      (Kind.plain_of_translation (by simpa [Cond.translation] using (List.mem_filter.mp m).2)).1) t
  have set : PlanOnly s { s with inUse := x.set.setVoids s.work, pendingSet := none } := rfl
  unfold State.adoptSet
  dsimp only
  generalize ({ s with inUse := x.set.setVoids s.work, pendingSet := none } : State) = v at set ⊢
  exact .of (.judgeUsable _) <| .of (ends _ v).planOnly set

theorem SameMode.adoptPending (s : State) : SameMode s s.adoptPending := by
  unfold State.adoptPending
  split
  · exact .refl s
  · exact .of (Quiet.notify _ _).sameMode (PlanOnly.adoptSet s _).sameMode

theorem PlanOnly.translateFor (s : State) (ref : PlanRef) : PlanOnly s (s.translateFor ref).1 := by
  unfold State.translateFor
  split
  · next k h =>
    obtain ⟨plain, cls⟩ := Kind.plain_of_translation (PlanSet.translate_error h)
    exact (FaultsOnly.observe _ (cls _) plain).planOnly
  · next p _ =>
    have ended : FaultsOnly s (s.each translationKinds fun k t => t.endCond ⟨.plan p.number, k⟩) :=
      .each (fun k m t => .endCond t _ (Kind.plain_of_translation m).1) s
    dsimp only
    generalize s.each translationKinds _ = v at ended ⊢
    exact ended.planOnly.trans rfl

theorem PlanOnly.takeChange (s : State) (c : PendingChange) : PlanOnly s (s.takeChange c).1 :=
  .of (.translateFor _ _) rfl

theorem PlanOnly.reResolve (s : State) : PlanOnly s s.reResolve := by
  have change : PlanOnly s s.changeTaken.1 := by
    unfold State.changeTaken
    split
    · exact .takeChange s _
    · exact .refl s
  have renewed : ∀ t : State, PlanOnly t t.planRenewed := by
    intro t
    unfold State.planRenewed
    split
    · exact .refl t
    · have a := PlanOnly.translateFor t
      exact .ite (a _) (.ite (.of (.translateFor _ _) (a _)) (PlanOnly.trans (.of (.translateFor _ _) (a _)) rfl))
  rw [s.reResolve_eq]
  exact .ite change (.of (renewed _) change)

theorem PlanOnly.crossBoundary (s : State) : PlanOnly s s.crossBoundary.1 := by
  unfold State.crossBoundary
  split
  · exact .of (.notify _ _) <| .of (.reResolve _) (.adoptSet s _)
  · split
    · exact .refl s
    · have a := PlanOnly.takeChange s
      dsimp only
      split
      · exact .of (.notify _ _) (a _)
      · exact a _

theorem PlanOnly.scanPlan (s : State) : PlanOnly s s.scanPlan.1 := by
  have a := PlanOnly.crossBoundary s
  unfold State.scanPlan
  split
  · exact .refl s
  · dsimp only
    split
    · exact .refl s
    · split
      · exact .refl s
      · split
        · split <;> exact a
        · exact a

/-! ### The mode and the engine's changes -/

theorem SameMode.endGreen (s : State) (g : Group) : SameMode s (s.endGreen g) := .ofEq (Touches.endGreen s g).mode

theorem SameMode.beginChange (s : State) (i : Nat) (r : ResolvedRecord) (entry : Bool) :
    SameMode s (s.beginChange i r entry) := by
  obtain ⟨-, -, -, -, mode, -⟩ := s.changeOpened_frame i r
  have opened : SameMode s (s.changeOpened i r) := .ofEq mode
  have cleared : SameMode s (s.changeCleared i r) := opened.trans (.each (fun g t => .endGreen t g) _ _)
  rw [s.beginChange_eq]
  refine .of (.ofEq rfl) <| .of (.each (fun g t => .ofEq (Touches.gain entry g t).mode) _ _) <| .of (.ofEq ?_) cleared
  unfold State.holdGaining
  rfl

theorem SameMode.entryChange (s : State) : SameMode s s.entryChange := by
  unfold State.entryChange
  split
  · exact .refl s
  · split
    · split
      · exact .beginChange s _ _ _
      · dsimp only
        split
        · exact .of (.beginChange _ _ _ _) (PlanOnly.scanPlan s).sameMode
        · exact .of (.ofEq rfl) (PlanOnly.scanPlan s).sameMode
    · exact .refl s

theorem SameMode.planEntered (s : State) (ref : PlanRef) : SameMode s (s.planEntered ref) := by
  have a := (PlanOnly.translateFor s ref).sameMode
  have b := a.trans (PlanOnly.translateFor _ baseRef).sameMode
  unfold State.planEntered
  exact .ite (.of (.entryChange _) <| .of (Quiet.notify _ _).sameMode a)
    (.ite (.of (.entryChange _) <| .of (Quiet.notify _ _).sameMode b) (.of (.ofEq rfl) b))

theorem SameMode.flashAsked (s : State) : SameMode s s.flashAsked := by
  unfold State.flashAsked
  split
  · exact .ofEq rfl
  · exact .refl s

theorem SameMode.enterRunning (s : State) : SameMode s s.enterRunning := by
  rw [s.enterRunning_eq]
  exact .of (.flashAsked _) <| .of (.planEntered _ _) <| .of (.ofEq rfl) (.adoptPending s)

/-! ### The engine leaves RUNNING (R62) -/

/-- What the engine's leaving RUNNING is, and what it leaves: the engine stands in OFF without a plan; the mode, the working copy, the supply relays and the output monitor are as they were, and so is which groups are GREEN. -/
structure State.Leaves (s t : State) : Prop where
  state   : t.engine.state = .off
  plan    : t.engine.plan = none
  work    : t.work = s.work
  now     : t.now = s.now
  mode    : t.mode = s.mode
  green   : ∀ g : Group, (t.groups[g]).aspect = .green ↔ (s.groups[g]).aspect = .green

theorem State.dropGaining_green (s : State) (g d : Group) :
    ((s.dropGaining g).groups[d]).aspect = .green ↔ (s.groups[d]).aspect = .green := by
  unfold State.dropGaining
  rw [State.mark_groups, s.updGroup_get]
  split
  · next h =>
    subst h
    dsimp only
    split
    · next r => rw [r]; simp
    · rfl
  · rfl

/-- The gaining groups are dropped and the engine goes to OFF. -/
def State.engineLeft (s : State) : State :=
  let s := s.each (allGroups.filter fun g => (s.groups[g]).pendingGreen) fun g t => t.dropGaining g
  let s := s.stopTimers.engineTo .off
  State.mark { s with engine := { s.engine.changeOver with
    plan := none, record := none, stage := none, change := none, barred := false } }

theorem State.engineLeft_leaves (s : State) : s.Leaves s.engineLeft := by
  obtain ⟨w, n, m, k⟩ := State.each_induct (P := fun u => u.work = s.work ∧ u.now = s.now ∧ u.mode = s.mode
      ∧ ∀ g : Group, (u.groups[g]).aspect = .green ↔ (s.groups[g]).aspect = .green) (f := fun g t => t.dropGaining g)
    (allGroups.filter fun g => (s.groups[g]).pendingGreen) s ⟨rfl, rfl, rfl, fun _ => .rfl⟩
    fun g _ u ⟨w, n, m, k⟩ => ⟨(Touches.dropGaining u g).work.trans w, (Touches.dropGaining u g).now.trans n,
      (Touches.dropGaining u g).mode.trans m, fun d => (u.dropGaining_green g d).trans (k d)⟩
  unfold State.engineLeft
  dsimp only
  generalize (s.each (allGroups.filter fun g => (s.groups[g]).pendingGreen) fun g t => t.dropGaining g) = u at w n m k ⊢
  exact ⟨rfl, rfl, w, n, m, k⟩

/-- The stage in force leaves force as RUNNING is left. -/
def State.forceLeft (s : State) : State :=
  if s.engine.inForce = 0 then s
  else { s with ev := { s.ev with leftForce := s.ev.leftForce ++ [s.engine.inForce] } }

theorem State.leaveRunning_eq (s : State) : s.leaveRunning = s.forceLeft.engineLeft := by
  unfold State.leaveRunning State.engineLeft State.forceLeft
  rfl

theorem State.leaveRunning_leaves (s : State) : s.Leaves s.leaveRunning := by
  rw [s.leaveRunning_eq]
  unfold State.forceLeft
  split
  · exact s.engineLeft_leaves
  · obtain ⟨a, b, c, d, m, k⟩ := State.engineLeft_leaves
      { s with ev := { s.ev with leftForce := s.ev.leftForce ++ [s.engine.inForce] } }
    exact ⟨a, b, c, d, m, k⟩

/-! ### The greens end as SHUTDOWN is entered (R62, R168) -/

theorem State.endGreen_amber {g : Group} (h : s.work.groups[g].type = .vehicle ∨ s.work.groups[g].type = .arrow) :
    ((s.endGreen g).groups[g]).aspect = .amber
      ∧ ((s.endGreen g).groups[g]).amberTimer = some (s.now + 100 * s.work.groups[g].amber) := by
  have e : s.endGreen g = (s.updGroup g fun r => { r with
      aspect := .amber, amberTimer := some (s.now + tenths s.work.groups[g].amber), lastGreenOff := some s.now }).mark := by
    unfold State.endGreen
    dsimp only
    rcases h with h | h <;> rw [h]
  rw [e, State.mark_groups, State.updGroup_get_same]
  exact ⟨rfl, rfl⟩

/-- One group's green ends where it is GREEN. -/
def State.endIfGreen (g : Group) (t : State) : State := if (t.groups[g]).aspect = .green then t.endGreen g else t

theorem Touches.endIfGreen (g : Group) (t : State) : Touches g t (State.endIfGreen g t) := by
  unfold State.endIfGreen
  split
  · exact .endGreen t g
  · exact .refl g t

theorem State.endIfGreen_not_green (g : Group) (t : State) : ((State.endIfGreen g t).groups[g]).aspect ≠ .green := by
  unfold State.endIfGreen
  split
  · exact t.endGreen_not_green g
  · assumption

/-- After the greens have ended no group is GREEN; a group that was, and has an amber, shows it. -/
theorem State.endGreens_spec (s : State) :
    s.endGreens.engine = s.engine ∧ s.endGreens.work = s.work ∧ s.endGreens.mode = s.mode
      ∧ ∀ g : Group, (s.endGreens.groups[g]).aspect ≠ .green
        ∧ ((s.groups[g]).aspect = .green → (s.work.groups[g].type = .vehicle ∨ s.work.groups[g].type = .arrow) →
          (s.endGreens.groups[g]).aspect = .amber
            ∧ (s.endGreens.groups[g]).amberTimer = some (s.now + 100 * s.work.groups[g].amber)) := by
  obtain ⟨e, w, -, -, m, -, -, k⟩ := State.each_touches (f := State.endIfGreen) Touches.endIfGreen allGroups s
    (fun _ => True) trivial (fun _ _ _ _ => trivial) allGroups_nodup
  refine ⟨e, w, m, fun g => ?_⟩
  obtain ⟨u, -, same, -, uw, un, -, after⟩ := (k g).2 (mem_allGroups g)
  have after : s.endGreens.groups[g] = (State.endIfGreen g u).groups[g] := after
  rw [after]
  refine ⟨u.endIfGreen_not_green g, fun green type => ?_⟩
  unfold State.endIfGreen
  rw [same, if_pos green, ← un, ← uw]
  exact State.endGreen_amber (by rw [uw]; exact type)

/-- SHUTDOWN is in force with its target; the engine stands in OFF, and the greens have ended (R62, R168). -/
theorem State.enterShutdown_spec (s : State) (target : Target) (dark : Bool) :
    let u := s.enterShutdown target dark
    u.mode.mode = .shutdown ∧ u.mode.target = some target ∧ u.engine.state = .off ∧ u.engine.plan = none
      ∧ ∀ g : Group, (u.groups[g]).aspect ≠ .green
        ∧ ((s.groups[g]).aspect = .green → (s.work.groups[g].type = .vehicle ∨ s.work.groups[g].type = .arrow) →
          (u.groups[g]).aspect = .amber ∧ (u.groups[g]).amberTimer = some (s.now + 100 * s.work.groups[g].amber)) := by
  have learn : ∀ u : State, Quiet u (if learnEnds .shutdown (some target) then u.learnEnd .abandoned else u) :=
    fun u => .ite (.learnEnd u _) (.refl u)
  obtain ⟨off, plan, work, now, -, green⟩ := s.leaveRunning_leaves
  obtain ⟨e, -, -, k⟩ := s.leaveRunning.endGreens_spec
  rw [← e] at off plan
  have q : ∀ v : State, Quiet v
      ((if learnEnds .shutdown (some target) then
        (v.supplyCommands.modeChanged s.mode.mode).learnEnd .abandoned
        else v.supplyCommands.modeChanged s.mode.mode).mark) := fun v =>
    .of (.mark _) <| .of (learn _) <| .of (.notify _ _) (.supplyCommands v)
  unfold State.enterShutdown
  dsimp only
  generalize s.leaveRunning.endGreens = w at off plan k ⊢
  have q := q { w with mode := { w.mode with
    mode := .shutdown, timer := none, target := some target, darkMark := dark } }
  obtain ⟨b, mode⟩ := q.mode
  have engine := q.engine
  have groups := q.calm.groupFields
  generalize (if learnEnds .shutdown (some target) then _ else _ : State).mark = x at mode engine groups ⊢
  refine ⟨by rw [mode], by rw [mode], by rw [engine]; exact off, by rw [engine]; exact plan, fun g => ?_⟩
  obtain ⟨a, -, am, -⟩ := groups g
  obtain ⟨ng, amber⟩ := k g
  rw [a, am]
  refine ⟨ng, fun h type => ?_⟩
  rw [← now, ← work]
  exact amber ((green g).mpr h) (by rw [work]; exact type)

/-! ### The entry of a mode (R9, R166) -/

/-- The engine has left RUNNING, and the mode is in force with its timer. -/
theorem State.modeSet_spec (s : State) (m : Mode) :
    (s.modeSet m).mode = { s.mode with mode := m, timer := s.entryTimer m, target := none, darkMark := false }
      ∧ (s.modeSet m).work = s.work ∧ (s.modeSet m).now = s.now := by
  have timer : ∀ t : State, t.work = s.work → t.now = s.now → t.entryTimer m = s.entryTimer m := fun t w n => by
    unfold State.entryTimer
    rw [w, n]
  unfold State.modeSet
  dsimp only
  split
  · obtain ⟨-, -, work, now, mode, -⟩ := s.leaveRunning_leaves
    rw [timer _ work now, mode]
    exact ⟨rfl, work, now⟩
  · exact ⟨rfl, rfl, rfl⟩

theorem SameMode.modeCommanded (s : State) (m : Mode) : SameMode (s.modeSet m) (s.modeCommanded m) := by
  have release : ∀ t : State, SameMode t (if m = .failsafe ∨ m = .mainsOut then t.releaseAll else t) :=
    fun t => .ite (Quiet.releaseAll t).sameMode (.refl t)
  have reset : ∀ t : State, SameMode t (if m = .startFlash then t.resetFailed else t) :=
    fun t => .ite (Quiet.resetFailed t).sameMode (.refl t)
  exact .of (Quiet.supplyCommands _).sameMode <| .of (reset _) (release _)

theorem SameMode.modePosted (s : State) (m : Mode) : SameMode (s.modeSet m) (s.modePosted m) := by
  have k := SameMode.modeCommanded s m
  have set := k.trans (.ofEq (State.setAspects_mode _))
  unfold State.modePosted
  exact .ite (set.trans (.ofEq (State.clearGreens_mode _))) set

theorem SameMode.modeReported (s : State) (old m : Mode) : SameMode s (s.modeReported old m) := by
  have adopt : ∀ t : State, SameMode t (if m = .unconfigured ∨ m = .standby ∨ m = .failsafe then t.adoptPending else t) :=
    fun t => .ite (.adoptPending t) (.refl t)
  have learn : ∀ t : State, SameMode t (if learnEnds m none then t.learnEnd .abandoned else t) :=
    fun t => .ite (Quiet.learnEnd t _).sameMode (.refl t)
  exact .of (.ofEq rfl) <| .of (learn _) <| .of (adopt _) (Quiet.notify s _).sameMode

/-- The mode controller after the entry of a mode: the mode is in force with its timer, without a target or a dark mark. -/
theorem State.enterMode_mode (s : State) (m : Mode) : ∃ b, (s.enterMode m).mode
    = { s.mode with mode := m, timer := s.entryTimer m, target := none, darkMark := false, responseActive := b } := by
  rw [s.enterMode_eq]
  obtain ⟨b, e⟩ := (SameMode.modePosted s m).trans (.modeReported _ s.mode.mode m)
  exact ⟨b, by rw [e, (s.modeSet_spec m).1]⟩

/-- The groups after the entry of a mode that sets their aspects. -/
theorem State.enterMode_groups (s : State) {m : Mode} (h : m ≠ .running) (k : m ≠ .shutdown) (g : Group) :
    let u := s.enterMode m
    modeAspect m s.work.junction.standbyDisplay s.mode.style s.work.groups[g].type = some (u.groups[g]).aspect
      ∧ (u.groups[g]).amberTimer = none ∧ (u.groups[g]).redAmberTimer = none ∧ (u.groups[g]).greenRelease = none
      ∧ (u.groups[g]).pendingGreen = false
      ∧ (m = .startRed → (u.groups[g]).greenMark = false ∧ (u.groups[g]).lastGreenOff = none) := by
  dsimp only
  rw [s.enterMode_eq]
  obtain ⟨asp, pend, am, ra, rel, off, mk⟩ := (Calm.modeReported (s.modePosted m) s.mode.mode m).groupFields g
  rw [asp, pend, am, ra, rel, off, mk]
  have c := Calm.modeCommanded s m
  obtain ⟨mode, work, -⟩ := s.modeSet_spec m
  obtain ⟨a, e⟩ := modeAspect_some m s.work.junction.standbyDisplay s.mode.style s.work.groups[g].type h k
  have set : (s.modeCommanded m).setAspects.groups[g]
      = ((s.modeCommanded m).groups[g]).setByMode a (s.modeCommanded m).now := by
    rw [State.setAspects_get, c.mode, c.junction, c.style, c.types, mode, work, e]
  unfold State.modePosted
  split
  · rw [State.clearGreens_get, set]
    exact ⟨e, rfl, rfl, rfl, rfl, fun _ => ⟨rfl, rfl⟩⟩
  · next n =>
    rw [set]
    exact ⟨e, rfl, rfl, rfl, rfl, fun r => (n r).elim⟩

/-- At the entry of START_RED the output monitor forgets the ends of the greens (R20, R99). -/
theorem State.enterMode_startRed_monitor (s : State) (g : Group) :
    ((s.enterMode .startRed).monitor[g]).lastEnd = none := by
  have e : s.enterMode .startRed = (((s.modeCommanded .startRed).setAspects.clearGreens).modeChanged s.mode.mode).mark := by
    rw [s.enterMode_eq]
    unfold State.modePosted State.modeReported
    rfl
  have m : (((s.modeCommanded .startRed).setAspects.clearGreens).modeChanged s.mode.mode).mark.monitor
      = (s.modeCommanded .startRed).setAspects.clearGreens.monitor := by
    rw [State.mark_monitor]
    unfold State.modeChanged
    rw [State.notify_monitor]
  rw [e, m]
  unfold State.clearGreens
  simp

end Sys2Proof.Machine

/-! SUPPORT. STOP (R167) and the expiries of the mode timer (R167, R168, R170). -/

namespace Sys2Proof.Machine

variable {s : State}

/-! ### STOP (R167) -/

/-- Settles O33, mode by mode. -/
theorem stopRequest : Obligations.StopRequest := by
  intro tag s t
  have answer : ∀ {u st b}, s.doStop = (u, st, b) → exec (.stop tag) s = .next (u.replied tag st b) := fun h =>
    State.arrive_answer t (.stop tag) h
  refine ⟨fun h => ?_, fun h => ?_, fun h k => ?_, fun h k => ?_, fun h => ?_, fun h => ?_, fun h => ?_⟩
  · have e : s.doStop = s.refuse .refusedMode := by
      unfold State.doStop
      rcases h with h | h <;> rw [h]
    exact answer e
  · have e : s.doStop = (s.spread (s.enterShutdown .standby false)).ok .empty := by unfold State.doStop; rw [h]
    obtain ⟨mode, target, off, plan, groups⟩ := s.enterShutdown_spec .standby false
    exact ⟨_, answer e, mode, target, off, plan, fun g => (groups g).1, fun g => (groups g).2⟩
  · have e : s.doStop = State.ok { s with mode := { s.mode with target := some .standby } } .empty := by
      unfold State.doStop
      rw [h]
      dsimp only
      rw [if_pos k]
    exact answer e
  · have e : s.doStop = s.ok .empty := by
      unfold State.doStop
      rw [h]
      dsimp only
      rw [if_neg k]
    exact answer e
  · have e : s.doStop = (s.spread (s.enterMode .standby)).ok .empty := by
      unfold State.doStop
      rcases h with h | h | h <;> rw [h]
    obtain ⟨b, mode⟩ := s.enterMode_mode .standby
    exact ⟨_, answer e, by rw [mode], by rw [mode]; rfl⟩
  · have e : s.doStop = State.ok { s with mode := { s.mode with returnMode := .standby } } .empty := by
      unfold State.doStop
      rw [h]
    exact answer e
  · have e : s.doStop = s.ok .empty := by unfold State.doStop; rw [h]
    exact answer e

/-! ### The expiries of the mode timer (R167, R168) -/

/-- FAILSAFE entered from a mode but UNCONFIGURED and FAILSAFE: the cause is recorded where none stood, and the style taken (R170). -/
theorem State.enterFailsafe_mode (cause : Cause) (dark : Bool) (h : s.mode.mode ≠ .unconfigured)
    (k : s.mode.mode ≠ .failsafe) :
    let u := s.enterFailsafe cause dark
    u.mode.mode = .failsafe ∧ u.mode.timer = none
      ∧ u.mode.cause = (if s.mode.cause = .none then cause else s.mode.cause)
      ∧ u.mode.style = (if dark || decide (s.work.junction.failsafeStyle = .dark)
          || (decide (s.mode.mode = .shutdown) && s.mode.darkMark) then .dark else .flash) := by
  unfold State.enterFailsafe
  dsimp only
  rw [if_neg h, if_neg k]
  obtain ⟨b, e⟩ := (Quiet.observe (State.enterMode { s with mode := { s.mode with
      cause := if s.mode.cause = .none then cause else s.mode.cause
      style := if dark || decide (s.work.junction.failsafeStyle = .dark)
          || (decide (s.mode.mode = .shutdown) && s.mode.darkMark) then .dark else .flash } } .failsafe)
    ⟨.junction, .failsafe⟩).mode
  obtain ⟨c, f⟩ := State.enterMode_mode { s with mode := { s.mode with
      cause := if s.mode.cause = .none then cause else s.mode.cause
      style := if dark || decide (s.work.junction.failsafeStyle = .dark)
          || (decide (s.mode.mode = .shutdown) && s.mode.darkMark) then .dark else .flash } } .failsafe
  unfold State.failsafeEntry
  rw [e, f]
  exact ⟨rfl, rfl, rfl, rfl⟩

theorem Display.ite_dark (d : Display) : (if d = .dark then Display.dark else .flash) = d := by
  cases d <;> rfl

theorem State.goRunning_mode (s : State) : ∃ b, s.goRunning.mode
    = { s.mode with mode := .running, timer := none, target := none, darkMark := false, responseActive := b } := by
  rw [s.goRunning_eq]
  have reported : SameMode s.runningSet (s.runningSet.supplyCommands.modeChanged s.mode.mode) :=
    .of (Quiet.notify _ _).sameMode (Quiet.supplyCommands _).sameMode
  obtain ⟨b, e⟩ := reported.trans (.enterRunning _)
  exact ⟨b, e⟩

/-- The engine in ALL_RED, barred from decisions, as RUNNING is entered where no reference translates (R61). -/
theorem State.enterRunning_barred {k k' : Kind} (p : s.pendingSet = none) (h : s.inUse.translate s.entryRef = .error k)
    (h' : s.inUse.translate baseRef = .error k') :
    s.enterRunning.engine = { s.engine with state := .allRed, stage := some 0, record := none, barred := true } := by
  have adopt : s.adoptPending = s := by unfold State.adoptPending; rw [p]
  have opened : s.engineOpened.inUse = s.inUse ∧ s.engineOpened.engine
      = { s.engine with state := .allRed, stage := some 0, record := none } := by
    unfold State.engineOpened
    rw [adopt]
    exact ⟨rfl, rfl⟩
  have failed : ∀ {t : State} {r : PlanRef} {k : Kind}, t.inUse.translate r = .error k →
      t.translateFor r = (t.observe ⟨.plan r.plan, k⟩, false) := fun e => by
    unfold State.translateFor
    rw [e]
  rw [s.enterRunning_eq, adopt]
  generalize s.engineOpened = t at opened ⊢
  obtain ⟨set, engine⟩ := opened
  have a := failed (t := t) (set ▸ h)
  have q := Quiet.observe t ⟨.plan s.entryRef.plan, k⟩
  have b := failed (t := t.observe ⟨.plan s.entryRef.plan, k⟩) (r := baseRef) (k := k') (by rw [q.inUse, set]; exact h')
  have q' := q.trans (.observe _ ⟨.plan baseRef.plan, k'⟩)
  have entered : t.planEntered s.entryRef
      = ((t.observe ⟨.plan s.entryRef.plan, k⟩).observe ⟨.plan baseRef.plan, k'⟩).bar := by
    unfold State.planEntered
    rw [a]
    dsimp only
    rw [b]
    rfl
  have asked : ∀ u : State, u.flashAsked.engine = u.engine := fun u => by
    unfold State.flashAsked
    split <;> rfl
  rw [entered, asked]
  show { State.engine _ with barred := true } = _
  rw [q'.engine, engine]

theorem State.goRunning_barred {k k' : Kind} (p : s.pendingSet = none) (h : s.inUse.translate s.entryRef = .error k)
    (h' : s.inUse.translate baseRef = .error k') :
    s.goRunning.engine = { s.engine with state := .allRed, stage := some 0, record := none, barred := true } := by
  have q : Quiet s.runningSet (s.runningSet.supplyCommands.modeChanged s.mode.mode) :=
    .of (.notify _ _) (.supplyCommands _)
  rw [s.goRunning_eq, State.mark_engine]
  generalize s.runningSet.supplyCommands.modeChanged s.mode.mode = t at q ⊢
  have clock : t.clock = s.clock := q.clock
  have engine : t.engine = s.engine := q.engine
  have set : t.inUse = s.inUse := q.inUse
  have ref : t.entryRef = s.entryRef := by unfold State.entryRef; rw [engine, clock]
  rw [← engine]
  exact State.enterRunning_barred (q.pendingSet.trans p) (by rw [set, ref]; exact h) (by rw [set]; exact h')

end Sys2Proof.Machine

namespace Sys2Proof.Machine

variable {s : State}

/-! ### The events of the mode timer -/

/-- A mode timer that runs out in its mode is an event of its block. -/
theorem State.due_mode {m : Mode} {e : Nat} (h : s.mode.mode = m) (k : s.mode.timer = some e) (f : State → State) :
    s.due (s.modeDue m) f = (s.elapseTo e).cascade (f (s.elapseTo e)) := by
  have d : s.modeDue m = some e := by
    unfold State.modeDue
    rw [if_pos h, k]
  rw [d]
  rfl

theorem modeAspect_startRed {d y : Display} {t : GroupType} {a : Aspect} (h : modeAspect .startRed d y t = some a) :
    a = if t = .vehicle ∨ t = .pedestrian then .red else .dark := by
  cases t <;> cases h <;> rfl

/-- Settles O47, by the mode in force and what the supply relays show. -/
theorem modeTimers : Obligations.ModeTimers := by
  intro s e h
  have mode : (s.elapseTo e).mode = s.mode := s.elapseTo_mode e
  have work : (s.elapseTo e).work = s.work := s.elapseTo_work e
  have smc : (s.elapseTo e).smc = s.smc := s.elapseTo_smc e
  have ftr : (s.elapseTo e).ftr = s.ftr := s.elapseTo_ftr e
  have engine : (s.elapseTo e).engine = s.engine := s.elapseTo_engine e
  have valid : (s.elapseTo e).clock.valid = s.clock.valid := by unfold State.elapseTo; split <;> rfl
  have set : (s.elapseTo e).inUse = s.inUse := s.elapseTo_inUse e
  have pending : (s.elapseTo e).pendingSet = s.pendingSet := s.elapseTo_pendingSet e
  have ref : (s.elapseTo e).entryRef = s.entryRef := by
    unfold State.entryRef
    rw [engine, valid]
  dsimp only
  generalize et : s.elapseTo e = t at mode work smc ftr engine valid set pending ref ⊢
  have run : ∀ {i : Instr} {m : Mode} {f : State → State} {u : State}, exec i s = .next (s.due (s.modeDue m) f) →
      s.mode.mode = m → f t = u → exec i s = .next (t.cascade u) := fun x k y => by
    rw [x, State.due_mode k h, et, y]
  have red : ∀ u : State, u = t.enterMode .startRed → u.mode.mode = .startRed
      ∧ u.mode.timer = some (t.now + 100 * s.work.junction.startRed) ∧ u.mode.cause = s.mode.cause
      ∧ ∀ g : Group, (u.groups[g]).greenMark = false ∧ (u.groups[g]).lastGreenOff = none ∧ (u.monitor[g]).lastEnd = none
        ∧ (u.groups[g]).aspect
          = if s.work.groups[g].type = .vehicle ∨ s.work.groups[g].type = .pedestrian then .red else .dark := by
    rintro u rfl
    obtain ⟨b, m⟩ := t.enterMode_mode .startRed
    rw [m]
    refine ⟨rfl, by rw [← work]; rfl, by show t.mode.cause = _; rw [mode], fun g => ?_⟩
    obtain ⟨aspect, -, -, -, -, marks⟩ := t.enterMode_groups (m := .startRed) (by decide) (by decide) g
    obtain ⟨mark, off⟩ := marks rfl
    exact ⟨mark, off, t.enterMode_startRed_monitor g, by rw [← work]; exact modeAspect_startRed aspect⟩
  have failsafe : ∀ c, (s.mode.mode = .startFlash ∨ s.mode.mode = .startRed ∨ s.mode.mode = .shutdown) →
      ∀ u : State, u = t.enterFailsafe c false → u.mode.mode = .failsafe ∧ u.mode.timer = none
        ∧ u.mode.cause = (if s.mode.cause = .none then c else s.mode.cause)
        ∧ (s.mode.mode ≠ .shutdown → u.mode.style = s.work.junction.failsafeStyle)
        ∧ (s.mode.mode = .shutdown →
          u.mode.style = (if s.mode.darkMark = true then .dark else s.work.junction.failsafeStyle)) := by
    rintro c h u rfl
    have n : t.mode.mode ≠ .unconfigured ∧ t.mode.mode ≠ .failsafe := by
      rw [mode]
      rcases h with h | h | h <;> rw [h] <;> decide
    obtain ⟨m, timer, cause, style⟩ := t.enterFailsafe_mode c false n.1 n.2
    rw [mode] at cause style
    rw [work] at style
    refine ⟨m, timer, cause, fun k => ?_, fun k => ?_⟩
    · rw [style, decide_eq_false k, Bool.false_and, Bool.false_or, Bool.or_false]
      simpa using Display.ite_dark _
    · rw [style, decide_eq_true k, Bool.true_and, Bool.false_or]
      cases s.mode.darkMark
      · simpa using Display.ite_dark _
      · simp
  have ended : ∀ {u : State}, s.mode.mode = .shutdown → t.endRedExpiry = u → exec .endRedExpiry s = .next (t.cascade u) :=
    fun m => run rfl m
  refine ⟨fun m o => ⟨t.enterMode .startRed, run (f := State.startFlashExpiry) rfl m ?_, red _ rfl⟩, fun m o => ?_,
    fun m a b => ⟨t.goRunning, run (f := State.startRedExpiry) rfl m ?_, ?_⟩, fun m o => ?_,
    fun m o => ⟨t.enterMode .standby, ended m ?_, ?_⟩, fun m o => ?_, fun m o => ?_⟩
  · exact if_pos (smc ▸ o)
  · obtain ⟨fm, timer, cause, style, -⟩ := failsafe .supplyNotReady (.inl m) _ rfl
    refine ⟨_, run (f := State.startFlashExpiry) rfl m ?_, fm, timer, cause, style (by rw [m]; decide)⟩
    exact if_neg (smc ▸ o)
  · exact if_pos ⟨smc ▸ a, ftr ▸ b⟩
  · obtain ⟨b, gm⟩ := t.goRunning_mode
    rw [gm]
    refine ⟨rfl, rfl, rfl, by show t.mode.cause = _; rw [mode], fun k k' p a a' => ?_⟩
    rw [← engine]
    exact State.goRunning_barred (pending.trans p) (by rw [set, ref]; exact a) (by rw [set]; exact a')
  · obtain ⟨fm, -, cause, -, -⟩ := failsafe .supplyNotReady (.inr (.inl m)) _ rfl
    refine ⟨_, run (f := State.startRedExpiry) rfl m ?_, fm, cause⟩
    exact if_neg fun ⟨a, b⟩ => o.elim (fun n => n (smc ▸ a)) fun n => n (ftr ▸ b)
  · unfold State.endRedExpiry
    rw [mode, o]
  · obtain ⟨b, em⟩ := t.enterMode_mode .standby
    rw [em]
    exact ⟨rfl, rfl, rfl⟩
  · obtain ⟨fm, -, cause, -, style⟩ := failsafe .faultResponse (.inr (.inr m)) _ rfl
    refine ⟨_, ended m ?_, fm, cause, style m⟩
    unfold State.endRedExpiry
    rw [mode, o]
  · have e : t.endRedExpiry = if s.engine.source = .linkOverride ∨ (s.clock.valid = true ∧ s.engine.tableAction ≠ .flash)
        then t.enterMode .startRed else t.enterMode .partFlash := by
      unfold State.endRedExpiry
      rw [mode, o, engine, valid]
    have entered : ∀ m', (t.enterMode m').mode.mode = m' := fun m' => by
      obtain ⟨b, em⟩ := t.enterMode_mode m'
      rw [em]
    refine ⟨_, ended m e, ?_⟩
    split
    · exact entered _
    · exact entered _

end Sys2Proof.Machine

/-! SUPPORT. The output monitor's judgement (R99 to R102). -/

namespace Sys2Proof.Machine

variable {s t : State} {j : Group}

/-! ### Lists of reports -/

theorem State.mem_endCond {k x : Cond} : k ∈ (s.endCond x).faults.confirmed ↔ k ∈ s.faults.confirmed ∧ k ≠ x := by
  rw [(s.endCond_lists x).1, List.mem_filter]
  simp

theorem State.mem_confirm {k x : Cond} {tag : ConfTag} :
    k ∈ (s.confirm x tag).faults.confirmed ↔ k ∈ s.faults.confirmed ∨ k = x := by
  rw [(s.confirm_lists x tag).1]
  split
  · next h => exact ⟨.inl, fun o => o.elim id fun e => e ▸ h⟩
  · simp

/-- After the ends of a list of conditions none of them is confirmed, and the others are as they were. -/
theorem State.mem_each_endCond {k : Cond} (l : List Cond) (s : State) :
    k ∈ (s.each l fun x u => u.endCond x).faults.confirmed ↔ k ∈ s.faults.confirmed ∧ k ∉ l := by
  induction l generalizing s with
  | nil => simp [State.each]
  | cons a l ih =>
    show k ∈ (State.each (s.endCond a) l fun x u => u.endCond x).faults.confirmed ↔ _
    rw [ih, State.mem_endCond, List.mem_cons, not_or, and_assoc]

/-- After a list of direct entries all of them are confirmed, and the others are as they were. -/
theorem State.mem_each_observe {k : Cond} (l : List Cond) (h : ∀ x ∈ l, x.cls = 0) (s : State) :
    k ∈ (s.each l fun x u => u.observe x).faults.confirmed ↔ k ∈ s.faults.confirmed ∨ k ∈ l := by
  induction l generalizing s with
  | nil => simp [State.each]
  | cons a l ih =>
    show k ∈ (State.each (s.observe a) l fun x u => u.observe x).faults.confirmed ↔ _
    rw [ih (fun x m => h x (by simp [m])), State.observe_direct _ _ (h a (by simp)), State.mem_confirm, List.mem_cons,
      or_assoc]

/-- What the output monitor judges by stands in states that differ in the fault confirmation unit and the link alone. -/
theorem FaultsOnly.frame (h : FaultsOnly s t) : t.monitor = s.monitor ∧ t.work = s.work ∧ t.groups = s.groups
    ∧ t.handed = s.handed ∧ t.relays = s.relays ∧ t.now = s.now ∧ t.mode = s.mode ∧ t.lockouts = s.lockouts
    ∧ t.ev = s.ev := by
  unfold FaultsOnly at h
  rw [h]
  exact ⟨rfl, rfl, rfl, rfl, rfl, rfl, rfl, rfl, rfl⟩

theorem FaultsOnly.conflictProven (h : FaultsOnly s t) (j : Group) : t.conflictProven j = s.conflictProven j := by
  obtain ⟨m, w, -⟩ := h.frame
  unfold State.conflictProven
  rw [m, w]

theorem FaultsOnly.tripEnds (h : FaultsOnly s t) (j : Group) : t.tripEnds j = s.tripEnds j := by
  obtain ⟨m, -, g, -⟩ := h.frame
  unfold State.tripEnds
  rw [h.conflictProven, m, g]

theorem FaultsOnly.tripsOf (h : FaultsOnly s t) (j : Group) (b : Bool) : t.tripsOf j b = s.tripsOf j b := by
  obtain ⟨m, w, g, hd, r, n, -⟩ := h.frame
  have u : t.uncommandedGreen j = s.uncommandedGreen j := by
    unfold State.uncommandedGreen State.greenReleasing State.greenRelay
    rw [m, g, hd, r]
  have i : t.intergreenShort j = s.intergreenShort j := by
    unfold State.intergreenShort
    rw [m, w, n]
  unfold State.tripsOf
  rw [h.conflictProven, u, i]

/-! ### The conditions of a group (R100, R101) -/

theorem State.conflictProven_iff : s.conflictProven j = true ↔
    ∃ i : Group, s.work.ig[i][j] ≠ none ∧ (s.monitor[i]).proven = true := by
  unfold State.conflictProven Settings.conflict
  simp [allGroups, Option.isSome_iff_ne_none]

theorem State.greenReleasing_iff : s.greenReleasing j = true ↔ (s.relays[chanOf j 2]).state = .releasing
    ∨ (s.handed[j] = .green ∧ ((s.relays[chanOf j 2]).state = .operated ∨ (s.relays[chanOf j 2]).state = .operating)) := by
  unfold State.greenReleasing State.greenRelay
  simp

theorem State.uncommandedGreen_iff : s.uncommandedGreen j = true ↔
    (s.monitor[j]).proven = true ∧ (s.groups[j]).aspect ≠ .green ∧ (s.relays[chanOf j 2]).state ≠ .releasing
      ∧ ¬ (s.handed[j] = .green
        ∧ ((s.relays[chanOf j 2]).state = .operated ∨ (s.relays[chanOf j 2]).state = .operating)) := by
  have r : (!s.greenReleasing j) = true ↔ (s.relays[chanOf j 2]).state ≠ .releasing
      ∧ ¬ (s.handed[j] = .green
        ∧ ((s.relays[chanOf j 2]).state = .operated ∨ (s.relays[chanOf j 2]).state = .operating)) := by
    rw [Bool.not_eq_true', Bool.eq_false_iff, ne_eq, State.greenReleasing_iff, not_or]
  unfold State.uncommandedGreen
  rw [Bool.and_eq_true, Bool.and_eq_true, decide_eq_true_eq, r, and_assoc]

theorem State.intergreenShort_iff : s.intergreenShort j = true ↔ ∃ (i : Group) (ig e : Nat),
    s.work.ig[i][j] = some ig ∧ (s.monitor[i]).lastEnd = some e
      ∧ (s.now : Int) - e < 100 * ig - s.work.channels[chanOf i 2].limits.release := by
  have arith : ∀ now rel e ig : Nat, now + rel < e + tenths ig ↔ (now : Int) - e < 100 * ig - rel := by
    intro now rel e ig
    unfold tenths
    omega
  unfold State.intergreenShort
  rw [List.any_eq_true]
  constructor
  · rintro ⟨i, -, h⟩
    split at h
    · next ig e hi he => exact ⟨i, ig, e, hi, he, (arith _ _ _ _).mp (decide_eq_true_eq.mp h)⟩
    · cases h
  · rintro ⟨i, ig, e, hi, he, h⟩
    refine ⟨i, mem_allGroups i, ?_⟩
    rw [hi, he]
    exact decide_eq_true_eq.mpr ((arith _ _ _ _).mpr h)

/-! ### What is newly found and what has ended (R100 to R102) -/

/-- The state in which the evidence of every group has been judged, and nothing yet been reported. -/
def State.evidenceJudged (s : State) : State := { s with monitor := Vector.ofFn s.judgeProven }

theorem State.evidenceJudged_frame (s : State) : s.evidenceJudged.work = s.work ∧ s.evidenceJudged.groups = s.groups
    ∧ s.evidenceJudged.relays = s.relays ∧ s.evidenceJudged.handed = s.handed ∧ s.evidenceJudged.now = s.now
    ∧ s.evidenceJudged.mode = s.mode ∧ s.evidenceJudged.lockouts = s.lockouts ∧ s.evidenceJudged.ev = s.ev
    ∧ s.evidenceJudged.faults = s.faults := by
  unfold State.evidenceJudged
  exact ⟨rfl, rfl, rfl, rfl, rfl, rfl, rfl, rfl, rfl⟩

/-- A state that differs from the judged one in the fault confirmation unit and the link alone. -/
theorem FaultsOnly.ofJudged (h : FaultsOnly s.evidenceJudged t) : t = { s with
    monitor := t.monitor, faults := t.faults, link := t.link, lockouts := t.lockouts, ev := t.ev } := by
  unfold FaultsOnly State.evidenceJudged at h
  generalize Vector.ofFn s.judgeProven = m at h
  rw [h]

/-- The conditions of a group that arise in a judgement. -/
def State.arising (s : State) (j : Group) : List Cond :=
  s.evidenceJudged.tripsOf j ((s.evidenceJudged.monitor[j]).proven && !(s.monitor[j]).proven)

theorem mem_ite_singleton {α : Type} {x a : α} {p : Prop} [Decidable p] : x ∈ (if p then [a] else []) ↔ p ∧ x = a := by
  split <;> simp [*]

theorem State.mem_arising {k : Cond} : k ∈ s.arising j ↔
    ∃ x, k = ⟨.group j, x⟩ ∧ s.TripArises s.evidenceJudged.monitor j x := by
  have conflict := State.conflictProven_iff (s := s.evidenceJudged) (j := j)
  have uncommanded := State.uncommandedGreen_iff (s := s.evidenceJudged) (j := j)
  have short := State.intergreenShort_iff (s := s.evidenceJudged) (j := j)
  obtain ⟨w, g, r, hd, n, -⟩ := s.evidenceJudged_frame
  rw [w] at conflict short
  rw [g, r, hd] at uncommanded
  rw [n] at short
  have fresh : ∀ {b : Bool}, ((s.evidenceJudged.monitor[j]).proven && !(s.monitor[j]).proven && b) = true ↔
      (s.evidenceJudged.monitor[j]).proven = true ∧ (s.monitor[j]).proven = false ∧ b = true := by
    intro b
    simp [and_assoc]
  unfold State.arising State.tripsOf
  simp only [List.mem_append, mem_ite_singleton]
  rw [fresh, fresh, conflict, uncommanded, short]
  constructor
  · rintro ((⟨h, e⟩ | ⟨h, e⟩) | ⟨h, e⟩)
    · exact ⟨.conflict, e, h⟩
    · exact ⟨.uncommandedGreen, e, h⟩
    · exact ⟨.intergreenShort, e, h⟩
  · rintro ⟨x, e, h⟩
    cases x <;> try exact h.elim
    case conflict => exact .inl (.inl ⟨h, e⟩)
    case uncommandedGreen => exact .inl (.inr ⟨h, e⟩)
    case intergreenShort => exact .inr ⟨h, e⟩

theorem State.mem_tripEnds {k : Cond} : k ∈ s.evidenceJudged.tripEnds j ↔
    ∃ x, k = ⟨.group j, x⟩ ∧ s.TripOver s.evidenceJudged.monitor j x := by
  obtain ⟨w, g, -⟩ := s.evidenceJudged_frame
  have conflict : (!s.evidenceJudged.conflictProven j) = true ↔
      ∀ i : Group, s.work.ig[i][j] ≠ none → (s.evidenceJudged.monitor[i]).proven = false := by
    rw [Bool.not_eq_true', Bool.eq_false_iff, ne_eq, State.conflictProven_iff, w]
    simp only [not_exists, not_and, Bool.not_eq_true]
  unfold State.tripEnds
  rw [g]
  simp only [List.mem_append, mem_ite_singleton, Bool.or_eq_true, Bool.not_eq_true', decide_eq_true_eq]
  rw [← Bool.not_eq_true' (s.evidenceJudged.conflictProven j), conflict]
  constructor
  · rintro ((⟨h, e⟩ | ⟨h, e⟩) | ⟨h, e⟩)
    · exact ⟨.conflict, e, h⟩
    · exact ⟨.uncommandedGreen, e, h⟩
    · exact ⟨.intergreenShort, e, h⟩
  · rintro ⟨x, e, h⟩
    cases x <;> try exact h.elim
    case conflict => exact .inl (.inl ⟨h, e⟩)
    case uncommandedGreen => exact .inl (.inr ⟨h, e⟩)
    case intergreenShort => exact .inr ⟨h, e⟩

/-- A condition that arises in a judgement is not over in it. -/
theorem State.TripArises.not_over {m : Vector MonGroup 16} {x : Kind} (h : s.TripArises m j x) : ¬ s.TripOver m j x := by
  cases x <;> try exact h.elim
  case conflict =>
    obtain ⟨p, -, i, c, q⟩ := h
    rintro (n | n)
    · rw [p] at n; cases n
    · rw [n i c] at q; cases q
  case uncommandedGreen =>
    obtain ⟨p, a, -⟩ := h
    rintro (n | n)
    · rw [p] at n; cases n
    · exact a n
  case intergreenShort =>
    obtain ⟨p, -⟩ := h
    intro n
    have n : (m[j]).proven = false := n
    rw [p] at n; cases n

theorem State.TripArises.plain {m : Vector MonGroup 16} {x : Kind} (h : s.TripArises m j x) :
    x.plain = true ∧ (⟨.group j, x⟩ : Cond).cls = 0 := by
  cases x <;> try exact h.elim
  case conflict => exact ⟨rfl, rfl⟩
  case uncommandedGreen => exact ⟨rfl, rfl⟩
  case intergreenShort => exact ⟨rfl, rfl⟩

theorem State.TripOver.plain {m : Vector MonGroup 16} {x : Kind} (h : s.TripOver m j x) : x.plain = true := by
  cases x <;> try exact h.elim
  case conflict => rfl
  case uncommandedGreen => rfl
  case intergreenShort => rfl

/-! ### The judgement (R102) -/

/-- The ends of the conditions that are over have been reported. -/
def State.tripsEnded (s : State) : State :=
  s.evidenceJudged.each allGroups fun g t => t.each ((t.tripEnds g).filter t.isConfirmed) fun k u => u.endCond k

/-- What is newly found in a judgement. -/
def State.tripsFound (s : State) : List Cond :=
  allGroups.flatMap fun g => (s.tripsEnded.tripsOf g ((s.tripsEnded.monitor[g]).proven && !(s.monitor[g]).proven)).filter
    fun k => !s.tripsEnded.isConfirmed k

theorem State.judgeMonitor_eq (s : State) : s.judgeMonitor
    = if s.tripsFound.isEmpty then s.tripsEnded else (s.tripsEnded.each s.tripsFound fun k t => t.observe k).trip := by
  unfold State.judgeMonitor State.tripsFound State.tripsEnded State.evidenceJudged
  rfl

/-- The ends of one group's conditions. -/
theorem State.tripsEnded_group (h : FaultsOnly s.evidenceJudged t) (g : Group) :
    FaultsOnly t (t.each ((t.tripEnds g).filter t.isConfirmed) fun k u => u.endCond k)
      ∧ ∀ k, k ∈ (t.each ((t.tripEnds g).filter t.isConfirmed) fun k u => u.endCond k).faults.confirmed ↔
        k ∈ t.faults.confirmed ∧ k ∉ s.evidenceJudged.tripEnds g := by
  rw [h.tripEnds]
  refine ⟨.each (fun k m u => ?_) t, fun k => ?_⟩
  · obtain ⟨x, e, o⟩ := State.mem_tripEnds.mp (List.mem_of_mem_filter m)
    exact .endCond _ k (by rw [e]; exact o.plain)
  · rw [State.mem_each_endCond, List.mem_filter]
    simp only [State.isConfirmed, decide_eq_true_eq]
    exact ⟨fun ⟨a, b⟩ => ⟨a, fun m => b ⟨m, a⟩⟩, fun ⟨a, b⟩ => ⟨a, fun m => b m.1⟩⟩

theorem State.tripsEnded_spec (s : State) : FaultsOnly s.evidenceJudged s.tripsEnded
    ∧ ∀ k, k ∈ s.tripsEnded.faults.confirmed ↔
      k ∈ s.faults.confirmed ∧ ∀ g, k ∉ s.evidenceJudged.tripEnds g := by
  have each : ∀ (l : List Group) (t : State), FaultsOnly s.evidenceJudged t →
      FaultsOnly s.evidenceJudged
        (t.each l fun g t => t.each ((t.tripEnds g).filter t.isConfirmed) fun k u => u.endCond k)
      ∧ ∀ k, k ∈ (t.each l fun g t => t.each ((t.tripEnds g).filter t.isConfirmed) fun k u => u.endCond k).faults.confirmed
        ↔ k ∈ t.faults.confirmed ∧ ∀ g ∈ l, k ∉ s.evidenceJudged.tripEnds g := by
    intro l
    induction l with
    | nil => exact fun t h => ⟨h, fun k => by simp [State.each]⟩
    | cons a l ih =>
      intro t h
      obtain ⟨f, m⟩ := State.tripsEnded_group h a
      obtain ⟨f', m'⟩ := ih _ (h.trans f)
      refine ⟨f', fun k => (m' k).trans ?_⟩
      rw [m]
      simp only [List.forall_mem_cons, and_assoc]
  obtain ⟨f, m⟩ := each allGroups s.evidenceJudged (.refl _)
  obtain ⟨-, -, -, -, -, -, -, -, faults⟩ := s.evidenceJudged_frame
  unfold State.tripsEnded
  refine ⟨f, fun k => (m k).trans ?_⟩
  rw [faults]
  simp only [mem_allGroups, forall_const]

theorem State.mem_tripsFound {k : Cond} : k ∈ s.tripsFound ↔
    (∃ (j : Group) (x : Kind), k = ⟨.group j, x⟩ ∧ s.TripArises s.evidenceJudged.monitor j x)
      ∧ k ∉ s.tripsEnded.faults.confirmed := by
  obtain ⟨f, -⟩ := s.tripsEnded_spec
  obtain ⟨m, -⟩ := f.frame
  unfold State.tripsFound
  simp only [List.mem_flatMap, List.mem_filter, mem_allGroups, true_and, State.isConfirmed, Bool.not_eq_true',
    decide_eq_false_iff_not]
  rw [exists_and_right]
  refine and_congr_left fun _ => exists_congr fun j => ?_
  rw [m, f.tripsOf]
  exact State.mem_arising

theorem State.trip_off (h : s.mode.mode = .unconfigured ∨ s.mode.mode = .failsafe) : s.trip = s := by
  unfold State.trip
  rw [if_pos h]

theorem State.trip_on (h : s.mode.mode ≠ .unconfigured) (k : s.mode.mode ≠ .failsafe) :
    s.trip = State.ask { s with lockouts := min 255 (s.lockouts + 1) } .trip := by
  unfold State.trip
  rw [if_neg fun o => o.elim h k]

/-- A trip touches the count and what the event passes on, and nothing else. -/
theorem State.trip_frame (s : State) : s.trip = { s with lockouts := s.trip.lockouts, ev := s.trip.ev } := by
  unfold State.trip
  split <;> rfl

/-- A judgement: what is confirmed after it, and whether it makes a trip. -/
theorem State.judgeMonitor_spec (s : State) :
    let v := s.judgeMonitor
    v.monitor = s.evidenceJudged.monitor
    ∧ v = { s with monitor := v.monitor, faults := v.faults, link := v.link, lockouts := v.lockouts, ev := v.ev }
    ∧ (∀ k : Cond, k ∈ v.faults.confirmed ↔ k ∈ s.tripsEnded.faults.confirmed ∨ k ∈ s.tripsFound)
    ∧ (s.tripsFound ≠ [] → s.mode.mode ≠ .unconfigured → s.mode.mode ≠ .failsafe →
      v.lockouts = min 255 (s.lockouts + 1) ∧ v.ev.modeReqs = s.ev.modeReqs ++ [.trip])
    ∧ ((s.mode.mode = .unconfigured ∨ s.mode.mode = .failsafe ∨ s.tripsFound = []) →
      v.lockouts = s.lockouts ∧ v.ev.modeReqs = s.ev.modeReqs) := by
  obtain ⟨f, -⟩ := s.tripsEnded_spec
  obtain ⟨fm, -, -, -, -, -, -, fl, fe⟩ := f.frame
  obtain ⟨-, -, -, -, -, jm, jl, je, -⟩ := s.evidenceJudged_frame
  rw [jl] at fl
  rw [je] at fe
  dsimp only
  rw [s.judgeMonitor_eq]
  by_cases e : s.tripsFound = []
  · rw [if_pos (List.isEmpty_iff.mpr e), e]
    exact ⟨fm, f.ofJudged, fun k => by simp, fun n => (n rfl).elim, fun _ => ⟨fl, by rw [fe]⟩⟩
  · rw [if_neg fun h => e (List.isEmpty_iff.mp h)]
    have direct : ∀ x ∈ s.tripsFound, x.cls = 0 ∧ x.kind.plain = true := fun x m => by
      obtain ⟨⟨j, x, rfl, a⟩, -⟩ := State.mem_tripsFound.mp m
      exact a.plain.symm
    have g : FaultsOnly s.evidenceJudged (s.tripsEnded.each s.tripsFound fun k t => t.observe k) :=
      f.trans <| .each (fun k m t => by
        rw [State.observe_direct _ _ (direct k m).1]
        exact .confirm t k _ (direct k m).2) _
    have mem := fun k => State.mem_each_observe (k := k) s.tripsFound (fun x m => (direct x m).1) s.tripsEnded
    generalize (s.tripsEnded.each s.tripsFound fun k t => t.observe k) = u at g mem ⊢
    obtain ⟨gm, -, -, -, -, -, mode, gl, ge⟩ := g.frame
    rw [jm] at mode
    rw [jl] at gl
    rw [je] at ge
    have frame := u.trip_frame
    have faults : u.trip.faults = u.faults := by rw [frame]
    have monitor : u.trip.monitor = u.monitor := by rw [frame]
    refine ⟨monitor.trans gm, ?_, fun k => by rw [faults]; exact mem k, fun _ a b => ?_, fun o => ?_⟩
    · generalize u.trip = v at frame ⊢
      rw [frame]
      exact congrArg (fun u : State => { u with lockouts := v.lockouts, ev := v.ev }) g.ofJudged
    · rw [State.trip_on (mode ▸ a) (mode ▸ b), ← gl, ← ge]
      exact ⟨rfl, rfl⟩
    · have off : u.mode.mode = .unconfigured ∨ u.mode.mode = .failsafe := by
        rw [mode]
        rcases o with o | o | o
        · exact .inl o
        · exact .inr o
        · exact (e o).elim
      rw [State.trip_off off, gl, ge]
      exact ⟨rfl, rfl⟩

/-- Where a condition arises that was not confirmed, it is newly found. -/
theorem State.tripsFound_ne_nil {x : Kind} (h : s.TripArises s.evidenceJudged.monitor j x)
    (n : (⟨.group j, x⟩ : Cond) ∉ s.faults.confirmed) : s.tripsFound ≠ [] := by
  have m : (⟨.group j, x⟩ : Cond) ∈ s.tripsFound :=
    State.mem_tripsFound.mpr ⟨⟨j, x, rfl, h⟩, fun m => n ((s.tripsEnded_spec.2 _).mp m).1⟩
  exact List.ne_nil_of_mem m

/-- A condition that was confirmed and arises again is not over, and not newly found. -/
theorem State.tripsFound_nil (h : ∀ (j : Group) (x : Kind), s.TripArises s.evidenceJudged.monitor j x →
    (⟨.group j, x⟩ : Cond) ∈ s.faults.confirmed) : s.tripsFound = [] := by
  refine List.eq_nil_iff_forall_not_mem.mpr fun k m => ?_
  obtain ⟨⟨j, x, rfl, a⟩, n⟩ := State.mem_tripsFound.mp m
  refine n ((s.tripsEnded_spec.2 _).mpr ⟨h j x a, fun g o => ?_⟩)
  obtain ⟨y, e, ended⟩ := State.mem_tripEnds.mp o
  cases e
  exact a.not_over ended

/-- What is confirmed after a judgement: what arises in it, and what stood before and is not over. -/
theorem State.mem_judged {k : Cond} : k ∈ s.tripsEnded.faults.confirmed ∨ k ∈ s.tripsFound ↔
    (∃ (j : Group) (x : Kind), k = ⟨.group j, x⟩ ∧ s.TripArises s.evidenceJudged.monitor j x)
      ∨ (k ∈ s.faults.confirmed
        ∧ ¬ ∃ (j : Group) (x : Kind), k = ⟨.group j, x⟩ ∧ s.TripOver s.evidenceJudged.monitor j x) := by
  have ended : k ∈ s.tripsEnded.faults.confirmed ↔ k ∈ s.faults.confirmed
      ∧ ¬ ∃ (j : Group) (x : Kind), k = ⟨.group j, x⟩ ∧ s.TripOver s.evidenceJudged.monitor j x := by
    rw [s.tripsEnded_spec.2 k, not_exists]
    simp only [State.mem_tripEnds]
  rw [State.mem_tripsFound, ← ended]
  constructor
  · rintro (h | ⟨a, -⟩)
    · exact .inr h
    · exact .inl a
  · rintro (a | h)
    · by_cases m : k ∈ s.tripsEnded.faults.confirmed
      · exact .inl m
      · exact .inr ⟨a, m⟩
    · exact .inl h

/-! ### The evidence (R99) -/

theorem Relay.contact_iff (r : Relay) : r.contact = true ↔
    r.state = .operated ∨ r.state = .failedClosed ∨ (r.state = .releasing ∧ r.proof = true) := by
  unfold Relay.contact
  simp [or_assoc]

/-- The evidence of a used group. -/
theorem State.judgeProven_used (h : s.work.groups[j].type ≠ .unused) :
    (s.judgeProven j).contact = (s.relays[chanOf j 2]).contact
      ∧ (s.judgeProven j).proven = ((s.judgeProven j).contact || (s.monitor[j]).darkCurrent)
      ∧ (s.judgeProven j).lastEnd
        = if (s.monitor[j]).proven && !(s.judgeProven j).proven then some s.now else (s.monitor[j]).lastEnd := by
  unfold State.judgeProven State.greenRelay
  dsimp only
  rw [if_neg h]
  exact ⟨rfl, rfl, rfl⟩

theorem State.judgeProven_unused (h : s.work.groups[j].type = .unused) : (s.judgeProven j).proven = false := by
  unfold State.judgeProven
  dsimp only
  rw [if_pos h]

/-- Settles O53: the evidence, the three conditions, the trip, and a judgement. -/
theorem outputMonitor : Obligations.OutputMonitor := by
  intro s g
  refine ⟨fun h => ?_, State.judgeProven_unused, State.uncommandedGreen_iff, State.conflictProven_iff,
    State.intergreenShort_iff, State.trip_off, fun h k => ?_, ?_⟩
  · obtain ⟨contact, proven, last⟩ := State.judgeProven_used h
    refine ⟨by rw [contact, Relay.contact_iff], by rw [proven, Bool.or_eq_true], fun a b => ?_, fun o => ?_⟩
    · rw [last, a, b]
      rfl
    · rw [last]
      rcases o with o | o <;> rw [o] <;> simp
  · rw [State.trip_on h k]
    exact ⟨rfl, rfl⟩
  · obtain ⟨monitor, frame, confirmed, trips, quiet⟩ := s.judgeMonitor_spec
    dsimp only
    rw [monitor]
    refine ⟨rfl, ?_, fun k => (confirmed k).trans State.mem_judged, fun ⟨j, x, a, n⟩ => ?_, fun o => ?_⟩
    · rw [← monitor]
      exact frame
    · exact trips (State.tripsFound_ne_nil a n)
    · refine quiet ?_
      rcases o with o | o | o
      · exact .inl o
      · exact .inr (.inl o)
      · exact .inr (.inr (State.tripsFound_nil o))

end Sys2Proof.Machine

/-! SUPPORT. Inhibit reasons (R14 to R18) and fault patterns (R160, R162). -/

namespace Sys2Proof.Machine

variable {s t u : State} {g : Group}

/-! ### A pattern's number (R160) -/

theorem State.isConfirmed_iff {k : Cond} : s.isConfirmed k = true ↔ k ∈ s.faults.confirmed := by
  unfold State.isConfirmed
  simp

theorem Settings.serves_iff {cfg : Settings} {k : CoreId} : cfg.serves k g = true ↔
    (∃ x, cfg.cores[k].role = .load x ∧ groupOf x = g)
      ∨ (cfg.cores[k].role = .common ∧ ∃ (l : CoreId) (x : Chan), cfg.cores[l].role = .load x ∧ groupOf x = g
          ∧ cfg.cores[l].cable = cfg.cores[k].cable) := by
  have loads : ∀ l : CoreId, (match cfg.cores[l].role with
      | .load c => groupOf c == g && cfg.cores[l].cable == cfg.cores[k].cable
      | _ => false) = true ↔ ∃ x, cfg.cores[l].role = .load x ∧ groupOf x = g ∧ cfg.cores[l].cable = cfg.cores[k].cable := by
    intro l
    cases cfg.cores[l].role <;> simp
  unfold Settings.serves
  cases h : cfg.cores[k].role with
  | load c => simp
  | common =>
    dsimp only
    rw [List.any_eq_true]
    constructor
    · rintro ⟨l, -, m⟩
      exact .inr ⟨rfl, l, (loads l).mp m⟩
    · rintro (⟨x, e, -⟩ | ⟨-, l, m⟩)
      · cases e
      · exact ⟨l, List.mem_finRange l, (loads l).mpr m⟩
  | spare => simp
  | unused => simp

theorem State.cableFlag_iff : s.cableFlag g = true ↔ ∃ k : CoreId,
    ((⟨.core k, .insulationLow⟩ : Cond) ∈ s.faults.confirmed ∨ (⟨.core k, .earthFault⟩ : Cond) ∈ s.faults.confirmed)
      ∧ s.work.serves k g = true := by
  unfold State.cableFlag
  rw [List.any_eq_true]
  constructor
  · rintro ⟨⟨source, kind⟩, m, h⟩
    cases source <;> try cases h
    case core k =>
      obtain ⟨a, b⟩ := (Bool.and_eq_true _ _).mp h
      refine ⟨k, ?_, b⟩
      rcases (Bool.or_eq_true _ _).mp a with a | a
      · exact .inl (beq_iff_eq.mp a ▸ m)
      · exact .inr (beq_iff_eq.mp a ▸ m)
  · rintro ⟨k, m | m, h⟩
    · exact ⟨_, m, by simpa using h⟩
    · exact ⟨_, m, by simpa using h⟩

/-- The number of a group's pattern is the sum of its five flags. -/
theorem State.patternOf_eq (s : State) (g : Group) : s.patternOf g
    = (s.isConfirmed ⟨.group g, .redOut⟩).toNat + 2 * (s.isConfirmed ⟨.channel (chanOf g 1), .lampOut⟩).toNat
      + 4 * (s.isConfirmed ⟨.channel (chanOf g 2), .lampOut⟩).toNat
      + 8 * (s.isConfirmed ⟨.channel (chanOf g 0), .darkCurrent⟩ || s.isConfirmed ⟨.channel (chanOf g 1), .darkCurrent⟩
          || s.isConfirmed ⟨.channel (chanOf g 2), .darkCurrent⟩).toNat + 16 * (s.cableFlag g).toNat := by
  have flag : ∀ (b : Bool) (n : Nat), (if b then n else 0) = n * b.toNat := by
    intro b n
    cases b <;> simp
  unfold State.patternOf
  rw [flag, flag, flag, flag, flag, one_mul]

theorem State.darkFlag_iff : (s.isConfirmed ⟨.channel (chanOf g 0), .darkCurrent⟩
    || s.isConfirmed ⟨.channel (chanOf g 1), .darkCurrent⟩ || s.isConfirmed ⟨.channel (chanOf g 2), .darkCurrent⟩) = true
      ↔ ∃ k : Fin 3, (⟨.channel (chanOf g k), .darkCurrent⟩ : Cond) ∈ s.faults.confirmed := by
  rw [Bool.or_eq_true, Bool.or_eq_true, State.isConfirmed_iff, State.isConfirmed_iff, State.isConfirmed_iff,
    Fin.exists_fin_succ, Fin.exists_fin_succ, Fin.exists_fin_one, or_assoc]
  rfl

/-! ### CONFLICT_RED_OUT (R14) -/

theorem State.conflictRedOut_iff : s.conflictRedOut g = true ↔
    ∃ i : Group, s.work.ig[i][g] ≠ none ∧ (⟨.group i, .redOut⟩ : Cond) ∈ s.faults.confirmed := by
  unfold State.conflictRedOut Settings.conflict
  simp [allGroups, Option.isSome_iff_ne_none, State.isConfirmed_iff]

theorem State.conflictRedOut_of_eq (w : t.work = s.work) (f : t.faults.confirmed = s.faults.confirmed) :
    t.conflictRedOut g = s.conflictRedOut g := by
  unfold State.conflictRedOut State.isConfirmed
  rw [w, f]

/-- An inhibit reason touches its group and what the event passes on. -/
theorem State.inhibit_get (s : State) (g d : Group) (f : GroupRun → GroupRun) :
    (s.inhibit g f).groups[d] = if g = d then f s.groups[d] else s.groups[d] := by
  obtain ⟨e, h⟩ := s.inhibit_eq g f
  rw [h]
  exact upd_get _ _ _ _

theorem State.inhibit_frame (s : State) (g : Group) (f : GroupRun → GroupRun) :
    (s.inhibit g f).work = s.work ∧ (s.inhibit g f).faults = s.faults ∧ (s.inhibit g f).mode = s.mode
      ∧ (s.inhibit g f).ev.modeReqs = s.ev.modeReqs := by
  have h := s.inhibit_eq g f
  have reqs : (s.inhibit g f).ev.modeReqs = s.ev.modeReqs := by
    unfold State.inhibit
    dsimp only
    split
    · rfl
    · split <;> rfl
  obtain ⟨e, h⟩ := h
  refine ⟨by rw [h], by rw [h], by rw [h], reqs⟩

/-- The judgement of CONFLICT_RED_OUT over some groups, one after another. -/
theorem State.each_conflictRedOut (l : List Group) (nd : l.Nodup) (s : State) :
    let u := s.each l fun g t => t.inhibit g fun r => { r with conflictRedOut := t.conflictRedOut g }
    u.work = s.work ∧ u.faults = s.faults ∧ ∀ d : Group, (d ∉ l → u.groups[d] = s.groups[d])
      ∧ (d ∈ l → (u.groups[d]).conflictRedOut = s.conflictRedOut d) := by
  induction l generalizing s with
  | nil => exact ⟨rfl, rfl, fun d => ⟨fun _ => rfl, fun m => (nomatch m)⟩⟩
  | cons a l ih =>
    obtain ⟨na, nd⟩ := List.nodup_cons.mp nd
    obtain ⟨w, f, -⟩ := s.inhibit_frame a fun r => { r with conflictRedOut := s.conflictRedOut a }
    have get := fun d => s.inhibit_get a d fun r => { r with conflictRedOut := s.conflictRedOut a }
    obtain ⟨w', f', k⟩ := ih nd (s.inhibit a fun r => { r with conflictRedOut := s.conflictRedOut a })
    refine ⟨w'.trans w, f'.trans f, fun d => ⟨fun n => ?_, fun m => ?_⟩⟩
    · obtain ⟨ne, nl⟩ := not_or.mp fun o => n (List.mem_cons.mpr o)
      exact ((k d).1 nl).trans ((get d).trans (if_neg (Ne.symm ne)))
    · by_cases e : a = d
      · subst e
        refine (congrArg GroupRun.conflictRedOut (((k a).1 na).trans ((get a).trans (if_pos rfl))))
      · exact ((k d).2 ((List.mem_cons.mp m).resolve_left (Ne.symm e))).trans
          (State.conflictRedOut_of_eq w (congrArg Faults.confirmed f))

theorem State.judgeConflictRedOut_get (s : State) (g : Group) :
    (s.judgeConflictRedOut.groups[g]).conflictRedOut = s.conflictRedOut g := by
  obtain ⟨-, -, k⟩ := State.each_conflictRedOut allGroups allGroups_nodup s
  exact (k g).2 (mem_allGroups g)

/-- What follows from a report of RED_OUT leaves CONFLICT_RED_OUT as the confirmed set has it. -/
theorem State.concerned_redOut (s : State) (i g : Group) :
    ((s.concerned ⟨.group i, .redOut⟩).groups[g]).conflictRedOut = (s.concerned ⟨.group i, .redOut⟩).conflictRedOut g := by
  have e : s.concerned ⟨.group i, .redOut⟩ = s.reformAll.judgeConflictRedOut := by
    have flagged : Kind.redOut.flagged = true := rfl
    unfold State.concerned
    dsimp only
    rw [if_pos flagged, if_pos rfl]
  obtain ⟨work, faults, -⟩ := State.each_conflictRedOut allGroups allGroups_nodup s.reformAll
  rw [e, State.judgeConflictRedOut_get]
  exact (State.conflictRedOut_of_eq work (congrArg Faults.confirmed faults)).symm

/-- A confirmation of RED_OUT judges CONFLICT_RED_OUT in its own event (R14). -/
theorem State.confirm_redOut {i j : Group} (c : s.work.ig[i][j] ≠ none)
    (n : (⟨.group i, .redOut⟩ : Cond) ∉ s.faults.confirmed) :
    ((s.confirm ⟨.group i, .redOut⟩ .normal).groups[j]).conflictRedOut = true := by
  have e : ∃ v : State, s.confirm ⟨.group i, .redOut⟩ .normal = v.concerned ⟨.group i, .redOut⟩ := by
    unfold State.confirm
    dsimp only
    rw [if_neg fun h : (s.dropSuspicion ⟨.group i, .redOut⟩).isConfirmed ⟨.group i, .redOut⟩ = true =>
      n (State.isConfirmed_iff.mp h)]
    exact ⟨_, rfl⟩
  have here : (⟨.group i, .redOut⟩ : Cond) ∈ (s.confirm ⟨.group i, .redOut⟩ .normal).faults.confirmed :=
    State.mem_confirm.mpr (.inr rfl)
  have work := (Quiet.confirm s ⟨.group i, .redOut⟩ .normal).work
  obtain ⟨v, e⟩ := e
  rw [e] at here work ⊢
  rw [v.concerned_redOut, State.conflictRedOut_iff]
  exact ⟨i, by rw [work]; exact c, here⟩

/-- The end of the last RED_OUT that conflicts with a group judges CONFLICT_RED_OUT in its own event (R14). -/
theorem State.endCond_redOut {i j : Group} (m : (⟨.group i, .redOut⟩ : Cond) ∈ s.faults.confirmed)
    (n : ∀ h : Group, h ≠ i → s.work.ig[h][j] ≠ none → (⟨.group h, .redOut⟩ : Cond) ∉ s.faults.confirmed) :
    ((s.endCond ⟨.group i, .redOut⟩).groups[j]).conflictRedOut = false := by
  have e : s.endCond ⟨.group i, .redOut⟩ = (s.dropCond ⟨.group i, .redOut⟩).concerned ⟨.group i, .redOut⟩ := by
    unfold State.endCond
    rw [if_pos (State.isConfirmed_iff.mpr m)]
  have mem := fun k : Cond => State.mem_endCond (s := s) (k := k) (x := ⟨.group i, .redOut⟩)
  have work := (Quiet.endCond s ⟨.group i, .redOut⟩).work
  rw [e] at mem work ⊢
  rw [State.concerned_redOut, Bool.eq_false_iff, ne_eq, State.conflictRedOut_iff]
  rintro ⟨h, c, k⟩
  obtain ⟨k, ne⟩ := (mem _).mp k
  rw [work] at c
  exact n h (fun e => ne (by rw [e])) c k

/-! ### Groups that reasons reach or leave (R17, R18) -/

/-- One group's part of the dropping of inhibited groups. -/
def State.dropIfInhibited (g : Group) (t : State) : State :=
  if !(t.groups[g]).inhibited then t
  else if (t.groups[g]).pendingGreen then (State.endIfGreen g t).dropGaining g else State.endIfGreen g t

theorem State.dropInhibited_eq (s : State) : s.dropInhibited = s.each allGroups State.dropIfInhibited := by
  unfold State.dropInhibited State.dropIfInhibited State.endIfGreen
  rfl

theorem Touches.dropIfInhibited (g : Group) (t : State) : Touches g t (State.dropIfInhibited g t) := by
  unfold State.dropIfInhibited
  split
  · exact .refl g t
  · split
    · exact .trans (.endIfGreen g t) (.dropGaining _ g)
    · exact .endIfGreen g t

theorem State.endIfGreen_pending (s : State) (g : Group) :
    ((State.endIfGreen g s).groups[g]).pendingGreen = (s.groups[g]).pendingGreen := by
  unfold State.endIfGreen
  split
  · exact s.endGreen_pending g g
  · rfl

theorem State.dropGaining_pending (s : State) (g : Group) : ((s.dropGaining g).groups[g]).pendingGreen = false := by
  unfold State.dropGaining
  rw [State.mark_groups, s.updGroup_get_same]

/-- An inhibited group is neither GREEN nor gaining when the inhibited groups have been dropped. -/
theorem State.dropIfInhibited_spec (s : State) (g : Group) (h : (s.groups[g]).inhibited = true) :
    ((State.dropIfInhibited g s).groups[g]).aspect ≠ .green
      ∧ ((State.dropIfInhibited g s).groups[g]).pendingGreen = false := by
  have ng := s.endIfGreen_not_green g
  have pending := s.endIfGreen_pending g
  unfold State.dropIfInhibited
  rw [if_neg (by rw [h]; decide)]
  generalize State.endIfGreen g s = t at ng pending ⊢
  split
  · exact ⟨fun k => ng ((t.dropGaining_green g g).mp k), t.dropGaining_pending g⟩
  · next n => exact ⟨ng, pending.trans (by simpa using n)⟩

theorem State.dropInhibited_get (s : State) (g : Group) :
    ((s.groups[g]).inhibited = false → s.dropInhibited.groups[g] = s.groups[g])
      ∧ ((s.groups[g]).inhibited = true → ∃ t : State, t.groups[g] = s.groups[g] ∧ t.work = s.work ∧ t.now = s.now
        ∧ s.dropInhibited.groups[g] = (State.dropIfInhibited g t).groups[g]) := by
  obtain ⟨-, -, -, -, -, -, -, k⟩ := State.each_touches (f := State.dropIfInhibited) Touches.dropIfInhibited allGroups s
    (fun _ => True) trivial (fun _ _ _ _ => trivial) allGroups_nodup
  obtain ⟨t, -, same, -, work, now, -, after⟩ := (k g).2 (mem_allGroups g)
  rw [s.dropInhibited_eq, after]
  refine ⟨fun h => ?_, fun _ => ⟨t, same, work, now, rfl⟩⟩
  unfold State.dropIfInhibited
  rw [if_pos (by rw [same, h]; rfl), same]

theorem State.endGreen_off (s : State) (g : Group) :
    ((s.endGreen g).groups[g]).lastGreenOff = some s.now := by
  obtain ⟨f, e, a, am, r, -⟩ := s.endGreen_spec g
  rw [e, State.mark_groups, s.updGroup_get_same, r]

theorem State.dropInhibited_amber (h : (s.groups[g]).inhibited = true) (green : (s.groups[g]).aspect = .green)
    (type : s.work.groups[g].type = .vehicle ∨ s.work.groups[g].type = .arrow) (p : (s.groups[g]).pendingGreen = false) :
    (s.dropInhibited.groups[g]).aspect = .amber
      ∧ (s.dropInhibited.groups[g]).amberTimer = some (s.now + 100 * s.work.groups[g].amber)
      ∧ (s.dropInhibited.groups[g]).lastGreenOff = some s.now := by
  obtain ⟨t, same, work, now, e⟩ := (s.dropInhibited_get g).2 h
  have ended : State.dropIfInhibited g t = t.endGreen g := by
    unfold State.dropIfInhibited State.endIfGreen
    rw [same, if_neg (by rw [h]; decide), if_neg (by rw [p]; decide), if_pos green]
  have type : t.work.groups[g].type = .vehicle ∨ t.work.groups[g].type = .arrow := by rw [work]; exact type
  obtain ⟨a, am⟩ := State.endGreen_amber type
  rw [e, ended, ← now, ← work]
  exact ⟨a, am, t.endGreen_off g⟩

theorem State.inhibit_last {f : GroupRun → GroupRun} (h : (s.groups[g]).inhibited = true)
    (k : (f s.groups[g]).inhibited = false) : s.inhibit g f = (s.updGroup g f).free g := by
  have get : (s.updGroup g f).groups[g] = f s.groups[g] := s.updGroup_get_same g f
  unfold State.inhibit
  dsimp only
  rw [get, h, k, if_neg (by decide), if_neg (by decide)]

/-! ### Patterns and responses (R162) -/

theorem State.reform_same (h : s.patternOf g = s.faults.patterns[g]) : s.reform g = s := by
  unfold State.reform
  dsimp only
  rw [if_pos h]

theorem junctionLevel_iff {r : Response} : junctionLevel r = true ↔ r = .junctionFlash ∨ r = .junctionDark := by
  cases r <;> simp [junctionLevel, responseRank]

theorem State.ask_if (s : State) {b : Bool} {p : Prop} [Decidable p] (h : b = true ↔ p) (x : ModeReq) :
    (if b = true then s.ask x else s).faults = s.faults ∧ (if b = true then s.ask x else s).groups = s.groups
      ∧ (if b = true then s.ask x else s).ev.modeReqs = s.ev.modeReqs ++ if p then [x] else [] := by
  by_cases c : b = true
  · rw [if_pos c, if_pos (h.mp c)]
    exact ⟨rfl, rfl, rfl⟩
  · rw [if_neg c, if_neg fun k => c (h.mpr k)]
    exact ⟨rfl, rfl, (List.append_nil _).symm⟩

/-- A changed pattern takes its response from the table, which sets or removes HOLD and may make a junction request. -/
theorem State.reform_changed (h : s.patternOf g ≠ s.faults.patterns[g]) :
    let e := s.work.respOf (s.patternOf g)
    (s.reform g).faults.patterns[g] = s.patternOf g ∧ (s.reform g).faults.responses[g] = e.response
      ∧ ((s.reform g).groups[g]).hold = decide (e.response = .holdGroup)
      ∧ (s.reform g).ev.modeReqs = s.ev.modeReqs ++
          (if (e.response = .junctionFlash ∨ e.response = .junctionDark)
              ∧ responseRank (s.faults.responses[g]) < responseRank e.response
            then [.junction (decide (e.response = .junctionDark)) e.immediate] else []) := by
  dsimp only
  unfold State.reform
  dsimp only
  rw [if_neg h]
  generalize s.work.respOf (s.patternOf g) = e
  have set : ∀ v : State, v.faults.patterns[g] = s.patternOf g → v.faults.responses[g] = e.response →
      v.ev.modeReqs = s.ev.modeReqs →
      (v.setHold g (decide (e.response = .holdGroup))).faults.patterns[g] = s.patternOf g
      ∧ (v.setHold g (decide (e.response = .holdGroup))).faults.responses[g] = e.response
      ∧ ((v.setHold g (decide (e.response = .holdGroup))).groups[g]).hold = decide (e.response = .holdGroup)
      ∧ (v.setHold g (decide (e.response = .holdGroup))).ev.modeReqs = s.ev.modeReqs := by
    intro v p r m
    obtain ⟨-, faults, -, reqs⟩ := v.inhibit_frame g fun r => { r with hold := decide (e.response = .holdGroup) }
    have get := v.inhibit_get g g fun r => { r with hold := decide (e.response = .holdGroup) }
    rw [if_pos rfl] at get
    unfold State.setHold
    rw [faults, reqs, get]
    exact ⟨p, r, rfl, m⟩
  have set := set { s with faults := { s.faults with
    patterns := s.faults.patterns.set g (s.patternOf g), responses := s.faults.responses.set g e.response } }
    (by simp) (by simp) rfl
  generalize State.setHold _ g (decide (e.response = .holdGroup)) = u at set ⊢
  obtain ⟨p, r, hold, reqs⟩ := set
  have cond : (junctionLevel e.response && decide (responseRank s.faults.responses[g] < responseRank e.response)) = true ↔
      (e.response = .junctionFlash ∨ e.response = .junctionDark)
        ∧ responseRank s.faults.responses[g] < responseRank e.response := by
    rw [Bool.and_eq_true, junctionLevel_iff, decide_eq_true_eq]
  obtain ⟨faults, groups, asked⟩ := u.ask_if cond (.junction (decide (e.response = .junctionDark)) e.immediate)
  generalize (if (junctionLevel e.response && decide (responseRank s.faults.responses[g] < responseRank e.response)) = true
    then u.ask (.junction (decide (e.response = .junctionDark)) e.immediate) else u) = w at faults groups asked ⊢
  rw [faults, groups, asked, reqs]
  exact ⟨p, r, hold, rfl⟩

end Sys2Proof.Machine

/-! SUPPORT. What the engine makes of an event, as a property of states sees it that its operations keep; and O45. -/

namespace Sys2Proof.Machine

variable {s t u : State} {g : Group} {P : State → Prop}

/-! ### Properties that the engine's operations keep -/

/-- From s to t the groups, the mode, the plan sets and which groups have lost their last inhibit reason are as they were. -/
structure SameSequence (s t : State) : Prop where
  groups : t.groups = s.groups := by rfl
  mode   : t.mode = s.mode := by rfl
  inUse  : t.inUse = s.inUse := by rfl
  set    : t.pendingSet = s.pendingSet := by rfl
  freed  : t.ev.freed = s.ev.freed := by rfl

/-- With no pending set, there is none after it and the set in use is as it was. -/
def PlansKept (s t : State) : Prop := s.pendingSet = none → t.pendingSet = none ∧ t.inUse = s.inUse

theorem PlansKept.refl (s : State) : PlansKept s s := fun n => ⟨n, rfl⟩

theorem PlansKept.ofEq (h : t.inUse = s.inUse) (k : t.pendingSet = s.pendingSet) : PlansKept s t :=
  fun n => ⟨k.trans n, h⟩

theorem PlansKept.trans (h : PlansKept s t) (k : PlansKept t u) : PlansKept s u := fun n => by
  obtain ⟨none, same⟩ := h n
  obtain ⟨none', same'⟩ := k none
  exact ⟨none', same'.trans same⟩

theorem PlansKept.of (k : PlansKept t u) (h : PlansKept s t) : PlansKept s u := h.trans k

theorem Quiet.plansKept (h : Quiet s t) : PlansKept s t := .ofEq h.inUse h.pendingSet

/-- A property of states that each operation of the engine keeps. -/
structure EngineClosed (P : State → Prop) : Prop where
  adjust : ∀ {s t : State}, SameSequence s t → P s → P t
  plans : ∀ {s t : State}, PlanOnly s t → PlansKept s t → P s → P t
  endGreen : ∀ {s : State} (d : Group), P s → P (s.endGreen d)
  dropIfInhibited : ∀ {s : State} (d : Group), P s → P (State.dropIfInhibited d s)
  advanceGroup : ∀ {s : State} (d : Group), P s → P (s.advanceGroup d)
  wait : ∀ {s : State} (d : Group) (n : Nat) (o : Option Nat), P s → P (s.updGroup d fun r =>
    { r with pendingGreen := true, greenRelease := some n, redAmberStart := o })

/-! ### The plan sets in an event -/

theorem PlansKept.translateFor (s : State) (ref : PlanRef) : PlansKept s (s.translateFor ref).1 := by
  unfold State.translateFor
  split
  · exact (Quiet.observe s _).plansKept
  · next p _ =>
    have ended := (Quiet.each (fun k t => .endCond t ⟨.plan p.number, k⟩) translationKinds s).plansKept
    dsimp only
    generalize s.each translationKinds _ = v at ended ⊢
    exact ended.trans (.ofEq rfl rfl)

theorem PlansKept.takeChange (s : State) (c : PendingChange) : PlansKept s (s.takeChange c).1 :=
  .of (.translateFor _ _) (.ofEq rfl rfl)

theorem PlansKept.crossBoundary (s : State) : PlansKept s s.crossBoundary.1 := by
  unfold State.crossBoundary
  split
  · next h =>
    intro n
    rw [n] at h
    cases h
  · split
    · exact .refl s
    · have a := PlansKept.takeChange s
      dsimp only
      split
      · exact .of (Quiet.notify _ _).plansKept (a _)
      · exact a _

theorem PlansKept.scanPlan (s : State) : PlansKept s s.scanPlan.1 := by
  have a := PlansKept.crossBoundary s
  unfold State.scanPlan
  split
  · exact .refl s
  · dsimp only
    split
    · exact .refl s
    · split
      · exact .refl s
      · split
        · split <;> exact a
        · exact a

/-! ### The engine's work in an event -/

section
variable (c : EngineClosed P)
include c

theorem EngineClosed.dropInhibited (h : P s) : P s.dropInhibited := by
  rw [s.dropInhibited_eq]
  exact State.each_induct (P := P) _ _ h fun d _ _ k => c.dropIfInhibited d k

theorem EngineClosed.setGaining (h : P s) (d : Group) (n : Nat) (o : Option Nat) : P (s.setGaining d n o) := by
  have waits := c.wait d n o h
  unfold State.setGaining
  generalize (s.updGroup d fun r =>
    { r with pendingGreen := true, greenRelease := some n, redAmberStart := o } : State) = v at waits ⊢
  have quiet := Quiet.surveyPending v d
  have touches := Touches.surveyPending v d
  have surveyed := c.adjust ⟨v.surveyPending_groups d, touches.mode, quiet.inUse, quiet.pendingSet, touches.freed⟩ waits
  generalize v.surveyPending d = w at surveyed ⊢
  have asked : P w.wantSelection := c.adjust {} surveyed
  exact c.advanceGroup d asked

theorem EngineClosed.gain (h : P s) (entry : Bool) (d : Group) : P (State.gain entry d s) := by
  unfold State.gain
  split
  · split <;> exact c.setGaining h _ _ _
  · exact c.setGaining h _ _ _

theorem EngineClosed.beginChange (h : P s) (i : Nat) (r : ResolvedRecord) (entry : Bool) :
    P (s.beginChange i r entry) := by
  have same : SameSequence s (s.changeOpened i r) := by
    unfold State.changeOpened
    dsimp only
    split <;> exact {}
  have cleared : P (s.changeCleared i r) :=
    State.each_induct (P := P) _ _ (c.adjust same h) fun d _ _ k => c.endGreen d k
  rw [s.beginChange_eq]
  generalize s.changeCleared i r = v at cleared ⊢
  have hold : SameSequence v (v.holdGaining (v.gainers r)) := by
    unfold State.holdGaining
    exact {}
  have held := c.adjust hold cleared
  generalize v.holdGaining (v.gainers r) = w at held ⊢
  have gained := State.each_induct (P := P) (f := State.gain entry) (v.gainers r) w held
    fun d _ _ k => c.gain k entry d
  exact c.adjust {} gained

theorem EngineClosed.beginGreen (h : P s) (k : PlanKind) (i : Nat) (r : ResolvedRecord) : P (s.beginGreen k i r) := by
  have gap : ∀ v : State, P v → P (v.startGap r.gap) := fun v x => by
    unfold State.startGap
    split <;> exact c.adjust {} x
  have timed : ∀ v : State, P v → P (if k = .fixed then v
      else if v.occupied[r.stage] then v.stopGap else v.startGap r.gap).mark := fun v x => by
    split
    · exact c.adjust {} x
    · split
      · exact c.adjust {} x
      · exact c.adjust {} (gap v x)
  unfold State.beginGreen
  exact timed _ (c.adjust {} h)

theorem EngineClosed.toAllRed (h : P s) : P s.toAllRed := c.adjust {} h

theorem EngineClosed.noneTaken (h : P s) : P s.noneTaken := by
  unfold State.noneTaken
  dsimp only
  split
  · exact c.adjust {} h
  · split
    · exact c.toAllRed (c.adjust {} h)
    · exact c.toAllRed (c.adjust {} h)

theorem EngineClosed.takeDecision (h : P s) : P s.takeDecision := by
  have scanned := c.plans (.scanPlan s) (.scanPlan s) h
  unfold State.takeDecision
  split
  · exact h
  · split
    · exact h
    · generalize s.scanPlan = y at scanned ⊢
      obtain ⟨v, taken⟩ := y
      dsimp only at scanned ⊢
      split
      · split
        · exact c.beginGreen scanned _ _ _
        · exact c.beginChange scanned _ _ _
      · exact c.noneTaken scanned

theorem EngineClosed.enterPlan (h : P s) (x : PlanCause) : P (s.enterPlan x) := by
  have stopped : P s.stopTimers := c.adjust {} h
  have marked : ∀ v : State, P v → P v.mark := fun v h => c.adjust {} h
  have notified := fun n => c.plans (.notify s.stopTimers n) (Quiet.notify _ n).plansKept stopped
  unfold State.enterPlan
  exact marked _ (c.takeDecision (notified _))

theorem EngineClosed.takePrompt (h : P s) : P s.takePrompt.1 := by
  have only : ∀ v : State, PlanOnly v v.fallBack.1 := fun v => by
    unfold State.fallBack
    split
    · exact .refl v
    · exact .translateFor v _
  have kept : ∀ v : State, PlansKept v v.fallBack.1 := fun v => by
    unfold State.fallBack
    split
    · exact .refl v
    · exact .translateFor v _
  obtain e | ⟨x, -, -, k⟩ := s.takePrompt_cases
  · rw [e]; exact h
  · have a := c.plans (.takeChange s x) (.takeChange s x) h
    have b := c.plans (only _) (kept _) a
    obtain ⟨-, e⟩ | ⟨-, -, e⟩ | ⟨-, -, e⟩ := k <;> rw [e]
    · exact c.enterPlan a _
    · exact c.enterPlan b _
    · exact b

theorem EngineClosed.workChanging (h : P s) : P s.workChanging := by
  unfold State.workChanging
  split
  · exact h
  · split
    · split
      · exact c.beginGreen h _ _ _
      · exact h
    · exact c.takeDecision (c.toAllRed h)

theorem EngineClosed.workGreen (h : P s) (b : Bool) : P (s.workGreen b) := by
  have stopped : ∀ v : State, P v → P v.stopTimers := fun v x => c.adjust {} x
  have prompt : P (if s.engine.greenTimer.isNone then s.takePrompt else (s, false)).1 := by
    split
    · exact c.takePrompt h
    · exact h
  unfold State.workGreen
  split
  · exact c.takeDecision (stopped s h)
  · generalize (if s.engine.greenTimer.isNone then s.takePrompt else (s, false)) = y at prompt ⊢
    obtain ⟨v, taken⟩ := y
    dsimp only at prompt ⊢
    split
    · exact prompt
    · split
      · exact prompt
      · split
        · split
          · exact c.takeDecision (stopped v prompt)
          · exact prompt
        · have m : P v.startMaximum := by
            unfold State.startMaximum
            split
            · split
              · exact c.adjust {} prompt
              · exact prompt
            · exact prompt
          generalize v.startMaximum = w at m ⊢
          split
          · exact c.takeDecision (stopped w m)
          · exact m

theorem EngineClosed.workIdle (h : P s) (b : Bool) : P (s.workIdle b) := by
  have idle : P { s with ev := { s.ev with occasion := false } } := c.adjust {} h
  unfold State.workIdle
  dsimp only
  generalize ({ s with ev := { s.ev with occasion := false } } : State) = v at idle ⊢
  have decided : P (if (b || s.ev.occasion) = true then v.takeDecision else v) := by
    split
    · exact c.takeDecision idle
    · exact idle
  generalize (if (b || s.ev.occasion) = true then v.takeDecision else v) = w at decided ⊢
  split
  · exact c.takePrompt decided
  · exact decided

/-- What each operation of the engine keeps, its work in an event keeps. -/
theorem EngineClosed.engineWork (h : P s) : P s.engineWork := by
  have dropped := c.dropInhibited h
  unfold State.engineWork
  split
  · exact h
  · dsimp only
    generalize s.dropInhibited = v at dropped ⊢
    split
    · exact dropped
    · exact c.workChanging dropped
    · exact c.workGreen dropped _
    · exact c.workIdle dropped _
    · exact c.workIdle dropped _

end

/-! ### A group that has lost its last inhibit reason in this event (R18) -/

/-- A group that is not GREEN and is kept from green in this event. -/
def State.KeptFromGreen (g : Group) (s : State) : Prop := (s.groups[g]).aspect ≠ .green ∧ g ∈ s.ev.freed

theorem State.KeptFromGreen.of_eq (h : s.KeptFromGreen g) (e : t.groups = s.groups) (f : t.ev.freed = s.ev.freed) :
    t.KeptFromGreen g := by
  unfold State.KeptFromGreen at *
  rw [e, f]
  exact h

/-- An operation on another group keeps a group from green; one on the group itself has to. -/
theorem State.KeptFromGreen.touches {d : Group} (h : s.KeptFromGreen g) (k : Touches d s t)
    (own : d = g → (t.groups[g]).aspect ≠ .green) : t.KeptFromGreen g := by
  refine ⟨?_, by rw [k.freed]; exact h.2⟩
  by_cases e : d = g
  · exact own e
  · rw [k.others g e]
    exact h.1

theorem State.KeptFromGreen.dropIfInhibited (h : s.KeptFromGreen g) (d : Group) :
    (State.dropIfInhibited d s).KeptFromGreen g := by
  refine h.touches (.dropIfInhibited d s) ?_
  rintro rfl
  by_cases i : (s.groups[d]).inhibited = true
  · exact (s.dropIfInhibited_spec d i).1
  · unfold State.dropIfInhibited
    rw [if_pos (by simpa using i)]
    exact h.1

/-- A group kept from green is not taken on to green, though its green-release time may have come. -/
theorem State.KeptFromGreen.advanceGroup (h : s.KeptFromGreen g) (d : Group) : (s.advanceGroup d).KeptFromGreen g := by
  refine h.touches (.advanceGroup s d) ?_
  rintro rfl
  obtain e | ⟨-, -, -, n, -⟩ | ⟨-, -, -, e⟩ := s.advanceGroup_cases d
  · rw [e]; exact h.1
  · exact (n h.2).elim
  · rw [e, State.mark_groups, s.updGroup_get_same]
    simp

theorem State.KeptFromGreen.wait (h : s.KeptFromGreen g) (d : Group) (n : Nat) (o : Option Nat) :
    State.KeptFromGreen g (s.updGroup d fun r =>
      { r with pendingGreen := true, greenRelease := some n, redAmberStart := o }) := by
  refine h.touches (.updGroup s d _) ?_
  rintro rfl
  rw [s.updGroup_get_same]
  exact h.1

/-- Nothing that the engine does in an event gives green to a group that has lost its last inhibit reason in it (R18). -/
theorem State.KeptFromGreen.closed (g : Group) : EngineClosed (State.KeptFromGreen g) where
  adjust := fun k h => h.of_eq k.groups k.freed
  plans := fun k _ h => by
    obtain ⟨groups, -, ev, -⟩ := k.frame
    exact h.of_eq groups (congrArg Ev.freed ev)
  endGreen := fun d h => h.touches (.endGreen _ d) fun e => by
    subst e
    exact State.endGreen_not_green _ d
  dropIfInhibited := fun d h => h.dropIfInhibited d
  advanceGroup := fun d h => h.advanceGroup d
  wait := fun d n o h => h.wait d n o

/-- Settles O45: the pattern's number, CONFLICT_RED_OUT, the groups that reasons reach or leave, and the response of a pattern. -/
theorem inhibitReasons : Obligations.InhibitReasons := by
  refine ⟨fun s g => ?_, fun s j i => ⟨?_, State.confirm_redOut, State.endCond_redOut⟩, fun s g => ⟨fun h => ?_, fun h =>
    (s.dropInhibited_get g).1 h⟩, fun s g f h k => ?_, fun s g a b => (State.KeptFromGreen.closed g).engineWork ⟨b, a⟩,
    fun s g => ⟨State.reform_same, fun h _ => State.reform_changed h⟩⟩
  · refine ⟨_, _, _, _, _, s.patternOf_eq g, State.isConfirmed_iff, State.isConfirmed_iff, State.isConfirmed_iff,
      State.darkFlag_iff, ?_⟩
    rw [State.cableFlag_iff]
    exact exists_congr fun k => and_congr_right fun _ => Settings.serves_iff
  · rw [State.judgeConflictRedOut_get]
    exact State.conflictRedOut_iff
  · obtain ⟨t, same, -, -, e⟩ := (s.dropInhibited_get g).2 h
    obtain ⟨aspect, pending⟩ := t.dropIfInhibited_spec g (by rw [same]; exact h)
    refine ⟨by rw [e]; exact aspect, by rw [e]; exact pending, fun green type p => State.dropInhibited_amber h green type p⟩
  · dsimp only
    rw [State.inhibit_last h k]
    refine ⟨rfl, List.mem_cons_self, ?_⟩
    show (s.ev.occasion || decide (s.engine.state = .resting) || decide (s.engine.state = .allRed)) = true ↔ _
    simp [or_assoc]

end Sys2Proof.Machine

/-! SUPPORT. The first failing item of a validation (R12, R40, R138, R179). -/

namespace Sys2Proof.Machine

/-! ### A search that finds the item at the first place -/

/-- Which items fail, each at its place in the order of a validation. -/
abbrev Failing := List Nat → JobResult → Prop

/-- The answer of a check is the item at the first place at which one fails, and none where none fails. -/
structure Finds (x : Option JobResult) (F : Failing) : Prop where
  none : x = none → ∀ a r, ¬ F a r
  some : ∀ r, x = some r → ∃ a, F a r ∧ ∀ b q, F b q → ¬ b < a
  one  : ∀ a r q, F a r → F a q → r = q

/-- The items of a check, at places below a number. -/
def Failing.at (k : Nat) (F : Failing) : Failing := fun a r => ∃ b, a = k :: b ∧ F b r

/-- The items of either of two checks. -/
def Failing.or (F G : Failing) : Failing := fun a r => F a r ∨ G a r

/-- An item that fails where a condition holds. -/
def Failing.when (p : Prop) (r : JobResult) : Failing := fun a q => a = [] ∧ q = r ∧ p

variable {x y : Option JobResult} {F G : Failing}

theorem Finds.congr (h : Finds x F) (e : ∀ a r, F a r ↔ G a r) : Finds x G where
  none := fun n a r g => h.none n a r ((e a r).mpr g)
  some := fun r s => by
    obtain ⟨a, f, m⟩ := h.some r s
    exact ⟨a, (e a r).mp f, fun b q g => m b q ((e b q).mpr g)⟩
  one := fun a r q f g => h.one a r q ((e a r).mpr f) ((e a q).mpr g)

theorem Finds.iff (h : Finds x F) (r : JobResult) :
    x = Option.some r ↔ ∃ a, F a r ∧ ∀ b q, F b q → ¬ b < a := by
  refine ⟨h.some r, fun ⟨a, f, m⟩ => ?_⟩
  cases e : x with
  | none => exact (h.none e a r f).elim
  | some q =>
    obtain ⟨b, g, l⟩ := h.some q e
    have same : a = b := le_antisymm (not_lt.mp (m b q g)) (not_lt.mp (l a r f))
    rw [h.one a r q f (same ▸ g)]

theorem Finds.none_iff (h : Finds x F) : x = Option.none ↔ ∀ a r, ¬ F a r := by
  refine ⟨h.none, fun n => ?_⟩
  cases e : x with
  | none => rfl
  | some q =>
    obtain ⟨a, f, -⟩ := h.some q e
    exact (n a q f).elim

/-- A check of one item. -/
theorem Finds.leaf {p : Prop} {r : JobResult} (yes : p → x = .some r) (no : ¬ p → x = .none) : Finds x (.when p r) where
  none := fun n a q ⟨_, _, h⟩ => by rw [yes h] at n; cases n
  some := fun q s => by
    by_cases h : p
    · rw [yes h] at s
      cases s
      exact ⟨[], ⟨rfl, rfl, h⟩, fun b _ _ => List.not_lt_nil b⟩
    · rw [no h] at s
      cases s
  one := fun _ _ _ ⟨_, e, _⟩ ⟨_, e', _⟩ => e.trans e'.symm

theorem Finds.at (h : Finds x F) (k : Nat) : Finds x (.at k F) where
  none := fun n _ r ⟨b, _, f⟩ => h.none n b r f
  some := fun r s => by
    obtain ⟨a, f, m⟩ := h.some r s
    refine ⟨k :: a, ⟨a, rfl, f⟩, ?_⟩
    rintro _ q ⟨b, rfl, g⟩ lt
    rcases List.cons_lt_cons_iff.mp lt with n | ⟨-, n⟩
    · exact lt_irrefl k n
    · exact m b q g n
  one := by
    rintro _ r q ⟨b, rfl, f⟩ ⟨c, e, g⟩
    cases e
    exact h.one b r q f g

theorem Finds.or (h : Finds x F) (k : Finds y G) (order : ∀ a r b q, F a r → G b q → a < b) :
    Finds (x.or y) (.or F G) where
  none := fun n a r o => by
    obtain ⟨nx, ny⟩ := Option.or_eq_none_iff.mp n
    exact o.elim (h.none nx a r) (k.none ny a r)
  some := fun r s => by
    cases e : x with
    | none =>
      rw [e] at s
      obtain ⟨a, g, m⟩ := k.some r s
      exact ⟨a, .inr g, fun b q o => o.elim (fun f => (h.none e b q f).elim) (m b q)⟩
    | some p =>
      rw [e] at s
      cases s
      obtain ⟨a, f, m⟩ := h.some r e
      exact ⟨a, .inl f, fun b q o => o.elim (m b q) fun g => lt_asymm (order a r b q f g)⟩
  one := by
    rintro a r q (f | f) (g | g)
    · exact h.one a r q f g
    · exact (lt_irrefl a (order a r a q f g)).elim
    · exact (lt_irrefl a (order a q a r g f)).elim
    · exact k.one a r q f g

/-- The answer of the checks below a number, whose items stand at the places that begin with theirs. -/
structure FindsBelow (k : Nat) (x : Option JobResult) (F : Failing) : Prop where
  finds  : Finds x F
  before : ∀ a r, F a r → ∃ j b, a = j :: b ∧ j < k

theorem Finds.start (h : Finds x F) (k : Nat) : FindsBelow (k + 1) x (.at k F) :=
  ⟨h.at k, fun _ _ ⟨b, e, _⟩ => ⟨k, b, e, by omega⟩⟩

/-- The checks below a number are followed by the check of that number. -/
theorem FindsBelow.next {k : Nat} (h : FindsBelow k x F) (l : Finds y G) :
    FindsBelow (k + 1) (x.or y) (.or F (.at k G)) where
  finds := by
    refine h.finds.or (l.at k) ?_
    rintro a r _ q f ⟨b, rfl, -⟩
    obtain ⟨j, c, rfl, n⟩ := h.before a r f
    exact List.cons_lt_cons_iff.mpr (.inl n)
  before := by
    rintro a r (f | ⟨b, e, -⟩)
    · obtain ⟨j, c, e, n⟩ := h.before a r f
      exact ⟨j, c, e, by omega⟩
    · exact ⟨k, b, e, by omega⟩

/-- The items of the members of a list, each below its number. -/
def Failing.each {α : Type} (l : List α) (key : α → Nat) (F : α → Failing) : Failing :=
  fun a r => ∃ i ∈ l, ∃ b, a = key i :: b ∧ F i b r

/-- A search through a list in ascending order of its members' numbers. -/
theorem Finds.findSome {α : Type} {key : α → Nat} {f : α → Option JobResult} {F : α → Failing} {l : List α}
    (sorted : l.Pairwise fun i j => key i < key j) (h : ∀ i ∈ l, Finds (f i) (F i)) :
    Finds (l.findSome? f) (.each l key F) := by
  induction l with
  | nil => exact ⟨fun _ _ _ ⟨_, m, _⟩ => (nomatch m), fun _ s => (nomatch s), fun _ _ _ ⟨_, m, _⟩ => (nomatch m)⟩
  | cons c l ih =>
    obtain ⟨first, rest⟩ := List.pairwise_cons.mp sorted
    have found : Finds ((f c).or (l.findSome? f)) (.or (.at (key c) (F c)) (.each l key F)) := by
      refine ((h c (by simp)).at (key c)).or (ih rest fun i m => h i (by simp [m])) ?_
      rintro _ r _ q ⟨b, rfl, -⟩ ⟨i, m, d, rfl, -⟩
      exact List.cons_lt_cons_iff.mpr (.inl (first i m))
    have e : (c :: l).findSome? f = (f c).or (l.findSome? f) := by
      rw [List.findSome?_cons]
      cases f c <;> rfl
    rw [e]
    refine found.congr fun a r => ?_
    unfold Failing.or Failing.at Failing.each
    simp only [List.mem_cons, exists_eq_or_imp]

theorem finRange_sorted (n : Nat) : (List.finRange n).Pairwise fun i j => i.val < j.val := List.pairwise_lt_finRange n

theorem members_sorted (gs : GroupSet) : (members gs).Pairwise fun i j => i.val < j.val :=
  (finRange_sorted 16).sublist List.filter_sublist

theorem range_sorted (n : Nat) : (List.range n).Pairwise fun i j => i < j := List.pairwise_lt_range

theorem mem_members {gs : GroupSet} {g : Group} : g ∈ members gs ↔ gs[g] = true := by
  unfold members
  simp [allGroups]

/-- A search over all indices below a number. -/
theorem Finds.findFin {n : Nat} {f : Fin n → Option JobResult} {F : Fin n → Failing} (h : ∀ i, Finds (f i) (F i)) :
    Finds ((List.finRange n).findSome? f) (.each (List.finRange n) Fin.val F) :=
  .findSome (finRange_sorted n) fun i _ => h i

/-! ### The checks of a configuration (Table 1-6, R138) -/

variable {cfg : Settings}

/-- The items of a check on pairs. -/
def Failing.pairs {n : Nat} (p : Fin n → Fin n → Prop) (r : Fin n → Fin n → JobResult) : Failing :=
  .each (List.finRange n) Fin.val fun i => .each (List.finRange n) Fin.val fun j => .when (p i j) (r i j)

theorem Failing.pairs_iff {n : Nat} {p : Fin n → Fin n → Prop} {f : Fin n → Fin n → JobResult} {a : List Nat}
    {r : JobResult} : Failing.pairs p f a r ↔ ∃ i j, a = [i.val, j.val] ∧ r = f i j ∧ p i j := by
  unfold Failing.pairs Failing.each Failing.when
  constructor
  · rintro ⟨i, -, _, rfl, j, -, _, rfl, rfl, e, h⟩
    exact ⟨i, j, rfl, e, h⟩
  · rintro ⟨i, j, rfl, e, h⟩
    exact ⟨i, List.mem_finRange i, _, rfl, j, List.mem_finRange j, _, rfl, rfl, e, h⟩

theorem Finds.pairs {n : Nat} {f : Fin n → Fin n → Option JobResult} {p : Fin n → Fin n → Prop}
    {r : Fin n → Fin n → JobResult} (yes : ∀ i j, p i j → f i j = .some (r i j)) (no : ∀ i j, ¬ p i j → f i j = .none) :
    Finds ((List.finRange n).findSome? fun i => (List.finRange n).findSome? fun j => f i j) (.pairs p r) :=
  .findFin fun i => .findFin fun j => .leaf (yes i j) (no i j)

theorem Settings.conflict_iff {i j : Group} : cfg.conflict i j = true ↔ cfg.ig[i][j] ≠ none := by
  unfold Settings.conflict
  rw [Option.isSome_iff_ne_none]

/-- The items of a configuration that fail a check of Table 1-6 or of R138, check by check. -/
def Settings.items (cfg : Settings) : Failing :=
  .or (.or (.or (.or (.or (.or
    (.at 1 (.when (∀ g : Group, cfg.groups[g].type = .unused) .noGroups))
    (.at 2 (.each allGroups Fin.val fun i => .when (cfg.ig[i][i] ≠ none) (.igSelf i))))
    (.at 3 (.pairs (fun i j => i < j ∧ cfg.conflict i j ≠ cfg.conflict j i) .igAsymmetric)))
    (.at 4 (.pairs (fun i j => i < j
      ∧ ((decide (cfg.groups[i].type = .unused) || decide (cfg.groups[j].type = .unused))
        && (cfg.conflict i j || cfg.conflict j i)) = true) .igUnusedGroup)))
    (.at 5 (.pairs (fun i j => cfg.groups[i].type = .vehicle ∧ ∃ t, cfg.ig[i][j] = some t ∧ t < cfg.groups[i].amber)
      .igBelowAmber)))
    (.at 6 (.pairs (fun k l => cfg.cores[k].role ≠ .unused ∧ k < l ∧ cfg.cores[l].role ≠ .unused
      ∧ cfg.cores[k].cable = cfg.cores[l].cable ∧ cfg.cores[k].number = cfg.cores[l].number) .coreDuplicate)))
    (.at 7 (.each allCores Fin.val fun k a r => a = [] ∧ ∃ c, r = .coreChannelUnused k c ∧ cfg.cores[k].role = .load c
      ∧ cfg.used c = false))

theorem Settings.validate_finds (cfg : Settings) : Finds cfg.validate cfg.items := by
  have c1 : Finds (if allGroups.all fun g => decide (cfg.groups[g].type = .unused) then some .noGroups else none)
      (.when (∀ g : Group, cfg.groups[g].type = .unused) .noGroups) := by
    refine .leaf (fun h => if_pos ?_) fun h => if_neg fun k => h fun g => ?_
    · rw [List.all_eq_true]
      exact fun g _ => decide_eq_true (h g)
    · exact of_decide_eq_true (List.all_eq_true.mp k g (mem_allGroups g))
  have c2 : Finds (allGroups.findSome? fun i => if cfg.conflict i i then some (JobResult.igSelf i) else none)
      (.each allGroups Fin.val fun i => .when (cfg.ig[i][i] ≠ none) (.igSelf i)) :=
    .findFin fun i => .leaf (fun h => if_pos (Settings.conflict_iff.mpr h))
      fun h => if_neg fun k => h (Settings.conflict_iff.mp k)
  have pairs : ∀ (q : Group → Group → Prop) [∀ i j, Decidable (q i j)] (r : Group → Group → JobResult),
      Finds (allGroups.findSome? fun i => allGroups.findSome? fun j =>
        if i < j then if q i j then some (r i j) else none else none) (.pairs (fun i j => i < j ∧ q i j) r) := by
    intro q _ r
    refine .pairs (fun i j h => by rw [if_pos h.1, if_pos h.2]) fun i j h => ?_
    split
    · next l => exact if_neg fun k => h ⟨l, k⟩
    · rfl
  have c3 := pairs (fun i j => cfg.conflict i j ≠ cfg.conflict j i) .igAsymmetric
  have c4 := pairs (fun i j => ((decide (cfg.groups[i].type = .unused) || decide (cfg.groups[j].type = .unused))
    && (cfg.conflict i j || cfg.conflict j i)) = true) .igUnusedGroup
  have c5 : Finds (allGroups.findSome? fun i => allGroups.findSome? fun j => match cfg.groups[i].type, cfg.ig[i][j] with
      | .vehicle, some t => if t < cfg.groups[i].amber then some (.igBelowAmber i j) else none
      | _, _ => none)
      (.pairs (fun i j => cfg.groups[i].type = .vehicle ∧ ∃ t, cfg.ig[i][j] = some t ∧ t < cfg.groups[i].amber)
        .igBelowAmber) := by
    refine .pairs (fun i j ⟨v, t, e, lt⟩ => by rw [v, e]; exact if_pos lt) fun i j h => ?_
    split
    · next t v e => exact if_neg fun lt => h ⟨v, t, e, lt⟩
    · rfl
  have c6 : Finds (allCores.findSome? fun k => if cfg.cores[k].role = .unused then none else allCores.findSome? fun l =>
      if k < l ∧ cfg.cores[l].role ≠ .unused ∧ cfg.cores[k].cable = cfg.cores[l].cable
          ∧ cfg.cores[k].number = cfg.cores[l].number then some (JobResult.coreDuplicate k l) else none)
      (.pairs (fun k l => cfg.cores[k].role ≠ .unused ∧ k < l ∧ cfg.cores[l].role ≠ .unused
        ∧ cfg.cores[k].cable = cfg.cores[l].cable ∧ cfg.cores[k].number = cfg.cores[l].number) .coreDuplicate) := by
    refine .findFin fun k => ?_
    by_cases u : cfg.cores[k].role = .unused
    · rw [if_pos u]
      exact ⟨fun _ _ _ ⟨_, _, _, _, _, _, h⟩ => h.1 u, fun _ s => (nomatch s), fun _ _ _ ⟨_, _, _, _, _, _, h⟩ =>
        (h.1 u).elim⟩
    · rw [if_neg u]
      exact .findFin fun l => .leaf (fun h => if_pos h.2) fun h => if_neg fun q => h ⟨u, q⟩
  have c7 : Finds (allCores.findSome? fun k => match cfg.cores[k].role with
      | .load c => if cfg.used c then none else some (JobResult.coreChannelUnused k c)
      | _ => none)
      (.each allCores Fin.val fun k a r => a = [] ∧ ∃ c, r = .coreChannelUnused k c ∧ cfg.cores[k].role = .load c
        ∧ cfg.used c = false) := by
    refine .findFin fun k => ⟨fun n a r => ?_, fun r s => ?_, fun a r q => ?_⟩
    · rintro ⟨-, c, -, l, u⟩
      rw [l] at n
      dsimp only at n
      rw [if_neg (by rw [u]; decide)] at n
      cases n
    · split at s
      · next c l =>
        by_cases u : cfg.used c = true
        · rw [if_pos u] at s; cases s
        · rw [if_neg u] at s
          cases s
          exact ⟨[], ⟨rfl, c, rfl, l, by simpa using u⟩, fun b _ _ => List.not_lt_nil b⟩
      · cases s
    · rintro ⟨-, c, rfl, l, -⟩ ⟨-, d, rfl, m, -⟩
      rw [l] at m
      cases m
      rfl
  unfold Settings.validate Settings.checkGroups Settings.checkCores
  dsimp only
  rw [← Option.or_assoc]
  exact (c1.start 1 |>.next c2 |>.next c3 |>.next c4 |>.next c5 |>.next c6 |>.next c7).finds

theorem Settings.conflict_ne_iff {i j : Group} :
    cfg.conflict i j ≠ cfg.conflict j i ↔ ¬ (cfg.ig[i][j] = none ↔ cfg.ig[j][i] = none) := by
  unfold Settings.conflict
  cases cfg.ig[i][j] <;> cases cfg.ig[j][i] <;> simp

theorem Settings.unusedPair_iff {i j : Group} :
    ((decide (cfg.groups[i].type = .unused) || decide (cfg.groups[j].type = .unused))
      && (cfg.conflict i j || cfg.conflict j i)) = true ↔
    (cfg.groups[i].type = .unused ∨ cfg.groups[j].type = .unused) ∧ (cfg.ig[i][j] ≠ none ∨ cfg.ig[j][i] ≠ none) := by
  rw [Bool.and_eq_true, Bool.or_eq_true, Bool.or_eq_true, decide_eq_true_eq, decide_eq_true_eq, Settings.conflict_iff,
    Settings.conflict_iff]

theorem Settings.items_iff {a : List Nat} {r : JobResult} : cfg.items a r ↔ cfg.Fails a r := by
  unfold Settings.items
  constructor
  · rintro ((((((⟨_, rfl, rfl, rfl, h⟩ | ⟨_, rfl, i, -, _, rfl, rfl, rfl, h⟩) | ⟨_, rfl, h⟩) | ⟨_, rfl, h⟩) | ⟨_, rfl, h⟩)
      | ⟨_, rfl, h⟩) | ⟨_, rfl, k, -, _, rfl, rfl, c, rfl, l, u⟩)
    · exact ⟨rfl, h⟩
    · exact ⟨rfl, h⟩
    · obtain ⟨i, j, rfl, rfl, lt, h⟩ := Failing.pairs_iff.mp h
      exact ⟨rfl, lt, Settings.conflict_ne_iff.mp h⟩
    · obtain ⟨i, j, rfl, rfl, lt, h⟩ := Failing.pairs_iff.mp h
      exact ⟨rfl, lt, Settings.unusedPair_iff.mp h⟩
    · obtain ⟨i, j, rfl, rfl, v⟩ := Failing.pairs_iff.mp h
      exact ⟨rfl, v⟩
    · obtain ⟨k, l, rfl, rfl, u, lt, h⟩ := Failing.pairs_iff.mp h
      exact ⟨rfl, lt, u, h⟩
    · exact ⟨rfl, l, u⟩
  · intro h
    cases r <;> try exact h.elim
    case noGroups =>
      obtain ⟨rfl, h⟩ := h
      exact .inl <| .inl <| .inl <| .inl <| .inl <| .inl ⟨_, rfl, rfl, rfl, h⟩
    case igSelf i =>
      obtain ⟨rfl, h⟩ := h
      exact .inl <| .inl <| .inl <| .inl <| .inl <| .inr ⟨_, rfl, i, mem_allGroups i, _, rfl, rfl, rfl, h⟩
    case igAsymmetric i j =>
      obtain ⟨rfl, lt, h⟩ := h
      exact .inl <| .inl <| .inl <| .inl <| .inr
        ⟨_, rfl, Failing.pairs_iff.mpr ⟨i, j, rfl, rfl, lt, Settings.conflict_ne_iff.mpr h⟩⟩
    case igUnusedGroup i j =>
      obtain ⟨rfl, lt, h⟩ := h
      exact .inl <| .inl <| .inl <| .inr
        ⟨_, rfl, Failing.pairs_iff.mpr ⟨i, j, rfl, rfl, lt, Settings.unusedPair_iff.mpr h⟩⟩
    case igBelowAmber i j =>
      obtain ⟨rfl, h⟩ := h
      exact .inl <| .inl <| .inr ⟨_, rfl, Failing.pairs_iff.mpr ⟨i, j, rfl, rfl, h⟩⟩
    case coreDuplicate k l =>
      obtain ⟨rfl, lt, u, h⟩ := h
      exact .inl <| .inr ⟨_, rfl, Failing.pairs_iff.mpr ⟨k, l, rfl, rfl, u, lt, h⟩⟩
    case coreChannelUnused k c =>
      obtain ⟨rfl, l, u⟩ := h
      exact .inr ⟨_, rfl, k, List.mem_finRange k, _, rfl, rfl, c, rfl, l, u⟩

/-- The checks of a configuration all hold. -/
theorem Settings.fails_none (cfg : Settings) : (∀ a r, ¬ cfg.Fails a r) ↔
    (∃ g : Group, cfg.groups[g].type ≠ .unused)
    ∧ (∀ i : Group, cfg.ig[i][i] = none)
    ∧ (∀ i j : Group, i < j → (cfg.ig[i][j] = none ↔ cfg.ig[j][i] = none))
    ∧ (∀ i j : Group, (cfg.groups[i].type = .unused ∨ cfg.groups[j].type = .unused) → cfg.ig[i][j] = none)
    ∧ (∀ (i j : Group) (t : Nat), cfg.groups[i].type = .vehicle → cfg.ig[i][j] = some t → cfg.groups[i].amber ≤ t)
    ∧ (∀ k l : CoreId, k ≠ l → cfg.cores[k].role ≠ .unused → cfg.cores[l].role ≠ .unused →
        cfg.cores[k].cable = cfg.cores[l].cable → cfg.cores[k].number ≠ cfg.cores[l].number)
    ∧ (∀ (k : CoreId) (c : Chan), cfg.cores[k].role = .load c → cfg.used c = true) := by
  constructor
  · intro h
    have diagonal : ∀ i : Group, cfg.ig[i][i] = none := fun i => by
      by_contra n
      exact h _ (.igSelf i) ⟨rfl, n⟩
    refine ⟨?_, diagonal, fun i j lt => ?_, fun i j u => ?_, fun i j t v e => ?_, fun k l ne u v c n => ?_, fun k c l => ?_⟩
    · by_contra n
      exact h _ .noGroups ⟨rfl, fun g => by by_contra m; exact n ⟨g, m⟩⟩
    · by_contra n
      exact h _ (.igAsymmetric i j) ⟨rfl, lt, n⟩
    · by_contra n
      rcases lt_trichotomy i j with lt | rfl | lt
      · exact h _ (.igUnusedGroup i j) ⟨rfl, lt, u, .inl n⟩
      · exact n (diagonal i)
      · exact h _ (.igUnusedGroup j i) ⟨rfl, lt, u.symm, .inr n⟩
    · by_contra n
      exact h _ (.igBelowAmber i j) ⟨rfl, v, t, e, by omega⟩
    · rcases lt_or_gt_of_ne ne with lt | lt
      · exact h _ (.coreDuplicate k l) ⟨rfl, lt, u, v, c, n⟩
      · exact h _ (.coreDuplicate l k) ⟨rfl, lt, v, u, c.symm, n.symm⟩
    · by_contra n
      exact h _ (.coreChannelUnused k c) ⟨rfl, l, by simpa using n⟩
  · rintro ⟨⟨g, used⟩, diagonal, symmetric, unused, amber, cores, loads⟩ a r h
    cases r <;> try exact h.elim
    case noGroups => exact used (h.2 g)
    case igSelf i => exact h.2 (diagonal i)
    case igAsymmetric i j => exact h.2.2 (symmetric i j h.2.1)
    case igUnusedGroup i j =>
      obtain ⟨-, -, u, n | n⟩ := h
      · exact n (unused i j u)
      · exact n (unused j i u.symm)
    case igBelowAmber i j =>
      obtain ⟨-, v, t, e, lt⟩ := h
      have := amber i j t v e
      omega
    case coreDuplicate k l =>
      obtain ⟨-, lt, u, v, c, n⟩ := h
      exact cores k l (ne_of_lt lt) u v c n
    case coreChannelUnused k c =>
      obtain ⟨-, l, u⟩ := h
      rw [loads k c l] at u
      cases u

end Sys2Proof.Machine

namespace Sys2Proof.Machine

variable {ps : PlanSet} {cfg : Settings}

/-! ### The checks of a plan set (Table 2-5) -/

theorem StageDef.written_iff {d : StageDef} : d.written = true ↔ ∃ g : Group, d.groups[g] = true := by
  unfold StageDef.written
  rw [List.any_eq_true]
  constructor
  · rintro ⟨b, m, h⟩
    obtain ⟨i, lt, rfl⟩ := List.getElem_of_mem m
    exact ⟨⟨i, by simpa using lt⟩, by simpa using h⟩
  · rintro ⟨g, h⟩
    exact ⟨_, Vector.mem_toList_iff.mpr (Vector.getElem_mem g.isLt), h⟩

/-- No record of a position shows a stage that is written. -/
def PlanSet.Undefined (ps : PlanSet) (position : Nat) : Prop :=
  ∀ r, ps.pool[position - 1]? = some r → ∀ st, r.stage = some st → ∀ g : Group, ps.stages[st].groups[g] = false

/-- The record of a position is too short for a FIXED plan. -/
def PlanSet.Short (ps : PlanSet) (e : PlanEntry) (position : Nat) : Prop :=
  ∃ r, ps.pool[position - 1]? = some r ∧ e.kind = .fixed ∧ r.min < 50

/-- The items of a record that fail checks 6 and 7 of Table 2-5. -/
def PlanSet.recordItems (ps : PlanSet) (p : Fin 16) (e : PlanEntry) (i : Nat) : Failing :=
  .or (.at 6 (.when (ps.Short e (e.first + i)) (.fixedGreenShort p (e.first + i))))
    (.at 7 (.when (ps.Undefined (e.first + i)) (.stageUndefined p (e.first + i))))

/-- The items of a plan that fail checks 5 to 7. -/
def PlanSet.entryItems (ps : PlanSet) (p : Fin 16) : Failing := fun a r =>
  ∃ e, ps.dir[p] = some e ∧ e.valid = true ∧ Failing.or
    (.when (ps.pool.length < e.first + e.count - 1 ∨ e.count < e.start) (.entryBounds p))
    (.each (List.range e.count) id (ps.recordItems p e)) a r

/-- The items of a plan set that fail a check of Table 2-5, check by check. -/
def PlanSet.items (ps : PlanSet) (cfg : Settings) : Failing :=
  .or (.or (.or (.or
    (.at 1 (.each allStages Fin.val fun st => .each (members ps.stages[st].groups) Fin.val fun g =>
      .when (cfg.groups[g].type = .unused) (.stageUnusedGroup st g)))
    (.at 2 (.each allStages Fin.val fun st => .each (members ps.stages[st].groups) Fin.val fun i =>
      .each (members ps.stages[st].groups) Fin.val fun j => .when (i < j ∧ cfg.ig[i][j] ≠ none) (.stageConflict st i j))))
    (.at 3 (.when (ps.dir[(0 : Fin 16)] = none) .baseAbsent)))
    (.at 4 (.when (∃ e, ps.dir[(0 : Fin 16)] = some e ∧ e.valid = false) .baseInvalid)))
    (.at 5 (.each (List.finRange 16) Fin.val ps.entryItems))

/-- Check 6 of Table 2-5 on one record. -/
def PlanSet.checkShort (ps : PlanSet) (p : Fin 16) (e : PlanEntry) (position : Nat) : Option JobResult :=
  (ps.pool[position - 1]?).bind fun r => if e.kind = .fixed ∧ r.min < 50 then some (.fixedGreenShort p position) else none

/-- Check 7 of Table 2-5 on one record. -/
def PlanSet.checkStage (ps : PlanSet) (p : Fin 16) (position : Nat) : Option JobResult :=
  if ((ps.pool[position - 1]?).bind (·.stage)).any fun st => ps.stages[st].written then none
  else some (.stageUndefined p position)

theorem PlanSet.checkRecord_eq (p : Fin 16) (e : PlanEntry) (position : Nat) :
    ps.checkRecord p e position = (ps.checkShort p e position).or (ps.checkStage p position) := by
  unfold PlanSet.checkRecord PlanSet.checkShort PlanSet.checkStage
  cases ps.pool[position - 1]? with
  | none => rfl
  | some r =>
    by_cases h : e.kind = .fixed ∧ r.min < 50
    · simp [h]
    · cases hs : r.stage with
      | none => simp [h, hs]
      | some st => simp [h, hs]

theorem PlanSet.checkShort_finds (p : Fin 16) (e : PlanEntry) (position : Nat) :
    Finds (ps.checkShort p e position) (.when (ps.Short e position) (.fixedGreenShort p position)) := by
  unfold PlanSet.checkShort PlanSet.Short
  cases ps.pool[position - 1]? with
  | none => exact .leaf (fun ⟨_, e, _⟩ => (nomatch e)) fun _ => rfl
  | some r =>
    refine .leaf (fun ⟨_, e, h⟩ => ?_) fun n => if_neg fun h => n ⟨r, rfl, h⟩
    cases e
    exact if_pos h

theorem PlanSet.undefined_iff {position : Nat} : ps.Undefined position ↔
    ¬ (((ps.pool[position - 1]?).bind (·.stage)).any fun st => ps.stages[st].written) = true := by
  have empty : ∀ st : Fin 16, (∀ g : Group, ps.stages[st].groups[g] = false) ↔ ¬ ps.stages[st].written = true := fun st => by
    rw [StageDef.written_iff]
    simp
  unfold PlanSet.Undefined
  cases ps.pool[position - 1]? with
  | none => simp
  | some r =>
    cases hs : r.stage with
    | none => simp [hs]
    | some st => simpa [hs] using empty st

theorem PlanSet.checkStage_finds (p : Fin 16) (position : Nat) :
    Finds (ps.checkStage p position) (.when (ps.Undefined position) (.stageUndefined p position)) := by
  unfold PlanSet.checkStage
  exact .leaf (fun h => if_neg (PlanSet.undefined_iff.mp h)) fun h => if_pos (not_not.mp fun n =>
    h (PlanSet.undefined_iff.mpr n))

theorem PlanSet.checkRecord_finds (ps : PlanSet) (p : Fin 16) (e : PlanEntry) (i : Nat) :
    Finds (ps.checkRecord p e (e.first + i)) (ps.recordItems p e i) := by
  rw [PlanSet.checkRecord_eq]
  exact ((PlanSet.checkShort_finds p e _).start 6 |>.next (PlanSet.checkStage_finds p _)).finds

theorem PlanSet.checkEntry_finds (ps : PlanSet) (p : Fin 16) : Finds (ps.checkEntry p) (ps.entryItems p) := by
  have nothing : (∀ e, ps.dir[p] = some e → e.valid = false) → Finds none (ps.entryItems p) := fun n =>
    { none := fun _ _ _ ⟨e, d, v, _⟩ => by rw [n e d] at v; cases v
      some := fun _ s => (nomatch s)
      one := fun _ _ _ ⟨e, d, v, _⟩ => by rw [n e d] at v; cases v }
  unfold PlanSet.checkEntry
  cases d : ps.dir[p] with
  | none => exact nothing fun e h => by rw [d] at h; cases h
  | some e =>
    dsimp only
    cases v : e.valid with
    | false => exact nothing fun x h => by rw [d] at h; cases h; exact v
    | true =>
      have split : ∀ (c : Prop) [Decidable c] (r : JobResult) (y : Option JobResult),
          (if c then some r else y) = (if c then some r else none).or y := fun c _ r y => by
        by_cases h : c
        · rw [if_pos h, if_pos h]; rfl
        · rw [if_neg h, if_neg h]; rfl
      have records : Finds ((List.range e.count).findSome? fun i => ps.checkRecord p e (e.first + i))
          (.each (List.range e.count) id (ps.recordItems p e)) :=
        .findSome (range_sorted e.count) fun i _ => ps.checkRecord_finds p e i
      have bounds : Finds (if ps.pool.length < e.first + e.count - 1 ∨ e.count < e.start then some (.entryBounds p) else none)
          (.when (ps.pool.length < e.first + e.count - 1 ∨ e.count < e.start) (.entryBounds p)) := .leaf (fun h => if_pos h) fun h => if_neg h
      have both := bounds.or records fun a r b q ⟨e, _⟩ ⟨_, _, _, g, _⟩ => by
        rw [e, g]
        exact List.nil_lt_cons _ _
      rw [if_neg (by decide), split]
      refine both.congr fun a r => ⟨fun h => ⟨e, d, v, h⟩, fun ⟨x, d', _, h⟩ => ?_⟩
      rw [d] at d'
      cases d'
      exact h

theorem PlanSet.validate_finds (ps : PlanSet) (cfg : Settings) : Finds (ps.validate cfg) (ps.items cfg) := by
  have c1 : Finds (allStages.findSome? fun st => (members ps.stages[st].groups).findSome? fun g =>
      if cfg.groups[g].type = .unused then some (JobResult.stageUnusedGroup st g) else none)
      (.each allStages Fin.val fun st => .each (members ps.stages[st].groups) Fin.val fun g =>
        .when (cfg.groups[g].type = .unused) (.stageUnusedGroup st g)) :=
    .findFin fun st => .findSome (members_sorted _) fun g _ => .leaf (fun h => if_pos h) fun h => if_neg h
  have c2 : Finds (allStages.findSome? fun st => (members ps.stages[st].groups).findSome? fun i =>
      (members ps.stages[st].groups).findSome? fun j =>
        if i < j ∧ cfg.conflict i j then some (JobResult.stageConflict st i j) else none)
      (.each allStages Fin.val fun st => .each (members ps.stages[st].groups) Fin.val fun i =>
        .each (members ps.stages[st].groups) Fin.val fun j => .when (i < j ∧ cfg.ig[i][j] ≠ none) (.stageConflict st i j)) :=
    .findFin fun st => .findSome (members_sorted _) fun i _ => .findSome (members_sorted _) fun j _ =>
      .leaf (fun h => if_pos ⟨h.1, Settings.conflict_iff.mpr h.2⟩)
        fun h => if_neg fun k => h ⟨k.1, Settings.conflict_iff.mp k.2⟩
  have base : ∃ x y, ps.checkBase = x.or y ∧ Finds x (.when (ps.dir[(0 : Fin 16)] = none) .baseAbsent)
      ∧ Finds y (.when (∃ e, ps.dir[(0 : Fin 16)] = some e ∧ e.valid = false) .baseInvalid) := by
    unfold PlanSet.checkBase
    cases ps.dir[(0 : Fin 16)] with
    | none => exact ⟨some .baseAbsent, none, rfl, .leaf (fun _ => rfl) fun h => (h rfl).elim,
        .leaf (fun ⟨_, h, _⟩ => (nomatch h)) fun _ => rfl⟩
    | some e =>
      refine ⟨none, if e.valid then none else some .baseInvalid, rfl, .leaf (fun h => (nomatch h)) fun _ => rfl,
        .leaf (fun ⟨_, h, v⟩ => ?_) fun h => if_pos ?_⟩
      · cases h
        exact if_neg (by rw [v]; decide)
      · by_contra v
        exact h ⟨e, rfl, by simpa using v⟩
  obtain ⟨x, y, e, c3, c4⟩ := base
  have c5 : Finds ((List.finRange 16).findSome? ps.checkEntry) (.each (List.finRange 16) Fin.val ps.entryItems) :=
    .findFin ps.checkEntry_finds
  unfold PlanSet.validate PlanSet.checkStages
  dsimp only
  rw [e, ← Option.or_assoc]
  exact (c1.start 1 |>.next c2 |>.next c3 |>.next c4 |>.next c5).finds

theorem PlanSet.items_iff {a : List Nat} {r : JobResult} : ps.items cfg a r ↔ ps.Fails cfg a r := by
  unfold PlanSet.items
  constructor
  · rintro ((((⟨_, rfl, st, -, _, rfl, g, m, _, rfl, rfl, rfl, h⟩
        | ⟨_, rfl, st, -, _, rfl, i, mi, _, rfl, j, mj, _, rfl, rfl, rfl, lt, h⟩) | ⟨_, rfl, rfl, rfl, h⟩)
      | ⟨_, rfl, rfl, rfl, h⟩) | ⟨_, rfl, p, -, _, rfl, e, d, v, ⟨rfl, rfl, h⟩ | ⟨i, m, _, rfl, h⟩⟩)
    · exact ⟨rfl, mem_members.mp m, h⟩
    · exact ⟨rfl, lt, mem_members.mp mi, mem_members.mp mj, h⟩
    · exact ⟨rfl, h⟩
    · exact ⟨rfl, h⟩
    · exact ⟨rfl, e, d, v, h⟩
    · rcases h with ⟨_, rfl, rfl, rfl, x, pool, fixed, short⟩ | ⟨_, rfl, rfl, rfl, h⟩
      · exact ⟨e, i, x, rfl, rfl, List.mem_range.mp m, d, v, pool, fixed, short⟩
      · exact ⟨e, i, rfl, rfl, List.mem_range.mp m, d, v, h⟩
  · intro h
    cases r <;> try exact h.elim
    case stageUnusedGroup st g =>
      obtain ⟨rfl, m, h⟩ := h
      exact .inl <| .inl <| .inl <| .inl
        ⟨_, rfl, st, List.mem_finRange st, _, rfl, g, mem_members.mpr m, _, rfl, rfl, rfl, h⟩
    case stageConflict st i j =>
      obtain ⟨rfl, lt, mi, mj, h⟩ := h
      exact .inl <| .inl <| .inl <| .inr ⟨_, rfl, st, List.mem_finRange st, _, rfl, i, mem_members.mpr mi, _, rfl, j,
        mem_members.mpr mj, _, rfl, rfl, rfl, lt, h⟩
    case baseAbsent =>
      obtain ⟨rfl, h⟩ := h
      exact .inl <| .inl <| .inr ⟨_, rfl, rfl, rfl, h⟩
    case baseInvalid =>
      obtain ⟨rfl, h⟩ := h
      exact .inl <| .inr ⟨_, rfl, rfl, rfl, h⟩
    case entryBounds p =>
      obtain ⟨rfl, e, d, v, h⟩ := h
      exact .inr ⟨_, rfl, p, List.mem_finRange p, _, rfl, e, d, v, .inl ⟨rfl, rfl, h⟩⟩
    case fixedGreenShort p position =>
      obtain ⟨e, i, x, rfl, rfl, lt, d, v, pool, fixed, short⟩ := h
      exact .inr ⟨_, rfl, p, List.mem_finRange p, _, rfl, e, d, v, .inr
        ⟨i, List.mem_range.mpr lt, _, rfl, .inl ⟨_, rfl, rfl, rfl, x, pool, fixed, short⟩⟩⟩
    case stageUndefined p position =>
      obtain ⟨e, i, rfl, rfl, lt, d, v, h⟩ := h
      exact .inr ⟨_, rfl, p, List.mem_finRange p, _, rfl, e, d, v, .inr
        ⟨i, List.mem_range.mpr lt, _, rfl, .inr ⟨_, rfl, rfl, rfl, h⟩⟩⟩

/-- The checks of a plan set all hold. -/
theorem PlanSet.fails_none (ps : PlanSet) (cfg : Settings) : (∀ a r, ¬ ps.Fails cfg a r) ↔
    (∀ (st : Fin 16) (g : Group), ps.stages[st].groups[g] = true → cfg.groups[g].type ≠ .unused)
    ∧ (∀ (st : Fin 16) (i j : Group), i < j → ps.stages[st].groups[i] = true → ps.stages[st].groups[j] = true →
        cfg.ig[i][j] = none)
    ∧ (∃ e, ps.dir[(0 : Fin 16)] = some e ∧ e.valid = true)
    ∧ (∀ (p : Fin 16) (e : PlanEntry), ps.dir[p] = some e → e.valid = true →
        e.first + e.count - 1 ≤ ps.pool.length ∧ e.start ≤ e.count
        ∧ ∀ i, i < e.count → ∃ r, ps.pool[e.first + i - 1]? = some r ∧ (e.kind = .fixed → 50 ≤ r.min)
            ∧ ∃ st, r.stage = some st ∧ ∃ g : Group, ps.stages[st].groups[g] = true) := by
  constructor
  · intro h
    refine ⟨fun st g m u => h _ (.stageUnusedGroup st g) ⟨rfl, m, u⟩, fun st i j lt mi mj => ?_, ?_, fun p e d v => ?_⟩
    · by_contra n
      exact h _ (.stageConflict st i j) ⟨rfl, lt, mi, mj, n⟩
    · cases d : ps.dir[(0 : Fin 16)] with
      | none => exact (h _ .baseAbsent ⟨rfl, d⟩).elim
      | some e =>
        refine ⟨e, rfl, ?_⟩
        by_contra n
        exact h _ .baseInvalid ⟨rfl, e, d, by simpa using n⟩
    · have bounds : ¬ (ps.pool.length < e.first + e.count - 1 ∨ e.count < e.start) := fun b =>
        h _ (.entryBounds p) ⟨rfl, e, d, v, b⟩
      refine ⟨by omega, by omega, fun i lt => ?_⟩
      have defined : ¬ ps.Undefined (e.first + i) := fun u => h _ (.stageUndefined p (e.first + i)) ⟨e, i, rfl, rfl, lt, d, v, u⟩
      unfold PlanSet.Undefined at defined
      push Not at defined
      obtain ⟨r, pool, st, stage, g, m⟩ := defined
      refine ⟨r, pool, fun fixed => ?_, st, stage, g, by simpa using m⟩
      by_contra short
      exact h _ (.fixedGreenShort p (e.first + i)) ⟨e, i, r, rfl, rfl, lt, d, v, pool, fixed, by omega⟩
  · rintro ⟨used, peaceful, ⟨e0, d0, v0⟩, entries⟩ a r h
    cases r <;> try exact h.elim
    case stageUnusedGroup st g => exact used st g h.2.1 h.2.2
    case stageConflict st i j =>
      obtain ⟨-, lt, mi, mj, n⟩ := h
      exact n (peaceful st i j lt mi mj)
    case baseAbsent =>
      rw [h.2] at d0
      cases d0
    case baseInvalid =>
      obtain ⟨-, e, d, v⟩ := h
      rw [d0] at d
      cases d
      rw [v0] at v
      cases v
    case entryBounds p =>
      obtain ⟨-, e, d, v, b⟩ := h
      obtain ⟨length, start, -⟩ := entries p e d v
      omega
    case fixedGreenShort p position =>
      obtain ⟨e, i, r, -, -, lt, d, v, pool, fixed, short⟩ := h
      obtain ⟨-, -, records⟩ := entries p e d v
      obtain ⟨r', pool', min, -⟩ := records i lt
      rw [pool] at pool'
      cases pool'
      have := min fixed
      omega
    case stageUndefined p position =>
      obtain ⟨e, i, -, -, lt, d, v, u⟩ := h
      obtain ⟨-, -, records⟩ := entries p e d v
      obtain ⟨r, pool, -, st, stage, g, m⟩ := records i lt
      rw [u r pool st stage g] at m
      cases m

/-- Settles O23: the validations search for the item at the first place, check by check. -/
theorem validations : Obligations.Validations := by
  have config := fun cfg : Settings => cfg.validate_finds.congr fun _ _ => Settings.items_iff
  have plans := fun (ps : PlanSet) (cfg : Settings) => (ps.validate_finds cfg).congr fun _ _ => PlanSet.items_iff
  exact ⟨fun cfg => (config cfg).none_iff.trans cfg.fails_none,
    fun ps cfg => (plans ps cfg).none_iff.trans (ps.fails_none cfg),
    fun cfg => (config cfg).iff, fun ps cfg => (plans ps cfg).iff⟩

end Sys2Proof.Machine

/-! SUPPORT. What the operations at the entry of a mode leave alone, of the relays, their dark timers and the conditions: each operation names the items it may touch. -/

namespace Sys2Proof.Machine

variable {s t u : State} {X Y : Set Item}

/-! ### Items, and what an operation spares -/

/-- An item that an operation may touch: a load relay with GREEN_UNAVAILABLE, a channel's dark timer, a condition with its alarm record, a supply relay. -/
inductive Item where
  | relay (c : Chan) | dark (c : Chan) | cond (k : Cond) | smc | ftr

/-- Whether a condition is confirmed, whether its alarm records are cleared, and each of them that is active, are as they were. -/
structure Faults.Leave (k : Cond) (f f' : Faults) : Prop where
  confirmed : k ∈ f'.confirmed ↔ k ∈ f.confirmed
  cleared   : (∀ a ∈ f.alarms, a.key = k → a.active = false) → ∀ a ∈ f'.alarms, a.key = k → a.active = false
  active    : ∀ a ∈ f.alarms, a.key = k → a.active = true → a ∈ f'.alarms

theorem Faults.Leave.refl (k : Cond) (f : Faults) : f.Leave k f := ⟨.rfl, id, fun _ m _ _ => m⟩

theorem Faults.Leave.trans {k : Cond} {f f' f'' : Faults} (h : f.Leave k f') (l : f'.Leave k f'') : f.Leave k f'' :=
  ⟨l.confirmed.trans h.confirmed, l.cleared ∘ h.cleared, fun a m e x => l.active a (h.active a m e x) e x⟩

/-- From s to t the items outside a set are as they were; time, the working copy and the proof line are. -/
structure Spares (X : Set Item) (s t : State) : Prop where
  now   : t.now = s.now := by rfl
  work  : t.work = s.work := by rfl
  line  : t.survey.lineClosed = s.survey.lineClosed := by rfl
  smc   : .smc ∉ X → t.smc = s.smc := by exact fun _ => rfl
  ftr   : .ftr ∉ X → t.ftr = s.ftr := by exact fun _ => rfl
  relay : ∀ c : Chan, .relay c ∉ X → t.relays[c] = s.relays[c] := by exact fun _ _ => rfl
  green : ∀ g : Group, .relay (chanOf g 2) ∉ X →
    (t.groups[g]).greenUnavailable = (s.groups[g]).greenUnavailable := by exact fun _ _ => rfl
  dark  : ∀ c : Chan, .dark c ∉ X → (t.lamps[c]).dark = (s.lamps[c]).dark := by exact fun _ _ => rfl
  cond  : ∀ k, .cond k ∉ X → s.faults.Leave k t.faults := by exact fun k _ => .refl k _

theorem Spares.refl (X : Set Item) (s : State) : Spares X s s := {}

theorem Spares.trans (h : Spares X s t) (k : Spares X t u) : Spares X s u where
  now := k.now.trans h.now
  work := k.work.trans h.work
  line := k.line.trans h.line
  smc := fun n => (k.smc n).trans (h.smc n)
  ftr := fun n => (k.ftr n).trans (h.ftr n)
  relay := fun c n => (k.relay c n).trans (h.relay c n)
  green := fun g n => (k.green g n).trans (h.green g n)
  dark := fun c n => (k.dark c n).trans (h.dark c n)
  cond := fun x n => (h.cond x n).trans (k.cond x n)

theorem Spares.of (k : Spares X t u) (h : Spares X s t) : Spares X s u := h.trans k

theorem Spares.mono (h : Spares X s t) (i : X ⊆ Y) : Spares Y s t where
  now := h.now
  work := h.work
  line := h.line
  smc := fun n => h.smc fun m => n (i m)
  ftr := fun n => h.ftr fun m => n (i m)
  relay := fun c n => h.relay c fun m => n (i m)
  green := fun g n => h.green g fun m => n (i m)
  dark := fun c n => h.dark c fun m => n (i m)
  cond := fun x n => h.cond x fun m => n (i m)

/-- What touches no item fits anywhere. -/
theorem Spares.any (h : Spares ∅ s t) : Spares X s t := h.mono (Set.empty_subset X)

theorem Spares.ite {p : Prop} [Decidable p] (h : Spares X s t) (k : Spares X s u) :
    Spares X s (if p then t else u) := by
  split <;> assumption

theorem Spares.each {α : Type} {f : α → State → State} {l : List α} (h : ∀ a ∈ l, ∀ t, Spares X t (f a t)) (s : State) :
    Spares X s (s.each l f) :=
  State.each_induct (P := Spares X s) l s (.refl X s) fun a m t k => k.trans (h a m t)

/-- Of operations for the members of a list, each with items of its own, the one for a member stands between what touches the items of the others only. -/
theorem Spares.each_at {α : Type} {f : α → State → State} {Z : α → Set Item} {a : α} {l : List α}
    (h : ∀ b t, Spares (Z b) t (f b t)) (nd : l.Nodup) (m : a ∈ l) (s : State) :
    ∃ u, Spares {i | ∃ b, b ≠ a ∧ i ∈ Z b} s u ∧ Spares {i | ∃ b, b ≠ a ∧ i ∈ Z b} (f a u) (s.each l f) := by
  have rest : ∀ r : List α, a ∉ r → ∀ t, Spares {i | ∃ b, b ≠ a ∧ i ∈ Z b} t (t.each r f) := fun r n =>
    Spares.each fun b mb t => (h b t).mono fun i mi => ⟨b, fun e => n (e ▸ mb), mi⟩
  obtain ⟨l₁, l₂, rfl⟩ := List.append_of_mem m
  obtain ⟨-, d, n⟩ := List.nodup_append.mp nd
  refine ⟨s.each l₁ f, rest l₁ (fun m₁ => n a m₁ a (by simp) rfl) s, ?_⟩
  have split : s.each (l₁ ++ a :: l₂) f = (f a (s.each l₁ f)).each l₂ f := by
    unfold State.each
    rw [List.foldl_append, List.foldl_cons]
  rw [split]
  exact rest l₂ (List.nodup_cons.mp d).1 _

/-! ### Reports -/

theorem Spares.notify (s : State) (n : Notice) : Spares ∅ s (s.notify n) := by
  unfold State.notify
  exact .ite {} {}

theorem Spares.mark (s : State) : Spares ∅ s s.mark := {}

theorem Spares.wantSelection (s : State) : Spares ∅ s s.wantSelection := {}

theorem Spares.ask (s : State) (r : ModeReq) : Spares ∅ s (s.ask r) := {}

/-- Records of an alarm list under one key are changed, or removed where they are cleared. -/
theorem Faults.Leave.enterAlarm (s : State) (x k : Cond) (tag : ConfTag) (h : k ≠ x) :
    s.faults.Leave k (s.enterAlarm x tag).faults := by
  have kept : ∀ (b : Alarm), b.key = x → s.faults.Leave k { s.faults with
      alarms := s.faults.alarms.map fun y => if y.key = x then b else y } := by
    refine fun b e => ⟨.rfl, fun c a m ak => ?_, fun a m ak _ => ?_⟩
    · obtain ⟨y, my, rfl⟩ := List.mem_map.mp m
      split at ak
      · exact (h (ak.symm.trans e)).elim
      · next n => rw [if_neg n]; exact c y my ak
    · exact List.mem_map.mpr ⟨a, m, if_neg fun e' => h (ak.symm.trans e')⟩
  have joined : ∀ (l : List Alarm) (b : Alarm), b.key = x → l ⊆ s.faults.alarms →
      (∀ a ∈ s.faults.alarms, a.active = true → a ∈ l) → s.faults.Leave k { s.faults with alarms := l ++ [b] } := by
    refine fun l b e sub act => ⟨.rfl, fun c a m ak => ?_, fun a m _ ac => List.mem_append_left _ (act a m ac)⟩
    rcases List.mem_append.mp m with m | m
    · exact c a (sub m) ak
    · rw [List.mem_singleton.mp m] at ak
      exact (h (ak.symm.trans e)).elim
  unfold State.enterAlarm
  dsimp only
  split
  · next a found =>
    have e : a.key = x := by simpa using List.find?_some found
    split
    · exact kept _ e
    · rw [State.notify_faults]
      exact kept _ e
  · split
    · rw [State.notify_faults]
      exact joined _ _ rfl (List.Subset.refl _) fun _ m _ => m
    · split
      · next old found =>
        have off : old.active = false := by simpa using List.find?_some found
        rw [State.notify_faults]
        refine joined _ _ rfl List.erase_subset fun a m ac => ?_
        exact (List.mem_erase_of_ne fun e => by rw [e, off] at ac; cases ac).mpr m
      · rw [State.notify_faults]
        exact ⟨.rfl, id, fun _ m _ _ => m⟩

theorem Faults.Leave.clearAlarm (s : State) (x k : Cond) (h : k ≠ x) : s.faults.Leave k (s.clearAlarm x).faults := by
  unfold State.clearAlarm
  rw [State.notify_faults]
  refine ⟨.rfl, fun c a m ak => ?_, fun a m ak _ => ?_⟩
  · obtain ⟨y, my, rfl⟩ := List.mem_map.mp m
    split at ak
    · next e => exact (h (ak.symm.trans e)).elim
    · next n => rw [if_neg n]; exact c y my ak
  · exact List.mem_map.mpr ⟨a, m, if_neg fun e => h (ak.symm.trans e)⟩

theorem Faults.Leave.confirm (s : State) (x k : Cond) (tag : ConfTag) (p : x.kind.plain = true) (h : k ≠ x) :
    s.faults.Leave k (s.confirm x tag).faults := by
  unfold State.confirm
  dsimp only
  rw [State.concerned_plain _ p]
  split
  · have l := Faults.Leave.enterAlarm (s.dropSuspicion x) x k tag h
    exact ⟨l.confirmed, l.cleared, l.active⟩
  · have l := Faults.Leave.enterAlarm { s.dropSuspicion x with
      faults := { (s.dropSuspicion x).faults with confirmed := s.faults.confirmed ++ [x] } } x k tag h
    refine ⟨l.confirmed.trans ?_, l.cleared, l.active⟩
    show k ∈ s.faults.confirmed ++ [x] ↔ _
    simp [h]

theorem Faults.Leave.endCond (s : State) (x k : Cond) (p : x.kind.plain = true) (h : k ≠ x) :
    s.faults.Leave k (s.endCond x).faults := by
  unfold State.endCond
  rw [State.concerned_plain _ p, ite_self]
  unfold State.dropCond
  dsimp only
  split
  · have l := Faults.Leave.clearAlarm { s.dropSuspicion x with
      faults := { (s.dropSuspicion x).faults with confirmed := s.faults.confirmed.filter (· ≠ x) } } x k h
    refine ⟨l.confirmed.trans ?_, l.cleared, l.active⟩
    show k ∈ s.faults.confirmed.filter (· ≠ x) ↔ _
    simp [h]
  · exact ⟨.rfl, id, fun _ m _ _ => m⟩

/-- The end of a confirmed condition clears its alarm records. -/
theorem State.endCond_cleared {x : Cond} (p : x.kind.plain = true) (m : x ∈ s.faults.confirmed) :
    ∀ a ∈ (s.endCond x).faults.alarms, a.key = x → a.active = false := by
  have c : (s.dropSuspicion x).isConfirmed x = true := State.isConfirmed_iff.mpr m
  unfold State.endCond
  rw [State.concerned_plain _ p, ite_self]
  unfold State.dropCond State.clearAlarm
  dsimp only
  rw [if_pos c, State.notify_faults]
  intro a ma ak
  obtain ⟨y, -, rfl⟩ := List.mem_map.mp ma
  split at ak
  · next e => rw [if_pos e]
  · next n => exact (n ak).elim

/-- What touches the fault confirmation unit and the link alone spares the rest. -/
theorem FaultsOnly.spares (h : FaultsOnly s t) (k : ∀ k, .cond k ∉ X → s.faults.Leave k t.faults) : Spares X s t := by
  unfold FaultsOnly at h
  generalize t.faults = f at h k
  rw [h]
  exact { cond := k }

theorem Spares.confirm (s : State) (x : Cond) (tag : ConfTag) (p : x.kind.plain = true) :
    Spares {.cond x} s (s.confirm x tag) :=
  (FaultsOnly.confirm s x tag p).spares fun k n => .confirm s x k tag p fun e => n (e ▸ rfl)

theorem Spares.endCond (s : State) (x : Cond) (p : x.kind.plain = true) : Spares {.cond x} s (s.endCond x) :=
  (FaultsOnly.endCond s x p).spares fun k n => .endCond s x k p fun e => n (e ▸ rfl)

/-- A direct entry, or one out-of-band observation of a kind that a single one confirms (R155, R156). -/
theorem State.observe_confirm {k : Cond} (h : k.cls ≤ 1) : s.observe k = s.confirm k .normal := by
  unfold State.observe
  dsimp only
  rw [if_pos h]

theorem Spares.observe (s : State) (x : Cond) (c : x.cls ≤ 1) (p : x.kind.plain = true) :
    Spares {.cond x} s (s.observe x) := by
  rw [State.observe_confirm c]
  exact .confirm s x _ p

/-! ### The output monitor (R99 to R102) -/

/-- The conditions of the groups. -/
def groupConds : Set Item := {i | ∃ (j : Group) (x : Kind), i = .cond ⟨.group j, x⟩}

theorem State.tripEnds_plain {j : Group} {k : Cond} (m : k ∈ s.tripEnds j) :
    k.kind.plain = true ∧ Item.cond k ∈ groupConds := by
  unfold State.tripEnds at m
  simp only [List.mem_append, mem_ite_singleton] at m
  rcases m with (⟨-, rfl⟩ | ⟨-, rfl⟩) | ⟨-, rfl⟩ <;> exact ⟨rfl, j, _, rfl⟩

theorem Spares.judgeMonitor (s : State) : Spares groupConds s s.judgeMonitor := by
  have ended : Spares groupConds s s.tripsEnded := by
    have judged : Spares groupConds s s.evidenceJudged := by
      unfold State.evidenceJudged
      generalize Vector.ofFn s.judgeProven = v
      exact {}
    refine .of (.each (fun g _ t => .each (fun k m u => ?_) t) _) judged
    obtain ⟨plain, mem⟩ := State.tripEnds_plain (List.mem_of_mem_filter m)
    exact (Spares.endCond u k plain).mono (Set.singleton_subset_iff.mpr mem)
  have found : ∀ t : State, Spares groupConds t (t.each s.tripsFound fun k u => u.observe k) :=
    Spares.each fun k m u => by
      obtain ⟨⟨j, x, rfl, a⟩, -⟩ := State.mem_tripsFound.mp m
      obtain ⟨plain, cls⟩ := a.plain
      exact (Spares.observe u _ (cls.trans_le (Nat.zero_le 1)) plain).mono
        (Set.singleton_subset_iff.mpr ⟨j, x, rfl⟩)
  have trip : ∀ t : State, Spares groupConds t t.trip := fun t => by
    rw [t.trip_frame]
    exact {}
  rw [s.judgeMonitor_eq]
  exact .ite ended (.of (trip _) <| .of (found _) ended)

/-! ### The lamp prover and the surveyor -/

theorem Spares.updLamp (s : State) (c : Chan) (f : LampRun → LampRun) : Spares {.dark c} s (s.updLamp c f) where
  dark := fun d n => by
    exact congrArg LampRun.dark (upd_other _ _ _ _ fun e => n (congrArg Item.dark e.symm))

/-- A proving record changed but for its dark timer. -/
theorem Spares.lamp (s : State) (c : Chan) (f : LampRun → LampRun) (h : ∀ l, (f l).dark = l.dark) :
    Spares ∅ s (s.updLamp c f) where
  dark := fun d _ => by
    unfold State.updLamp
    rw [upd_get]
    split
    · exact h _
    · rfl

theorem Spares.litEnd (s : State) (c : Chan) : Spares ∅ s (s.litEnd c) where
  cond := fun k _ => ⟨.rfl, id, fun _ m _ _ => m⟩

theorem Spares.darkEnd (s : State) (c : Chan) : Spares ∅ s (s.darkEnd c) where
  cond := fun k _ => ⟨.rfl, id, fun _ m _ _ => m⟩

theorem Spares.endDark (s : State) (c : Chan) : Spares {.dark c} s (s.endDark c) :=
  .of (Spares.darkEnd _ c).any <| .of (.updLamp _ c _) {}

theorem Spares.endFailed (s : State) (c : Chan) : Spares ∅ s (s.endFailed c) := by
  unfold State.endFailed
  exact .ite (.of (.litEnd _ c) <| .lamp s c _ fun _ => rfl) (.refl _ s)

theorem Spares.lampProvenOff (s : State) (c : Chan) : Spares {.dark c} s (s.lampProvenOff c) := by
  unfold State.lampProvenOff
  exact .ite (.updLamp s c _) (.refl _ s)

theorem Spares.lampLeftReleased (s : State) (c : Chan) : Spares {.dark c} s (s.lampLeftReleased c) := by
  unfold State.lampLeftReleased
  exact .ite (.of (Spares.endFailed _ c).any <| .endDark s c) (.refl _ s)

theorem Spares.endJob (s : State) (k : JobKind) (r : JobResult) (items : JobItems) : Spares ∅ s (s.endJob k r items) := by
  unfold State.endJob
  split
  · exact .refl _ s
  · exact .of (.notify _ _) {}

theorem Spares.learnPeriodEnd (s : State) (c : Chan) : Spares ∅ s (s.learnPeriodEnd c) := by
  have check : ∀ t : State, Spares ∅ t t.learnCheck := fun t => by
    unfold State.learnCheck
    exact .ite (.refl _ t) (.endJob t _ _ _)
  unfold State.learnPeriodEnd
  refine .ite (.ite ?_ (.lamp s c _ fun _ => rfl)) (.lamp s c _ fun _ => rfl)
  exact .of (check _) <| .trans (.lamp s c LampRun.stopLearning fun _ => rfl) {}

theorem Spares.endLit (s : State) (c : Chan) : Spares ∅ s (s.endLit c) := by
  have ended : Spares ∅ s ((s.withdraw (.lit c)).updLamp c fun l =>
      { l with settle := none, repeatTimer := none, lit := .none }) :=
    .of (.lamp _ c _ fun _ => rfl) {}
  unfold State.endLit
  exact .ite (.of (.learnPeriodEnd _ c) <| .of (.litEnd _ c) ended) (.refl _ s)

theorem Spares.learnEnd (s : State) (r : JobResult) : Spares ∅ s (s.learnEnd r) := by
  have listed : ∀ (l : List Chan) (t : State), Spares ∅ t (t.each l fun c u => u.markUnlearned c) :=
    fun l => Spares.each fun c _ u => {}
  have stopped : ∀ t : State, Spares ∅ t
      { t with lamps := t.lamps.map fun (l : LampRun) => if l.learning then l.stopLearning else l } := fun t =>
    { dark := fun c _ => by
        dsimp only
        rw [map_get]
        split <;> rfl }
  unfold State.learnEnd
  exact .ite (.of (.endJob _ _ _ _) <| .of (stopped _) <| .ite (listed _ s) (.refl _ s)) (.refl _ s)

theorem Spares.abandonIf (s : State) (p : CoreCfg → Bool) : Spares ∅ s (s.abandonIf p) := by
  unfold State.abandonIf
  split
  · refine .ite ?_ (.refl _ s)
    unfold State.abandon
    exact .ite {} (.refl _ s)
  · exact .refl _ s

/-! ### The load relays -/

/-- A change of a relay's record touches that relay, and GREEN_UNAVAILABLE of its group where it is a green relay. -/
theorem Spares.putRelay (s : State) (c : Chan) (n : Relay) : Spares {.relay c} s (s.putRelay c n) := by
  obtain ⟨ev, mon, grp, h, turn, stay⟩ := s.putRelay_spec c n
  rw [h]
  refine { relay := fun d m => upd_other _ _ _ _ fun e => m (e ▸ rfl), green := fun g m => ?_ }
  by_cases t : Relay.turns c s.relays[c] n
  · rw [turn t, upd_other]
    rintro rfl
    exact m ((chan_green.mpr ⟨t.1, rfl⟩) ▸ rfl)
  · rw [stay t]

theorem Spares.setRelay (s : State) (c : Chan) (f : Relay → Relay) : Spares {.relay c} s (s.setRelay c f) := by
  rw [State.setRelay_eq]
  exact .putRelay s c _

theorem State.setRelay_get (s : State) (c : Chan) (f : Relay → Relay) :
    (s.setRelay c f).relays[c] = (f s.relays[c]).kept := by
  rw [State.setRelay_eq]
  obtain ⟨ev, mon, grp, h, -⟩ := s.putRelay_spec c (f s.relays[c]).kept
  rw [h]
  exact upd_same _ _ _

theorem Spares.updRelay (s : State) (c : Chan) (f : Relay → Relay) : Spares {.relay c} s (s.updRelay c f) where
  relay := fun d m => upd_other _ _ _ _ fun e => m (e ▸ rfl)

theorem Spares.startRelease (s : State) (c : Chan) : Spares {.relay c} s (s.startRelease c) :=
  .of (Spares.endLit _ c).any <| .setRelay s c _

theorem Spares.release (s : State) (c : Chan) : Spares {.relay c} s (s.release c) := by
  have want : ∀ t : State, Spares {.relay c} t t.wantSelection := fun t => {}
  unfold State.release
  split
  · exact .of (want _) (.updRelay s c _)
  · exact .of (want _) (.startRelease s c)
  · exact .of (want _) (.startRelease s c)
  · exact .of (want _) (.updRelay s c _)
  · exact .refl _ s
  · exact .refl _ s

/-- A relay as a release command leaves it, its release timer running until a time where it begins to release. -/
def Relay.releasedAt (r : Relay) (e : Nat) : Relay :=
  match r.state with
  | .released => { r with held := false, waitCore := none, waitTimer := none }
  | .operating | .operated =>
    { r with state := .releasing, coil := false, opTimer := none, relTimer := some e, gen := r.gen + 1, darkSince := none }
  | .releasing => { r with held := false }
  | .failedOpen | .failedClosed => r

theorem State.release_get (s : State) (c : Chan) :
    (s.release c).relays[c] = (s.relays[c]).releasedAt (s.now + s.work.channels[c].limits.release) := by
  have same : ∀ f : Relay → Relay, (s.updRelay c f).wantSelection.relays[c] = f s.relays[c] := fun f => upd_same _ _ _
  have start : (s.startRelease c).wantSelection.relays[c] = { s.relays[c] with
      state := .releasing, coil := false, opTimer := none
      relTimer := some (s.now + s.work.channels[c].limits.release), gen := (s.relays[c]).gen + 1, darkSince := none } := by
    show (s.startRelease c).relays[c] = _
    unfold State.startRelease
    dsimp only
    rw [(Spares.endLit _ c).relay c (Set.notMem_empty _), State.setRelay_get]
    rfl
  unfold State.release Relay.releasedAt
  split
  · next h => rw [same, h]
  · next h => rw [start, h]
  · next h => rw [start, h]
  · next h => rw [same, h]
  · next h => rw [h]
  · next h => rw [h]

/-! ### The reset of a failed load relay (R94) -/

/-- RELAY_NO_OPERATE and RELAY_WELDED of a channel. -/
def noOperateOf (c : Chan) : Cond := ⟨.channel c, .relayNoOperate⟩

def weldedOf (c : Chan) : Cond := ⟨.channel c, .relayWelded⟩

/-- What belongs to the reset of a channel's relay. -/
def resetItems (c : Chan) : Set Item := {.relay c, .dark c, .cond (noOperateOf c), .cond (weldedOf c)}

theorem Spares.resetRelay (c : Chan) (s : State) : Spares (resetItems c) s (s.resetRelay c) := by
  have a := Spares.setRelay s c fun r => { r with state := .released, origin := .none, darkSince := some s.now }
  unfold State.resetRelay
  dsimp only
  refine .of ((Spares.lampProvenOff _ c).mono ?_) <| .of (Spares.endFailed _ c).any <|
    .of ((Spares.endCond _ (weldedOf c) rfl).mono ?_) <| .of ((Spares.endCond _ (noOperateOf c) rfl).mono ?_) <|
    a.mono ?_ <;> simp [resetItems]

theorem Spares.uncommanded (c : Chan) (s : State) :
    Spares {.relay c, .dark c, .cond (weldedOf c)} s (s.uncommanded c) := by
  have a := Spares.setRelay s c fun r =>
    { r with state := .failedClosed, held := false, waitCore := none, waitTimer := none, gen := r.gen + 1, origin := .welded }
  unfold State.uncommanded
  dsimp only
  refine .of (Spares.abandonIf _ _).any <| .of ((Spares.lampLeftReleased _ c).mono ?_) <|
    .of ((Spares.observe _ (weldedOf c) (Nat.le_refl 1) rfl).mono ?_) <| a.mono ?_ <;> simp

end Sys2Proof.Machine

/-! SUPPORT. The reset of the failed load relays at entry to START_FLASH (R94): what it makes of each channel. -/

namespace Sys2Proof.Machine

variable {s t u : State} {c : Chan}

/-! ### One relay's record -/

/-- A green relay that leaves FAILED_OPEN takes GREEN_UNAVAILABLE with it; one that neither enters nor leaves it changes nothing (R16). -/
theorem State.setRelay_green {f : Relay → Relay} {g : Group} (h : c = chanOf g 2)
    (n : (f s.relays[c]).state ≠ .failedOpen) : ((s.setRelay c f).groups[g]).greenUnavailable
      = if (s.relays[c]).state = .failedOpen then false else (s.groups[g]).greenUnavailable := by
  obtain ⟨green, group⟩ := chan_green.mp h
  rw [State.setRelay_eq]
  obtain ⟨ev, mon, grp, e, turn, stay⟩ := s.putRelay_spec c (f s.relays[c]).kept
  rw [e]
  show (grp[g]).greenUnavailable = _
  split
  · next o =>
    rw [turn ⟨green, fun i => n (i.mp o)⟩, upd_get, if_pos group]
    exact decide_eq_false n
  · next o => rw [stay fun t => t.2 (iff_of_false o n)]

/-- A relay's record after its reset. -/
def Relay.resetAt (r : Relay) (now : Nat) : Relay := { r with state := .released, origin := .none, darkSince := some now }

/-- A relay's record after an uncommanded closure. -/
def Relay.welded (r : Relay) : Relay :=
  { r with state := .failedClosed, held := false, waitCore := none, waitTimer := none, gen := r.gen + 1
           origin := .welded, darkSince := none }

theorem State.resetRelay_eq (s : State) (c : Chan) : s.resetRelay c
    = ((((s.setRelay c fun r => { r with state := .released, origin := .none, darkSince := some s.now }).endCond
        (noOperateOf c)).endCond (weldedOf c)).endFailed c).lampProvenOff c := by
  unfold State.resetRelay noOperateOf weldedOf
  rfl

theorem State.uncommanded_eq (s : State) (c : Chan) : s.uncommanded c
    = (((s.setRelay c fun r => { r with
        state := .failedClosed, held := false, waitCore := none, waitTimer := none, gen := r.gen + 1
        origin := .welded }).observe (weldedOf c)).lampLeftReleased c).abandonIf fun x => x.loads c := by
  unfold State.uncommanded weldedOf
  rfl

/-- What the reset of one failed load relay does (R94, R128). -/
theorem State.resetRelay_spec (s : State) (c : Chan) :
    let u := s.resetRelay c
    u.relays[c] = (s.relays[c]).resetAt s.now
      ∧ noOperateOf c ∉ u.faults.confirmed ∧ weldedOf c ∉ u.faults.confirmed
      ∧ (∀ x, x = noOperateOf c ∨ x = weldedOf c → x ∈ s.faults.confirmed →
          ∀ a ∈ u.faults.alarms, a.key = x → a.active = false)
      ∧ (s.work.used c = true → (u.lamps[c]).dark = some (s.now + 500))
      ∧ ∀ g, c = chanOf g 2 → (s.relays[c]).state = .failedOpen → (u.groups[g]).greenUnavailable = false := by
  have a := Spares.setRelay s c fun r => { r with state := .released, origin := .none, darkSince := some s.now }
  have get := s.setRelay_get c fun r => { r with state := .released, origin := .none, darkSince := some s.now }
  have green := fun g => s.setRelay_green (g := g) (c := c)
    (f := fun r => { r with state := .released, origin := .none, darkSince := some s.now })
  rw [s.resetRelay_eq]
  generalize (s.setRelay c fun r => { r with state := .released, origin := .none, darkSince := some s.now }) = t at *
  have b := Spares.endCond t (noOperateOf c) rfl
  have d := Spares.endCond (t.endCond (noOperateOf c)) (weldedOf c) rfl
  have ne : noOperateOf c ≠ weldedOf c := by simp [noOperateOf, weldedOf]
  have ended : ∀ x, x = noOperateOf c ∨ x = weldedOf c →
      x ∉ ((t.endCond (noOperateOf c)).endCond (weldedOf c)).faults.confirmed := by
    rintro x (rfl | rfl)
    · rw [State.mem_endCond, State.mem_endCond]
      exact fun m => m.1.2 rfl
    · rw [State.mem_endCond]
      exact fun m => m.2 rfl
  have cleared : ∀ x, x = noOperateOf c ∨ x = weldedOf c → x ∈ t.faults.confirmed →
      ∀ r ∈ ((t.endCond (noOperateOf c)).endCond (weldedOf c)).faults.alarms, r.key = x → r.active = false := by
    rintro x (rfl | rfl) m
    · exact (d.cond _ (by simpa using ne)).cleared (State.endCond_cleared rfl m)
    · exact State.endCond_cleared rfl (State.mem_endCond.mpr ⟨m, ne.symm⟩)
  have bd : Spares {.cond (noOperateOf c), .cond (weldedOf c)} t ((t.endCond (noOperateOf c)).endCond (weldedOf c)) :=
    (b.mono (by simp)).trans (d.mono (by simp))
  generalize (t.endCond (noOperateOf c)).endCond (weldedOf c) = v at *
  have e := Spares.endFailed v c
  have f := Spares.lampProvenOff (v.endFailed c) c
  have after : Spares {.dark c} v ((v.endFailed c).lampProvenOff c) := .of f e.any
  dsimp only
  refine ⟨?_, fun m => ended _ (.inl rfl) ((after.cond _ (by simp)).confirmed.mp m),
    fun m => ended _ (.inr rfl) ((after.cond _ (by simp)).confirmed.mp m),
    fun x o m => (after.cond x (by simp)).cleared (cleared x o ((a.cond x (by simp)).confirmed.mpr m)), fun used => ?_,
    fun g h o => ?_⟩
  · rw [after.relay c (by simp), bd.relay c (by simp), get]
    rfl
  · have w : (v.endFailed c).work.used c = true := by rw [e.work, bd.work, a.work]; exact used
    unfold State.lampProvenOff
    rw [if_pos w, e.now, bd.now, a.now]
    exact congrArg LampRun.dark (upd_same _ _ _)
  · rw [after.green g (by simp), bd.green g (by simp), green g h (by simp), if_pos o]

/-- What an uncommanded closure does (R92). -/
theorem State.uncommanded_spec (s : State) (c : Chan) :
    let u := s.uncommanded c
    u.relays[c] = (s.relays[c]).welded ∧ weldedOf c ∈ u.faults.confirmed
      ∧ ∀ g, c = chanOf g 2 → (s.relays[c]).state ≠ .failedOpen →
        (u.groups[g]).greenUnavailable = (s.groups[g]).greenUnavailable := by
  have get := s.setRelay_get c fun r =>
    { r with state := .failedClosed, held := false, waitCore := none, waitTimer := none, gen := r.gen + 1, origin := .welded }
  have green := fun g => s.setRelay_green (g := g) (c := c) (f := fun r =>
    { r with state := .failedClosed, held := false, waitCore := none, waitTimer := none, gen := r.gen + 1, origin := .welded })
  rw [s.uncommanded_eq]
  generalize (s.setRelay c fun r => { r with
    state := .failedClosed, held := false, waitCore := none, waitTimer := none, gen := r.gen + 1, origin := .welded }) = t at *
  have b := Spares.observe t (weldedOf c) (Nat.le_refl 1) rfl
  have member : weldedOf c ∈ (t.observe (weldedOf c)).faults.confirmed := by
    rw [State.observe_confirm (k := weldedOf c) (Nat.le_refl 1), State.mem_confirm]
    exact .inr rfl
  generalize t.observe (weldedOf c) = v at *
  dsimp only
  have after : Spares {.dark c} v ((v.lampLeftReleased c).abandonIf fun x => x.loads c) :=
    .of (Spares.abandonIf _ _).any <| .lampLeftReleased v c
  refine ⟨?_, (after.cond _ (by simp)).confirmed.mpr member, fun g h o => ?_⟩
  · rw [after.relay c (by simp), b.relay c (by simp), get]
    rfl
  · rw [after.green g (by simp), b.green g (by simp), green g h (by simp), if_neg o]

/-! ### All of them -/

/-- The supply relays, and the conditions that are reported on them. -/
def supplyItems : Set Item := {i | i = .smc ∨ i = .ftr ∨ ∃ (x : Supply) (k : Kind), i = .cond ⟨.supply x, k⟩}

/-- What the entry of START_FLASH may touch beside the items of one channel. -/
def besideChan (c : Chan) : Set Item := {i | ∃ b, b ≠ c ∧ i ∈ resetItems b} ∪ groupConds ∪ supplyItems

theorem resetItems_notMem_beside {i : Item} (h : i ∈ resetItems c) : i ∉ besideChan c := by
  have apart : ∀ b, b ≠ c → i ∉ resetItems b := by
    intro b n
    rcases h with rfl | rfl | rfl | rfl <;> simp [resetItems, noOperateOf, weldedOf, n.symm]
  rintro ((⟨b, n, m⟩ | ⟨j, x, m⟩) | m)
  · exact apart b n m
  · rcases h with rfl | rfl | rfl | rfl <;> cases m
  · rcases m with m | m | ⟨x, k, m⟩ <;> rcases h with rfl | rfl | rfl | rfl <;> cases m

theorem relay_notMem_beside (c : Chan) : .relay c ∉ besideChan c := resetItems_notMem_beside (.inl rfl)

theorem dark_notMem_beside (c : Chan) : .dark c ∉ besideChan c := resetItems_notMem_beside (.inr (.inl rfl))

theorem cond_notMem_beside {x : Cond} (h : x = noOperateOf c ∨ x = weldedOf c) : .cond x ∉ besideChan c :=
  resetItems_notMem_beside (.inr (.inr (h.imp (congrArg _) (congrArg _))))

theorem State.resets_iff : s.resets c = true ↔
    ((s.relays[c]).state = .failedOpen ∨ (s.relays[c]).state = .failedClosed)
      ∧ ¬ ((s.relays[c]).origin = .crosspoint ∧ s.survey.lineClosed = true) := by
  unfold State.resets
  dsimp only
  rw [Bool.and_eq_true, Bool.or_eq_true, Bool.not_eq_true', Bool.eq_false_iff, ne_eq, Bool.and_eq_true, beq_iff_eq,
    beq_iff_eq, beq_iff_eq]

/-- A channel whose relay is not reset keeps its items. -/
theorem Spares.resetRelays_of_not (h : ¬ s.resets c = true) : Spares (besideChan c) s s.resetRelays := by
  have beside : ∀ b ∈ allChans.filter s.resets, resetItems b ⊆ besideChan c := fun b m i x =>
    .inl (.inl ⟨b, fun e => h (e ▸ (List.mem_filter.mp m).2), x⟩)
  have welded : ∀ b, ({.relay b, .dark b, .cond (weldedOf b)} : Set Item) ⊆ resetItems b := fun b => by
    simp [resetItems, Set.insert_subset_iff]
  refine .of (.each (fun b m t => (Spares.uncommanded b t).mono ((welded b).trans (beside b (List.mem_of_mem_filter m)))) _) <|
    .of ((Spares.judgeMonitor _).mono fun i x => .inl (.inr x)) <|
    .each (fun b m t => (Spares.resetRelay b t).mono (beside b m)) s

/-- A channel whose relay is reset has its reset, and where its proof is closed an uncommanded closure after it; all else that is done concerns other items. -/
theorem State.resetRelays_at (h : s.resets c = true) : ∃ t, Spares (besideChan c) s t
    ∧ ((s.relays[c]).proof = false → Spares (besideChan c) (t.resetRelay c) s.resetRelays)
    ∧ ((s.relays[c]).proof = true → ∃ v, Spares (besideChan c) (t.resetRelay c) v
        ∧ Spares (besideChan c) (v.uncommanded c) s.resetRelays) := by
  have nd : (allChans.filter s.resets).Nodup := (List.nodup_finRange 48).filter _
  have sub : ∀ Z : Chan → Set Item, (∀ b, Z b ⊆ resetItems b) → {i | ∃ b, b ≠ c ∧ i ∈ Z b} ⊆ besideChan c :=
    fun Z z i ⟨b, n, m⟩ => .inl (.inl ⟨b, n, z b m⟩)
  have welded : ∀ b, ({.relay b, .dark b, .cond (weldedOf b)} : Set Item) ⊆ resetItems b := fun b => by
    simp [resetItems, Set.insert_subset_iff]
  obtain ⟨t, before, after⟩ := Spares.each_at (f := fun c t => t.resetRelay c) Spares.resetRelay nd
    (List.mem_filter.mpr ⟨List.mem_finRange c, h⟩) s
  have before := before.mono (sub _ fun _ => Set.Subset.refl _)
  have judged := (after.mono (sub _ fun _ => Set.Subset.refl _)).trans
    ((Spares.judgeMonitor _).mono fun i x => .inl (.inr x))
  refine ⟨t, before, fun p => ?_, fun p => ?_⟩
  · refine .of (.each (fun b m u => (Spares.uncommanded b u).mono ?_) _) judged
    refine fun i x => .inl (.inl ⟨b, ?_, welded b x⟩)
    rintro rfl
    have q := (List.mem_filter.mp m).2
    rw [p] at q
    cases q
  · obtain ⟨v, early, late⟩ := Spares.each_at (f := fun c t => t.uncommanded c) Spares.uncommanded
      (nd.filter fun c => (s.relays[c]).proof)
      (List.mem_filter.mpr ⟨List.mem_filter.mpr ⟨List.mem_finRange c, h⟩, p⟩) _
    exact ⟨v, judged.trans (early.mono (sub _ welded)), late.mono (sub _ welded)⟩

/-- The reset of a failed load relay, whatever else is done beside it: the relay RELEASED, its conditions ended and their records cleared, its dark timer started (R94, R128). -/
theorem State.resetRelay_beside (h : Spares (besideChan c) s t) (k : Spares (besideChan c) (t.resetRelay c) u) :
    u.relays[c] = (s.relays[c]).resetAt s.now
      ∧ noOperateOf c ∉ u.faults.confirmed ∧ weldedOf c ∉ u.faults.confirmed
      ∧ (∀ x, x = noOperateOf c ∨ x = weldedOf c → x ∈ s.faults.confirmed →
          ∀ a ∈ u.faults.alarms, a.key = x → a.active = false)
      ∧ (s.work.used c = true → (u.lamps[c]).dark = some (s.now + 500))
      ∧ ∀ g, c = chanOf g 2 → (s.relays[c]).state = .failedOpen → (u.groups[g]).greenUnavailable = false := by
  obtain ⟨relay, no, welded, cleared, dark, green⟩ := t.resetRelay_spec c
  have before := h.relay c (relay_notMem_beside c)
  rw [before, h.now] at relay
  rw [h.work, h.now] at dark
  rw [before] at green
  refine ⟨(k.relay c (relay_notMem_beside c)).trans relay,
    fun m => no ((k.cond _ (cond_notMem_beside (.inl rfl))).confirmed.mp m),
    fun m => welded ((k.cond _ (cond_notMem_beside (.inr rfl))).confirmed.mp m),
    fun x o m => (k.cond x (cond_notMem_beside o)).cleared (cleared x o
      ((h.cond x (cond_notMem_beside o)).confirmed.mpr m)),
    fun used => (k.dark c (dark_notMem_beside c)).trans (dark used), fun g e o => ?_⟩
  rw [k.green g (e ▸ relay_notMem_beside c)]
  exact green g e o

/-- A relay that is reset while its proof is closed fails again as welded. -/
theorem State.uncommanded_beside (h : Spares (besideChan c) s t) (k : Spares (besideChan c) (t.uncommanded c) u) :
    u.relays[c] = (s.relays[c]).welded ∧ weldedOf c ∈ u.faults.confirmed
      ∧ (noOperateOf c ∉ s.faults.confirmed → noOperateOf c ∉ u.faults.confirmed)
      ∧ ∀ g, c = chanOf g 2 → (s.relays[c]).state ≠ .failedOpen →
        (u.groups[g]).greenUnavailable = (s.groups[g]).greenUnavailable := by
  obtain ⟨relay, welded, green⟩ := t.uncommanded_spec c
  have before := h.relay c (relay_notMem_beside c)
  have other : .cond (noOperateOf c) ∉ ({.relay c, .dark c, .cond (weldedOf c)} : Set Item) := by
    simp [noOperateOf, weldedOf]
  have no := ((h.cond _ (cond_notMem_beside (.inl rfl))).trans ((Spares.uncommanded c t).cond _ other)).trans
    (k.cond _ (cond_notMem_beside (.inl rfl)))
  rw [before] at relay green
  refine ⟨(k.relay c (relay_notMem_beside c)).trans relay,
    (k.cond _ (cond_notMem_beside (.inr rfl))).confirmed.mpr welded, fun n m => n (no.confirmed.mp m), fun g e o => ?_⟩
  have out : .relay (chanOf g 2) ∉ besideChan c := e ▸ relay_notMem_beside c
  rw [k.green g out, green g e o, h.green g out]

end Sys2Proof.Machine

/-! SUPPORT. The supply relays at the entry of a mode (R96, R97), and O46. -/

namespace Sys2Proof.Machine

variable {s t u : State} {c : Chan}

/-! ### Commands for the SMC and the FTR -/

theorem Spares.setSmc (s : State) (f : SupplyRelay → SupplyRelay) : Spares {.smc} s (s.setSmc f) where
  smc := fun n => (n rfl).elim

theorem Spares.setFtr (s : State) (f : SupplyRelay → SupplyRelay) : Spares {.ftr} s (s.setFtr f) where
  ftr := fun n => (n rfl).elim

theorem Spares.smcOpen (s : State) : Spares {.smc} s s.smcOpen := by
  unfold State.smcOpen
  split
  · exact .setSmc s _
  · exact .setSmc s _
  · exact .setSmc s _
  · exact .refl _ s
  · exact .refl _ s

/-- The SMC as it begins to close. -/
def SupplyRelay.closing (r : SupplyRelay) (e : Nat) : SupplyRelay :=
  { r with state := .operating, coil := true, held := false, opTimer := some e }

/-- The SMC begins to close; beside it only the surveyor is told. -/
theorem State.smcBeginClose_spec (s : State) :
    Spares {.smc} s s.smcBeginClose ∧ s.smcBeginClose.smc = s.smc.closing (s.now + s.work.smc.operate) := by
  have set := Spares.setSmc s fun r =>
    { r with state := .operating, coil := true, held := false, opTimer := some (s.now + s.work.smc.operate) }
  have told : Spares ∅ (s.setSmc fun r =>
      { r with state := .operating, coil := true, held := false, opTimer := some (s.now + s.work.smc.operate) })
      s.smcBeginClose :=
    .ite (.abandonIf _ _) (.of (.abandonIf _ _) (.abandonIf _ _))
  exact ⟨set.trans told.any, told.smc (Set.notMem_empty _)⟩

theorem Spares.smcClose (s : State) : Spares {.smc} s s.smcClose := by
  unfold State.smcClose
  split
  · exact s.smcBeginClose_spec.1
  · exact .setSmc s _
  · exact .refl _ s
  · exact .refl _ s
  · exact .refl _ s

theorem State.smcOpen_failed (h : s.smc.state = .failed) : s.smcOpen = s := by
  unfold State.smcOpen
  rw [h]

theorem State.smcClose_failed (h : s.smc.state = .failed) : s.smcClose = s := by
  unfold State.smcClose
  rw [h]

theorem State.smcClose_rest (h : s.smc.state = .rest) : s.smcClose = s.smcBeginClose := by
  unfold State.smcClose
  rw [h]

/-- The SMC after a command is a matter of its record, the time and its limits. -/
theorem State.smcOpen_congr (h : t.smc = s.smc) (n : t.now = s.now) (w : t.work = s.work) :
    t.smcOpen.smc = s.smcOpen.smc := by
  unfold State.smcOpen State.setSmc
  rw [h, n, w]
  split
  · rfl
  · rfl
  · rfl
  · exact h
  · exact h

theorem State.smcClose_congr (h : t.smc = s.smc) (n : t.now = s.now) (w : t.work = s.work) :
    t.smcClose.smc = s.smcClose.smc := by
  unfold State.smcClose
  rw [h]
  split
  · rw [t.smcBeginClose_spec.2, s.smcBeginClose_spec.2, h, n, w]
  · show SupplyRelay.mk _ _ _ _ _ _ = _
    rw [h]
    rfl
  · exact h
  · exact h
  · exact h

/-- The FTR has failed in the NORMAL position, where a to-flash command falls back on the SMC (R97). -/
def State.FtrStuck (s : State) : Prop := s.ftr.state = .failed ∧ s.ftr.proof = true

theorem Spares.ftrToFlash (s : State) : Spares {.smc, .ftr} s s.ftrToFlash := by
  have set : ∀ f : SupplyRelay → SupplyRelay, Spares {.smc, .ftr} s (s.setFtr f) := fun f =>
    (Spares.setFtr s f).mono (by simp)
  unfold State.ftrToFlash
  split
  · exact set _
  · exact set _
  · exact set _
  · exact .ite ((Spares.smcOpen s).mono (by simp)) (.refl _ s)
  · exact .refl _ s

theorem Spares.ftrToNormal (s : State) : Spares {.ftr} s s.ftrToNormal := by
  unfold State.ftrToNormal State.ftrBeginNormal
  split
  · exact .setFtr s _
  · exact .setFtr s _
  · exact .refl _ s
  · exact .refl _ s
  · exact .refl _ s

/-- A to-flash command leaves the SMC as it was, but for the fallback. -/
theorem State.ftrToFlash_smc (h : s.smc.state = .failed ∨ ¬ s.FtrStuck) : s.ftrToFlash.smc = s.smc := by
  unfold State.ftrToFlash
  split
  · rfl
  · rfl
  · rfl
  · next f =>
    split
    · next p => rw [State.smcOpen_failed (h.resolve_right fun n => n ⟨f, p⟩)]
    · rfl
  · rfl

/-- A to-flash command leaves an FTR in FLASH, or one that has failed, as it was. -/
theorem State.ftrToFlash_ftr (h : s.ftr.state = .rest ∨ s.ftr.state = .failed) : s.ftrToFlash.ftr = s.ftr := by
  unfold State.ftrToFlash
  rcases h with h | h <;> rw [h]
  dsimp only
  split
  · exact (Spares.smcOpen s).ftr (by simp)
  · rfl

theorem State.ftrToFlash_congr (h : t.ftr = s.ftr) (n : t.now = s.now) (w : t.work = s.work)
    (f : s.ftr.state ≠ .failed) : t.ftrToFlash.ftr = s.ftrToFlash.ftr := by
  unfold State.ftrToFlash State.setFtr
  rw [h, n, w]
  split
  · rfl
  · rfl
  · rfl
  · next e => exact (f e).elim
  · exact h

theorem State.ftrToNormal_congr (h : t.ftr = s.ftr) (n : t.now = s.now) (w : t.work = s.work) :
    t.ftrToNormal.ftr = s.ftrToNormal.ftr := by
  unfold State.ftrToNormal State.ftrBeginNormal State.setFtr
  rw [h, n, w]
  split
  · rfl
  · rfl
  · exact h
  · exact h
  · exact h

/-! ### The resets of the SMC and the FTR (R96, R97) -/

def smcNoOperate : Cond := ⟨.supply .smc, .relayNoOperate⟩

def smcCut : Cond := ⟨.supply .smc, .supplyCutFailed⟩

def ftrNoOperate : Cond := ⟨.supply .ftr, .relayNoOperate⟩

def ftrWeldedCond : Cond := ⟨.supply .ftr, .relayWelded⟩

/-- Two conditions that have ended are not confirmed. -/
theorem State.endTwo_spec (s : State) (x y : Cond) (p : x.kind.plain = true) (q : y.kind.plain = true) :
    Spares {.cond x, .cond y} s ((s.endCond x).endCond y)
      ∧ x ∉ ((s.endCond x).endCond y).faults.confirmed ∧ y ∉ ((s.endCond x).endCond y).faults.confirmed := by
  refine ⟨((Spares.endCond s x p).mono (by simp)).trans ((Spares.endCond _ y q).mono (by simp)), ?_, ?_⟩
  · rw [State.mem_endCond, State.mem_endCond]
    exact fun m => m.1.2 rfl
  · rw [State.mem_endCond]
    exact fun m => m.2 rfl

/-- What the reset of the SMC may touch. -/
def smcItems : Set Item := {.smc, .cond smcNoOperate, .cond smcCut}

theorem State.resetSmc_not (h : s.smc.state ≠ .failed) : s.resetSmc = s := by
  unfold State.resetSmc
  rw [if_neg h]

/-- The reset of a failed SMC: OPEN, or failed again where its proof is closed. -/
theorem State.resetSmc_spec (h : s.smc.state = .failed) :
    Spares smcItems s s.resetSmc ∧ smcNoOperate ∉ s.resetSmc.faults.confirmed
      ∧ (s.smc.proof = false → s.resetSmc.smc = { s.smc with state := .rest, coil := false }
          ∧ smcCut ∉ s.resetSmc.faults.confirmed)
      ∧ (s.smc.proof = true → s.resetSmc.smc = { s.smc with
            state := .failed, coil := false, held := false, opTimer := none, relTimer := none }
          ∧ smcCut ∈ s.resetSmc.faults.confirmed) := by
  have set := Spares.setSmc s fun r => { r with state := .rest, coil := false }
  have e : s.resetSmc = let t := ((s.setSmc fun r => { r with state := .rest, coil := false }).endCond
      smcNoOperate).endCond smcCut
      if t.smc.proof then ((t.setSmc SupplyRelay.fail).observe smcCut).ask .supplyCut else t := by
    unfold State.resetSmc
    rw [if_pos h]
    rfl
  have smc : (s.setSmc fun r => { r with state := .rest, coil := false }).smc
      = { s.smc with state := .rest, coil := false } := by unfold State.setSmc; rfl
  rw [e]
  generalize (s.setSmc fun r => { r with state := .rest, coil := false }) = t at set smc ⊢
  obtain ⟨ended, no, cut⟩ := t.endTwo_spec smcNoOperate smcCut rfl rfl
  generalize (t.endCond smcNoOperate).endCond smcCut = v at ended no cut ⊢
  have smc : v.smc = { s.smc with state := .rest, coil := false } := (ended.smc (by simp)).trans smc
  have before : Spares smcItems s v :=
    (set.mono (by simp [smcItems])).trans (ended.mono (by simp [smcItems]))
  have proof : v.smc.proof = s.smc.proof := by rw [smc]
  have failed := Spares.setSmc v SupplyRelay.fail
  have fail : (v.setSmc SupplyRelay.fail).smc = v.smc.fail := by unfold State.setSmc; rfl
  have observed := Spares.observe (v.setSmc SupplyRelay.fail) smcCut (Nat.zero_le 1) rfl
  have member : smcCut ∈ ((v.setSmc SupplyRelay.fail).observe smcCut).faults.confirmed := by
    rw [State.observe_confirm (k := smcCut) (Nat.zero_le 1), State.mem_confirm]
    exact .inr rfl
  have asked := Spares.ask ((v.setSmc SupplyRelay.fail).observe smcCut) .supplyCut
  have no' : smcNoOperate ∉ (v.setSmc SupplyRelay.fail).faults.confirmed := no
  dsimp only
  split
  · next p =>
    rw [proof] at p
    have ne : Item.cond smcNoOperate ∉ ({.cond smcCut} : Set Item) := by simp [smcNoOperate, smcCut]
    refine ⟨.of asked.any <| .of (observed.mono (by simp [smcItems])) <| .of (failed.mono (by simp [smcItems])) before,
      fun m => no' ((observed.cond _ ne).confirmed.mp m), fun n => (Bool.noConfusion (p.symm.trans n)), fun _ => ⟨?_, member⟩⟩
    rw [asked.smc (Set.notMem_empty _), observed.smc (by simp), fail, smc]
    rfl
  · next p =>
    rw [proof] at p
    exact ⟨before, no, fun _ => ⟨smc, cut⟩, fun n => (p n).elim⟩

/-- What the reset of the FTR may touch: the SMC too, by the fallback. -/
def ftrItems : Set Item := {.smc, .ftr, .cond ftrNoOperate, .cond ftrWeldedCond}

theorem State.resetFtr_not (h : s.ftr.state ≠ .failed) : s.resetFtr = s := by
  unfold State.resetFtr
  rw [if_neg h]

/-- The reset of a failed FTR: FLASH, or failed again where its proof is closed, with the fallback on the SMC. -/
theorem State.resetFtr_spec (h : s.ftr.state = .failed) :
    Spares ftrItems s s.resetFtr ∧ ftrNoOperate ∉ s.resetFtr.faults.confirmed
      ∧ (s.smc.state = .failed ∨ s.ftr.proof = false → s.resetFtr.smc = s.smc)
      ∧ (s.ftr.proof = false → s.resetFtr.ftr = { s.ftr with state := .rest, coil := false }
          ∧ ftrWeldedCond ∉ s.resetFtr.faults.confirmed)
      ∧ (s.ftr.proof = true → s.resetFtr.ftr = { s.ftr with
            state := .failed, coil := false, held := false, opTimer := none, relTimer := none }
          ∧ ftrWeldedCond ∈ s.resetFtr.faults.confirmed) := by
  have set := Spares.setFtr s fun r => { r with state := .rest, coil := false }
  have e : s.resetFtr = let t := ((s.setFtr fun r => { r with state := .rest, coil := false }).endCond
      ftrNoOperate).endCond ftrWeldedCond
      if t.ftr.proof then ((t.setFtr SupplyRelay.fail).observe ftrWeldedCond).smcOpen else t := by
    unfold State.resetFtr
    rw [if_pos h]
    rfl
  have ftr : (s.setFtr fun r => { r with state := .rest, coil := false }).ftr
      = { s.ftr with state := .rest, coil := false } := by unfold State.setFtr; rfl
  rw [e]
  generalize (s.setFtr fun r => { r with state := .rest, coil := false }) = t at set ftr ⊢
  obtain ⟨ended, no, welded⟩ := t.endTwo_spec ftrNoOperate ftrWeldedCond rfl rfl
  generalize (t.endCond ftrNoOperate).endCond ftrWeldedCond = v at ended no welded ⊢
  have ftr : v.ftr = { s.ftr with state := .rest, coil := false } := (ended.ftr (by simp)).trans ftr
  have smc : v.smc = s.smc := (ended.smc (by simp)).trans (set.smc (by simp))
  have before : Spares ftrItems s v :=
    (set.mono (by simp [ftrItems])).trans (ended.mono (by simp [ftrItems, Set.insert_subset_iff]))
  have proof : v.ftr.proof = s.ftr.proof := by rw [ftr]
  have failed := Spares.setFtr v SupplyRelay.fail
  have fail : (v.setFtr SupplyRelay.fail).ftr = v.ftr.fail := by unfold State.setFtr; rfl
  have observed := Spares.observe (v.setFtr SupplyRelay.fail) ftrWeldedCond (Nat.le_refl 1) rfl
  have member : ftrWeldedCond ∈ ((v.setFtr SupplyRelay.fail).observe ftrWeldedCond).faults.confirmed := by
    rw [State.observe_confirm (k := ftrWeldedCond) (Nat.le_refl 1), State.mem_confirm]
    exact .inr rfl
  have no' : ftrNoOperate ∉ (v.setFtr SupplyRelay.fail).faults.confirmed := no
  have smc' : ((v.setFtr SupplyRelay.fail).observe ftrWeldedCond).smc = s.smc :=
    (observed.smc (by simp)).trans ((failed.smc (by simp)).trans smc)
  have opened := Spares.smcOpen ((v.setFtr SupplyRelay.fail).observe ftrWeldedCond)
  dsimp only
  split
  · next p =>
    rw [proof] at p
    have ne : Item.cond ftrNoOperate ∉ ({.cond ftrWeldedCond} : Set Item) := by simp [ftrNoOperate, ftrWeldedCond]
    refine ⟨.of (opened.mono (by simp [ftrItems])) <| .of (observed.mono (by simp [ftrItems])) <|
        .of (failed.mono (by simp [ftrItems])) before,
      fun m => no' ((observed.cond _ ne).confirmed.mp ((opened.cond _ (by simp)).confirmed.mp m)), fun o => ?_,
      fun n => (Bool.noConfusion (p.symm.trans n)), fun _ => ⟨?_, (opened.cond _ (by simp)).confirmed.mpr member⟩⟩
    · have f : s.smc.state = .failed := o.resolve_right fun n => Bool.noConfusion (p.symm.trans n)
      rw [State.smcOpen_failed (by rw [smc']; exact f), smc']
    · rw [opened.ftr (by simp), observed.ftr (by simp), fail, ftr]
      rfl
  · next p =>
    rw [proof] at p
    exact ⟨before, no, fun _ => smc, fun _ => ⟨ftr, welded⟩, fun n => (p n).elim⟩

end Sys2Proof.Machine

/-! SUPPORT. The entry of a mode (R9, R94, R96, R97, R166), and O46. -/

namespace Sys2Proof.Machine

variable {s t u : State} {c : Chan} {X : Set Item}

/-! ### The supply relays reset at entry to START_FLASH, and then commanded -/

theorem Spares.resetSmc (s : State) : Spares smcItems s s.resetSmc := by
  by_cases h : s.smc.state = .failed
  · exact (State.resetSmc_spec h).1
  · rw [State.resetSmc_not h]
    exact .refl _ s

theorem Spares.resetFtr (s : State) : Spares ftrItems s s.resetFtr := by
  by_cases h : s.ftr.state = .failed
  · exact (State.resetFtr_spec h).1
  · rw [State.resetFtr_not h]
    exact .refl _ s

theorem State.resetFtr_smc (h : s.smc.state = .failed ∨ ¬ s.FtrStuck) : s.resetFtr.smc = s.smc := by
  by_cases f : s.ftr.state = .failed
  · obtain ⟨-, -, smc, -⟩ := State.resetFtr_spec f
    refine smc (h.imp id fun n => ?_)
    exact Bool.eq_false_iff.mpr fun p => n ⟨f, p⟩
  · rw [State.resetFtr_not f]

/-- An FTR that has not failed in the NORMAL position has not failed after its reset. -/
theorem State.resetFtr_not_failed (h : ¬ s.FtrStuck) : s.resetFtr.ftr.state ≠ .failed := by
  by_cases f : s.ftr.state = .failed
  · obtain ⟨-, -, -, ok, -⟩ := State.resetFtr_spec f
    rw [(ok (Bool.eq_false_iff.mpr fun p => h ⟨f, p⟩)).1]
    simp
  · rw [State.resetFtr_not f]
    exact f

/-- The supply relays are reset and commanded, as START_FLASH is entered. -/
def State.suppliesReset (s : State) : State := ((s.resetSmc.resetFtr.judgeMonitor).smcClose).ftrToFlash

theorem smcItems_subset : smcItems ⊆ supplyItems := by
  rintro i (rfl | rfl | rfl)
  · exact .inl rfl
  · exact .inr (.inr ⟨_, _, rfl⟩)
  · exact .inr (.inr ⟨_, _, rfl⟩)

theorem ftrItems_subset : ftrItems ⊆ supplyItems := by
  rintro i (rfl | rfl | rfl | rfl)
  · exact .inl rfl
  · exact .inr (.inl rfl)
  · exact .inr (.inr ⟨_, _, rfl⟩)
  · exact .inr (.inr ⟨_, _, rfl⟩)

theorem pair_subset_supplyItems : ({.smc, .ftr} : Set Item) ⊆ supplyItems := by
  rintro i (rfl | rfl)
  · exact .inl rfl
  · exact .inr (.inl rfl)

/-- The commands after the resets touch the supply relays alone. -/
theorem Spares.suppliesCommanded (s : State) : Spares {.smc, .ftr} s s.smcClose.ftrToFlash :=
  .of (.ftrToFlash _) ((Spares.smcClose s).mono (by simp))

theorem Spares.suppliesReset (s : State) : Spares (groupConds ∪ supplyItems) s s.suppliesReset :=
  .of ((Spares.suppliesCommanded _).mono (pair_subset_supplyItems.trans Set.subset_union_right)) <|
    .of ((Spares.judgeMonitor _).mono Set.subset_union_left) <|
    .of ((Spares.resetFtr _).mono (ftrItems_subset.trans Set.subset_union_right)) <|
    (Spares.resetSmc s).mono (smcItems_subset.trans Set.subset_union_right)

/-- Once a supply relay has been reset, its conditions stay as they are. -/
theorem Faults.Leave.suppliesReset {k : Cond} (s : State) (h : .cond k ∉ ftrItems) (g : .cond k ∉ groupConds) :
    s.resetSmc.faults.Leave k s.suppliesReset.faults :=
  (((Spares.resetFtr _).cond k h).trans ((Spares.judgeMonitor _).cond k g)).trans
    ((Spares.suppliesCommanded _).cond k (by simp))

theorem State.suppliesReset_smc (h : s.smc.state = .failed) :
    smcNoOperate ∉ s.suppliesReset.faults.confirmed
      ∧ (s.smc.proof = false → ¬ s.FtrStuck → s.suppliesReset.smc = s.smc.closing (s.now + s.work.smc.operate)
          ∧ smcCut ∉ s.suppliesReset.faults.confirmed)
      ∧ (s.smc.proof = true → s.suppliesReset.smc = { s.smc with
            state := .failed, coil := false, held := false, opTimer := none, relTimer := none }
          ∧ smcCut ∈ s.suppliesReset.faults.confirmed) := by
  obtain ⟨spares, no, good, bad⟩ := State.resetSmc_spec h
  have leave : ∀ k, k = smcNoOperate ∨ k = smcCut → s.resetSmc.faults.Leave k s.suppliesReset.faults := by
    rintro k (rfl | rfl)
    · exact .suppliesReset s (by simp [ftrItems, smcNoOperate, ftrNoOperate, ftrWeldedCond]) (fun ⟨_, _, e⟩ => (nomatch e))
    · exact .suppliesReset s (by simp [ftrItems, smcCut, ftrNoOperate, ftrWeldedCond]) (fun ⟨_, _, e⟩ => (nomatch e))
  have stuck : s.resetSmc.FtrStuck ↔ s.FtrStuck := by
    unfold State.FtrStuck
    rw [spares.ftr (by simp [smcItems])]
  have judged := Spares.judgeMonitor s.resetSmc.resetFtr
  have out : Item.smc ∉ groupConds ∧ Item.ftr ∉ groupConds :=
    ⟨fun ⟨_, _, e⟩ => (nomatch e), fun ⟨_, _, e⟩ => (nomatch e)⟩
  have now : s.resetSmc.resetFtr.judgeMonitor.now = s.now :=
    judged.now.trans ((Spares.resetFtr _).now.trans spares.now)
  have work : s.resetSmc.resetFtr.judgeMonitor.work = s.work :=
    judged.work.trans ((Spares.resetFtr _).work.trans spares.work)
  have smc := judged.smc out.1
  have ftr := judged.ftr out.2
  refine ⟨fun m => no ((leave _ (.inl rfl)).confirmed.mp m), fun p n => ?_, fun p => ?_⟩
  · obtain ⟨e, cut⟩ := good p
    refine ⟨?_, fun m => cut ((leave _ (.inr rfl)).confirmed.mp m)⟩
    have n' : ¬ s.resetSmc.FtrStuck := fun f => n (stuck.mp f)
    have rest := State.resetFtr_not_failed n'
    rw [State.resetFtr_smc (.inr n'), e] at smc
    unfold State.suppliesReset
    generalize s.resetSmc.resetFtr.judgeMonitor = t at now work smc ftr ⊢
    have close := Spares.smcClose t
    rw [State.ftrToFlash_smc (.inr fun f => ?_), State.smcClose_rest (by rw [smc]), t.smcBeginClose_spec.2, smc, now, work]
    · rfl
    · refine rest ?_
      rw [← ftr, ← close.ftr (by simp)]
      exact f.1
  · obtain ⟨e, cut⟩ := bad p
    refine ⟨?_, (leave _ (.inr rfl)).confirmed.mpr cut⟩
    rw [State.resetFtr_smc (.inl (by rw [e])), e] at smc
    unfold State.suppliesReset
    generalize s.resetSmc.resetFtr.judgeMonitor = t at smc ⊢
    have f : t.smc.state = .failed := by rw [smc]
    rw [State.smcClose_failed f, State.ftrToFlash_smc (.inl f), smc]

theorem State.suppliesReset_ftr (h : s.ftr.state = .failed) :
    ftrNoOperate ∉ s.suppliesReset.faults.confirmed
      ∧ (s.ftr.proof = false → s.suppliesReset.ftr = { s.ftr with state := .rest, coil := false }
          ∧ ftrWeldedCond ∉ s.suppliesReset.faults.confirmed)
      ∧ (s.ftr.proof = true → s.suppliesReset.ftr = { s.ftr with
            state := .failed, coil := false, held := false, opTimer := none, relTimer := none }
          ∧ ftrWeldedCond ∈ s.suppliesReset.faults.confirmed) := by
  have before : s.resetSmc.ftr = s.ftr := (Spares.resetSmc s).ftr (by simp [smcItems])
  obtain ⟨-, no, -, good, bad⟩ := State.resetFtr_spec (s := s.resetSmc) (by rw [before]; exact h)
  rw [before] at good bad
  have judged := Spares.judgeMonitor s.resetSmc.resetFtr
  have leave : ∀ (x : Supply) (k : Kind), s.resetSmc.resetFtr.faults.Leave ⟨.supply x, k⟩ s.suppliesReset.faults :=
    fun x k => (judged.cond _ (fun ⟨_, _, e⟩ => (nomatch e))).trans ((Spares.suppliesCommanded _).cond _ (by simp))
  have ftr : s.resetSmc.resetFtr.judgeMonitor.ftr = s.resetSmc.resetFtr.ftr :=
    judged.ftr (fun ⟨_, _, e⟩ => (nomatch e))
  have after : ∀ r : SupplyRelay, s.resetSmc.resetFtr.ftr = r → r.state = .rest ∨ r.state = .failed →
      s.suppliesReset.ftr = r := by
    intro r e o
    rw [e] at ftr
    unfold State.suppliesReset
    generalize s.resetSmc.resetFtr.judgeMonitor = t at ftr ⊢
    have close := (Spares.smcClose t).ftr (by simp)
    rw [State.ftrToFlash_ftr (by rw [close, ftr]; exact o), close, ftr]
  refine ⟨fun m => no ((leave _ _).confirmed.mp m), fun p => ?_, fun p => ?_⟩
  · obtain ⟨e, welded⟩ := good p
    exact ⟨after _ e (.inl rfl), fun m => welded ((leave _ _).confirmed.mp m)⟩
  · obtain ⟨e, welded⟩ := bad p
    exact ⟨after _ e (.inr rfl), (leave _ _).confirmed.mpr welded⟩

/-! ### The supply commands of Table 10-2 -/

theorem State.supplyCommands_open (h : s.mode.mode = .unconfigured ∨ s.mode.mode = .mainsOut
    ∨ (s.mode.mode = .standby ∧ s.work.junction.standbyDisplay = .dark)
    ∨ (s.mode.mode = .failsafe ∧ s.mode.style = .dark)) : s.supplyCommands = s.smcOpen.ftrToFlash := by
  unfold State.supplyCommands
  rcases h with h | h | ⟨h, d⟩ | ⟨h, d⟩
  · rw [h]
  · rw [h]
  · rw [h, d]
    rfl
  · rw [h, d]
    rfl

theorem State.supplyCommands_close (h : s.mode.mode = .startFlash ∨ s.mode.mode = .partFlash
    ∨ (s.mode.mode = .standby ∧ s.work.junction.standbyDisplay = .flash)
    ∨ (s.mode.mode = .failsafe ∧ s.mode.style = .flash)) : s.supplyCommands = s.smcClose.ftrToFlash := by
  unfold State.supplyCommands
  rcases h with h | h | ⟨h, d⟩ | ⟨h, d⟩
  · rw [h]
  · rw [h]
  · rw [h, d]
    rfl
  · rw [h, d]
    rfl

theorem State.supplyCommands_startRed (h : s.mode.mode = .startRed) : s.supplyCommands = s.smcClose.ftrToNormal := by
  unfold State.supplyCommands
  rw [h]

/-! ### What the entry of a mode leaves alone -/

theorem Spares.leaveRunning (s : State) : Spares ∅ s s.leaveRunning := by
  have drop : ∀ (g : Group) (t : State), Spares ∅ t (t.dropGaining g) := fun g t =>
    { green := fun d _ => by
        unfold State.dropGaining
        rw [State.mark_groups, t.updGroup_get]
        split <;> rfl }
  have left : ∀ t : State, Spares ∅ t t.engineLeft := fun t => by
    have dropped : Spares ∅ t (t.each (allGroups.filter fun g => (t.groups[g]).pendingGreen) fun g u => u.dropGaining g) :=
      .each (fun g _ u => drop g u) t
    unfold State.engineLeft
    dsimp only
    generalize (t.each (allGroups.filter fun g => (t.groups[g]).pendingGreen) fun g u => u.dropGaining g) = v at dropped ⊢
    exact dropped.trans {}
  rw [s.leaveRunning_eq]
  exact .of (left _) (.ite (.refl _ s) {})

theorem Spares.modeSet (s : State) (m : Mode) : Spares ∅ s (s.modeSet m) := by
  unfold State.modeSet
  dsimp only
  have left : Spares ∅ s (if s.mode.mode = .running then s.leaveRunning else s) := .ite (.leaveRunning s) (.refl _ s)
  generalize (if s.mode.mode = .running then s.leaveRunning else s) = t at left ⊢
  exact left.trans {}

theorem Spares.setAspects (s : State) : Spares ∅ s s.setAspects := by
  have get : ∀ g : Group, (s.setAspects.groups[g]).greenUnavailable = (s.groups[g]).greenUnavailable := fun g => by
    rw [State.setAspects_get]
    split <;> rfl
  have e : s.setAspects = { s with groups := s.setAspects.groups, ev := s.setAspects.ev } := by
    unfold State.setAspects
    rfl
  generalize s.setAspects.groups = v, s.setAspects.ev = x at get e
  rw [e]
  exact { green := fun g _ => get g }

theorem Spares.clearGreens (s : State) : Spares ∅ s s.clearGreens where
  green := fun g _ => by rw [State.clearGreens_get]

/-- The conditions, all of them. -/
def allConds : Set Item := {i | ∃ k, i = .cond k}

theorem PlanOnly.spares (h : PlanOnly s t) : Spares allConds s t := by
  unfold PlanOnly at h
  generalize t.inUse = a, t.pendingSet = b, t.engine = d, t.faults = e, t.link = f at h
  rw [h]
  exact { cond := fun k n => (n ⟨k, rfl⟩).elim }

theorem Spares.adoptPending (s : State) : Spares allConds s s.adoptPending := by
  unfold State.adoptPending
  split
  · exact .refl _ s
  · exact .of (Spares.notify _ _).any (PlanOnly.adoptSet s _).spares

/-- What follows the commands at the entry of a mode touches no item, but for the conditions that the adoption of a pending set ends. -/
theorem Spares.modeReported {m : Mode} (s : State)
    (h : m = .unconfigured ∨ m = .standby ∨ m = .failsafe → allConds ⊆ X) : Spares X (s.modeCommanded m) (s.enterMode m) := by
  have posted : Spares ∅ (s.modeCommanded m) (s.modePosted m) :=
    .ite (.of (.clearGreens _) (.setAspects _)) (.setAspects _)
  have adopt : ∀ t : State, Spares X t (if m = .unconfigured ∨ m = .standby ∨ m = .failsafe then t.adoptPending else t) := by
    intro t
    split
    · next o => exact (Spares.adoptPending t).mono (h o)
    · exact .refl X t
  have learn : ∀ t : State, Spares X t (if learnEnds m none then t.learnEnd .abandoned else t) :=
    fun t => .ite (Spares.learnEnd t _).any (.refl X t)
  rw [s.enterMode_eq]
  exact .of (Spares.mark _).any <| .of (learn _) <| .of (adopt _) <| .of (Spares.notify _ _).any posted.any

/-- The state in which the supply commands of a mode's entry are given. -/
def State.modeReady (s : State) (m : Mode) : State :=
  let s := s.modeSet m
  let s := if m = .failsafe ∨ m = .mainsOut then s.releaseAll else s
  if m = .startFlash then s.resetFailed else s

theorem State.modeReady_mode (s : State) (m : Mode) :
    (s.modeReady m).mode.mode = m ∧ (s.modeReady m).mode.style = s.mode.style := by
  have release : ∀ t : State, SameMode t (if m = .failsafe ∨ m = .mainsOut then t.releaseAll else t) :=
    fun t => .ite (Quiet.releaseAll t).sameMode (.refl t)
  have reset : ∀ t : State, SameMode t (if m = .startFlash then t.resetFailed else t) :=
    fun t => .ite (Quiet.resetFailed t).sameMode (.refl t)
  have same : SameMode (s.modeSet m) (s.modeReady m) := .of (reset _) (release _)
  obtain ⟨b, e⟩ := same
  rw [e, (s.modeSet_spec m).1]
  exact ⟨rfl, rfl⟩

/-- Everything but the supply relays. -/
def notSupply : Set Item := {i | i ≠ .smc ∧ i ≠ .ftr}

theorem resetItems_subset_notSupply (c : Chan) : resetItems c ⊆ notSupply := by
  rintro i (rfl | rfl | rfl | rfl) <;> simp [notSupply]

theorem groupConds_subset_notSupply : groupConds ⊆ notSupply := by
  rintro i ⟨j, x, rfl⟩
  simp [notSupply]

theorem Spares.resetRelays_notSupply (s : State) : Spares notSupply s s.resetRelays := by
  have welded : ∀ b, ({.relay b, .dark b, .cond (weldedOf b)} : Set Item) ⊆ notSupply := fun b => by
    rintro i (rfl | rfl | rfl) <;> simp [notSupply]
  exact .of (.each (fun b _ t => (Spares.uncommanded b t).mono (welded b)) _) <|
    .of ((Spares.judgeMonitor _).mono groupConds_subset_notSupply) <|
    .each (fun b _ t => (Spares.resetRelay b t).mono (resetItems_subset_notSupply b)) s

/-- Before its supply commands the entry of a mode leaves supply relays that have not failed as they were. -/
theorem Spares.modeReady {m : Mode} (hs : s.smc.state ≠ .failed) (hf : s.ftr.state ≠ .failed) :
    Spares notSupply s (s.modeReady m) := by
  have release : ∀ t : State, Spares notSupply t (if m = .failsafe ∨ m = .mainsOut then t.releaseAll else t) :=
    fun t => .ite (.each (fun c _ u => (Spares.release u c).mono fun i e => by rw [e]; simp [notSupply]) t) (.refl _ t)
  have before : Spares notSupply s _ := (Spares.modeSet s m).any.trans (release _)
  unfold State.modeReady
  dsimp only
  generalize (if m = .failsafe ∨ m = .mainsOut then (s.modeSet m).releaseAll else s.modeSet m) = t at before ⊢
  have relays := before.trans (.resetRelays_notSupply t)
  refine .ite ?_ before
  have smc : t.resetRelays.smc.state ≠ .failed := by rw [relays.smc (by simp [notSupply])]; exact hs
  have ftr : t.resetRelays.ftr.state ≠ .failed := by rw [relays.ftr (by simp [notSupply])]; exact hf
  unfold State.resetFailed
  rw [State.resetSmc_not smc, State.resetFtr_not ftr]
  exact relays.trans ((Spares.judgeMonitor _).mono groupConds_subset_notSupply)

/-! ### The entry of a mode, clause by clause -/

theorem State.enterMode_smc_open {m : Mode} (hs : s.smc.state ≠ .failed) (hf : s.ftr.state ≠ .failed)
    (h : m = .unconfigured ∨ m = .mainsOut ∨ (m = .standby ∧ s.work.junction.standbyDisplay = .dark)
      ∨ (m = .failsafe ∧ s.mode.style = .dark)) : (s.enterMode m).smc = s.smcOpen.smc := by
  have ready := Spares.modeReady (m := m) hs hf
  obtain ⟨mode, style⟩ := s.modeReady_mode m
  have commands : s.modeCommanded m = (s.modeReady m).smcOpen.ftrToFlash := by
    refine (show _ = (s.modeReady m).supplyCommands from rfl).trans (State.supplyCommands_open ?_)
    rw [mode, style, ready.work]
    exact h
  rw [(Spares.modeReported (X := allConds) s fun _ => Set.Subset.refl _).smc (by simp [allConds]), commands,
    State.ftrToFlash_smc (.inr fun f => hf ?_),
    State.smcOpen_congr (ready.smc (by simp [notSupply])) ready.now ready.work]
  rw [← ready.ftr (by simp [notSupply]), ← (Spares.smcOpen _).ftr (by simp)]
  exact f.1

theorem State.enterMode_smc_close {m : Mode} (hs : s.smc.state ≠ .failed) (hf : s.ftr.state ≠ .failed)
    (h : m = .startFlash ∨ m = .startRed ∨ m = .partFlash ∨ (m = .standby ∧ s.work.junction.standbyDisplay = .flash)
      ∨ (m = .failsafe ∧ s.mode.style = .flash)) : (s.enterMode m).smc = s.smcClose.smc := by
  have ready := Spares.modeReady (m := m) hs hf
  obtain ⟨mode, style⟩ := s.modeReady_mode m
  have closed := State.smcClose_congr (ready.smc (by simp [notSupply])) ready.now ready.work
  rw [(Spares.modeReported (X := allConds) s fun _ => Set.Subset.refl _).smc (by simp [allConds]),
    show s.modeCommanded m = (s.modeReady m).supplyCommands from rfl]
  by_cases r : m = .startRed
  · rw [State.supplyCommands_startRed (mode.trans r), (Spares.ftrToNormal _).smc (by simp), closed]
  · rw [State.supplyCommands_close (by rw [mode, style, ready.work]; tauto), State.ftrToFlash_smc (.inr fun f => hf ?_), closed]
    rw [← ready.ftr (by simp [notSupply]), ← (Spares.smcClose _).ftr (by simp)]
    exact f.1

theorem State.enterMode_ftr {m : Mode} (h : m ≠ .running) (k : m ≠ .shutdown) (hs : s.smc.state ≠ .failed)
    (hf : s.ftr.state ≠ .failed) : (s.enterMode m).ftr = if m = .startRed then s.ftrToNormal.ftr else s.ftrToFlash.ftr := by
  have ready := Spares.modeReady (m := m) hs hf
  obtain ⟨mode, style⟩ := s.modeReady_mode m
  have ftr := ready.ftr (by simp [notSupply])
  have now := ready.now
  have work := ready.work
  rw [(Spares.modeReported (X := allConds) s fun _ => Set.Subset.refl _).ftr (by simp [allConds]),
    show s.modeCommanded m = (s.modeReady m).supplyCommands from rfl]
  generalize s.modeReady m = t at mode style ftr now work
  have opened := Spares.smcOpen t
  have closed := Spares.smcClose t
  split
  · next r =>
    rw [State.supplyCommands_startRed (mode.trans r)]
    exact State.ftrToNormal_congr ((closed.ftr (by simp)).trans ftr) (closed.now.trans now) (closed.work.trans work)
  · next r =>
    have flashed : t.supplyCommands = t.smcOpen.ftrToFlash ∨ t.supplyCommands = t.smcClose.ftrToFlash := by
      cases m with
      | unconfigured => exact .inl (State.supplyCommands_open (.inl mode))
      | mainsOut => exact .inl (State.supplyCommands_open (.inr (.inl mode)))
      | startFlash => exact .inr (State.supplyCommands_close (.inl mode))
      | partFlash => exact .inr (State.supplyCommands_close (.inr (.inl mode)))
      | standby =>
        cases d : t.work.junction.standbyDisplay with
        | dark => exact .inl (State.supplyCommands_open (.inr (.inr (.inl ⟨mode, d⟩))))
        | flash => exact .inr (State.supplyCommands_close (.inr (.inr (.inl ⟨mode, d⟩))))
      | failsafe =>
        cases d : t.mode.style with
        | dark => exact .inl (State.supplyCommands_open (.inr (.inr (.inr ⟨mode, d⟩))))
        | flash => exact .inr (State.supplyCommands_close (.inr (.inr (.inr ⟨mode, d⟩))))
      | startRed => exact (r rfl).elim
      | running => exact (h rfl).elim
      | shutdown => exact (k rfl).elim
    rcases flashed with e | e
    · rw [e]
      exact State.ftrToFlash_congr ((opened.ftr (by simp)).trans ftr) (opened.now.trans now) (opened.work.trans work) hf
    · rw [e]
      exact State.ftrToFlash_congr ((closed.ftr (by simp)).trans ftr) (closed.now.trans now) (closed.work.trans work) hf

/-- At entry to FAILSAFE and MAINS_OUT every load relay is sent a release command (R94). -/
theorem State.enterMode_released {m : Mode} (h : m = .failsafe ∨ m = .mainsOut) (c : Chan) :
    (s.enterMode m).relays[c] = (s.release c).relays[c] := by
  have set := Spares.modeSet s m
  obtain ⟨u, before, after⟩ := Spares.each_at (f := fun c t => t.release c) (Z := fun c => {.relay c})
    (fun c t => Spares.release t c) (List.nodup_finRange 48) (List.mem_finRange c) (s.modeSet m)
  have out : Item.relay c ∉ {i | ∃ b, b ≠ c ∧ i ∈ ({.relay b} : Set Item)} := by
    rintro ⟨b, n, e⟩
    exact n (Item.relay.inj e).symm
  have e : s.modeCommanded m = (s.modeSet m).releaseAll.supplyCommands := by
    unfold State.modeCommanded
    dsimp only
    rw [if_pos h, if_neg (by rcases h with rfl | rfl <;> simp)]
  have supply : ∀ t : State, t.supplyCommands.relays[c] = t.relays[c] := by
    have opened : ∀ t : State, t.smcOpen.ftrToFlash.relays[c] = t.relays[c] := fun t =>
      ((Spares.ftrToFlash _).relay c (by simp)).trans ((Spares.smcOpen t).relay c (by simp))
    have closed : ∀ t : State, t.smcClose.ftrToFlash.relays[c] = t.relays[c] := fun t =>
      (Spares.suppliesCommanded t).relay c (by simp)
    have normal : ∀ t : State, t.smcClose.ftrToNormal.relays[c] = t.relays[c] := fun t =>
      ((Spares.ftrToNormal _).relay c (by simp)).trans ((Spares.smcClose t).relay c (by simp))
    intro t
    unfold State.supplyCommands
    dsimp only
    split
    · exact opened t
    · exact opened t
    · split
      · exact opened t
      · exact closed t
    · exact closed t
    · exact closed t
    · exact normal t
    · exact normal t
    · exact normal t
    · split
      · exact opened t
      · exact closed t
  have after : (s.modeSet m).releaseAll.relays[c] = (u.release c).relays[c] := after.relay c out
  rw [(Spares.modeReported (X := allConds) s fun _ => Set.Subset.refl _).relay c (by simp [allConds]), e, supply, after,
    State.release_get, State.release_get, before.relay c out, before.now, before.work, set.relay c (by simp), set.now,
    set.work]

/-! ### The entry of START_FLASH -/

theorem State.modeCommanded_startFlash (s : State) :
    s.modeCommanded .startFlash = (s.modeSet .startFlash).resetRelays.suppliesReset := by
  have ready : s.modeReady .startFlash = (s.modeSet .startFlash).resetFailed := by
    unfold State.modeReady
    dsimp only
    rw [if_pos rfl, if_neg (by simp)]
  rw [show s.modeCommanded .startFlash = (s.modeReady .startFlash).supplyCommands from rfl,
    State.supplyCommands_close (.inl (s.modeReady_mode .startFlash).1), ready]
  unfold State.suppliesReset State.resetFailed
  rfl

/-- What follows the reset of the load relays at entry to START_FLASH concerns the supply relays and the output monitor. -/
theorem Spares.afterResets (s : State) : Spares (groupConds ∪ supplyItems) (s.modeSet .startFlash).resetRelays
    (s.enterMode .startFlash) := by
  have commanded := Spares.suppliesReset (s.modeSet .startFlash).resetRelays
  rw [← s.modeCommanded_startFlash] at commanded
  exact commanded.trans (.modeReported s (by simp))

theorem State.resets_congr (h : Spares ∅ s t) (c : Chan) : t.resets c = s.resets c := by
  unfold State.resets
  rw [h.relay c (Set.notMem_empty _), h.line]

/-- What the entry of START_FLASH makes of a channel. -/
theorem State.enterFlash_at (s : State) (c : Chan) :
    (¬ s.resets c = true → Spares (besideChan c) s (s.enterMode .startFlash))
    ∧ (s.resets c = true → ∃ t, Spares (besideChan c) s t
      ∧ ((s.relays[c]).proof = false → Spares (besideChan c) (t.resetRelay c) (s.enterMode .startFlash))
      ∧ ((s.relays[c]).proof = true → ∃ v, Spares (besideChan c) (t.resetRelay c) v
        ∧ Spares (besideChan c) (v.uncommanded c) (s.enterMode .startFlash))) := by
  have set := Spares.modeSet s .startFlash
  have resets := State.resets_congr set c
  have relay := set.relay c (Set.notMem_empty _)
  have sub : groupConds ∪ supplyItems ⊆ besideChan c := Set.union_subset
    (Set.subset_union_right.trans Set.subset_union_left) Set.subset_union_right
  have after := (Spares.afterResets s).mono sub
  generalize s.modeSet .startFlash = w at set resets relay after
  refine ⟨fun n => ?_, fun r => ?_⟩
  · exact set.any.trans ((Spares.resetRelays_of_not (by rw [resets]; exact n)).trans after)
  · obtain ⟨t, before, good, bad⟩ := State.resetRelays_at (resets.trans r)
    rw [relay] at good bad
    refine ⟨t, set.any.trans before, fun p => (good p).trans after, fun p => ?_⟩
    obtain ⟨v, early, late⟩ := bad p
    exact ⟨v, early, late.trans after⟩

/-- A condition on a core stands through the entry of START_FLASH with its records. -/
theorem State.enterFlash_core (s : State) (k : CoreId) (x : Kind) :
    s.faults.Leave ⟨.core k, x⟩ (s.enterMode .startFlash).faults := by
  have set := Spares.modeSet s .startFlash
  have after := Spares.afterResets s
  have group : Item.cond ⟨.core k, x⟩ ∉ groupConds := fun ⟨_, _, e⟩ => (nomatch e)
  have relays : ∀ w : State, w.faults.Leave ⟨.core k, x⟩ w.resetRelays.faults := by
    have judged : ∀ t : State, Spares (groupConds ∪ {i | ∃ b, i ∈ resetItems b}) t t.judgeMonitor := fun t =>
      (Spares.judgeMonitor t).mono Set.subset_union_left
    have reset : ∀ (l : List Chan) (t : State), Spares (groupConds ∪ {i | ∃ b, i ∈ resetItems b}) t
        (t.each l fun c t => t.resetRelay c) :=
      fun l => Spares.each fun b _ t => (Spares.resetRelay b t).mono fun i m => .inr ⟨b, m⟩
    have welded : ∀ (l : List Chan) (t : State), Spares (groupConds ∪ {i | ∃ b, i ∈ resetItems b}) t
        (t.each l fun c t => t.uncommanded c) :=
      fun l => Spares.each fun b _ t => (Spares.uncommanded b t).mono fun i m => .inr ⟨b, by
        rcases m with rfl | rfl | rfl <;> simp [resetItems]⟩
    intro w
    refine Spares.cond (X := groupConds ∪ {i | ∃ b, i ∈ resetItems b})
      (.of (welded _ _) <| .of (judged _) (reset _ w)) _ ?_
    rintro (m | ⟨b, m⟩)
    · exact group m
    · simp [resetItems, noOperateOf, weldedOf] at m
  refine ((set.cond _ (Set.notMem_empty _)).trans (relays _)).trans (after.cond _ ?_)
  rintro (m | m | m | ⟨_, _, e⟩)
  · exact group m
  · cases m
  · cases m
  · cases e

end Sys2Proof.Machine

namespace Sys2Proof.Machine

variable {s : State}

/-- What the entry of START_FLASH makes of a failed load relay that is reset (R94). -/
theorem State.enterFlash_reset {c : Chan} (h : s.resets c = true) :
    let u := s.enterMode .startFlash
    noOperateOf c ∉ u.faults.confirmed
      ∧ ((s.relays[c]).proof = false → u.relays[c] = (s.relays[c]).resetAt s.now ∧ weldedOf c ∉ u.faults.confirmed
        ∧ (∀ x, x = noOperateOf c ∨ x = weldedOf c → x ∈ s.faults.confirmed →
            ∀ a ∈ u.faults.alarms, a.key = x → a.active = false)
        ∧ (s.work.used c = true → (u.lamps[c]).dark = some (s.now + 500)))
      ∧ ((s.relays[c]).proof = true → u.relays[c] = (s.relays[c]).welded ∧ weldedOf c ∈ u.faults.confirmed)
      ∧ ∀ g : Group, c = chanOf g 2 → (s.relays[c]).state = .failedOpen → (u.groups[g]).greenUnavailable = false := by
  dsimp only
  obtain ⟨t, before, good, bad⟩ := (s.enterFlash_at c).2 h
  cases p : (s.relays[c]).proof with
  | false =>
    obtain ⟨relay, no, welded, cleared, dark, green⟩ := State.resetRelay_beside before (good p)
    exact ⟨no, fun _ => ⟨relay, welded, cleared, dark⟩, fun q => Bool.noConfusion q, green⟩
  | true =>
    obtain ⟨v, early, late⟩ := bad p
    obtain ⟨relay, no, -, -, -, green⟩ := State.resetRelay_beside before early
    obtain ⟨relay', welded, no', green'⟩ := State.uncommanded_beside (.refl _ v) late
    have state : ∀ (r q : Relay) (e : Nat), r = q.resetAt e → r.state ≠ .failedOpen := by
      rintro r q e rfl
      simp [Relay.resetAt]
    refine ⟨no' no, fun q => Bool.noConfusion q, fun _ => ⟨?_, welded⟩, fun g e o => ?_⟩
    · rw [relay', relay]
      rfl
    · rw [green' g e (state _ _ _ relay)]
      exact green g e o

/-- The supply relays stand before their resets as they stood before the entry of START_FLASH, and after them as the entry leaves them. -/
theorem State.enterFlash_supplies (s : State) : ∃ t : State,
    (t.smc = s.smc ∧ t.ftr = s.ftr ∧ t.now = s.now ∧ t.work = s.work)
      ∧ Spares ∅ t.suppliesReset (s.enterMode .startFlash) := by
  have reported := Spares.modeReported (X := ∅) (m := .startFlash) s (by simp)
  rw [s.modeCommanded_startFlash] at reported
  have relays := (Spares.modeSet s .startFlash).any.trans (Spares.resetRelays_notSupply _)
  exact ⟨_, ⟨relays.smc fun n => n.1 rfl, relays.ftr fun n => n.2 rfl, relays.now, relays.work⟩, reported⟩

theorem State.enterFlash_smc (h : s.smc.state = .failed) :
    let u := s.enterMode .startFlash
    smcNoOperate ∉ u.faults.confirmed
      ∧ (s.smc.proof = false → ¬ s.FtrStuck → u.smc = s.smc.closing (s.now + s.work.smc.operate)
          ∧ smcCut ∉ u.faults.confirmed)
      ∧ (s.smc.proof = true → u.smc = { s.smc with
            state := .failed, coil := false, held := false, opTimer := none, relTimer := none }
          ∧ smcCut ∈ u.faults.confirmed) := by
  obtain ⟨t, ⟨smc, ftr, now, work⟩, after⟩ := s.enterFlash_supplies
  have spec := State.suppliesReset_smc (s := t) (by rw [smc]; exact h)
  unfold State.FtrStuck at spec ⊢
  rw [smc, ftr, now, work] at spec
  have mem := fun k => (after.cond k (Set.notMem_empty _)).confirmed
  dsimp only
  rw [mem, mem, after.smc (Set.notMem_empty _)]
  exact spec

theorem State.enterFlash_ftr (h : s.ftr.state = .failed) :
    let u := s.enterMode .startFlash
    ftrNoOperate ∉ u.faults.confirmed
      ∧ (s.ftr.proof = false → u.ftr = { s.ftr with state := .rest, coil := false }
          ∧ ftrWeldedCond ∉ u.faults.confirmed)
      ∧ (s.ftr.proof = true → u.ftr = { s.ftr with
            state := .failed, coil := false, held := false, opTimer := none, relTimer := none }
          ∧ ftrWeldedCond ∈ u.faults.confirmed) := by
  obtain ⟨t, ⟨-, ftr, -⟩, after⟩ := s.enterFlash_supplies
  have spec := State.suppliesReset_ftr (s := t) (by rw [ftr]; exact h)
  rw [ftr] at spec
  have mem := fun k => (after.cond k (Set.notMem_empty _)).confirmed
  dsimp only
  rw [mem, mem, after.ftr (Set.notMem_empty _)]
  exact spec

/-- Settles O46: the mode and its timer, the supply relays of Table 10-2, the load relays released or reset, and the aspects of Table 1-5. -/
theorem modeEntry : Obligations.ModeEntry := by
  intro s m run shut
  obtain ⟨b, mode⟩ := s.enterMode_mode m
  refine ⟨by rw [mode], by rw [mode], ?_, fun hs hf => ⟨State.enterMode_smc_open hs hf, State.enterMode_smc_close hs hf,
    State.enterMode_ftr run shut hs hf⟩, fun o c => ⟨State.enterMode_released o c, fun e => ?_⟩, ?_, fun g => ?_⟩
  · rw [mode]
    unfold State.entryTimer tenths
    cases m <;> rfl
  · rw [State.enterMode_released o, State.release_get]
    unfold Relay.releasedAt
    rcases e with e | e <;> rw [e]
  · rintro rfl
    refine ⟨fun c => ⟨fun o => ?_, fun f n => ?_⟩, fun k m => ?_, fun f => ?_, fun f => ?_⟩
    · have n : ¬ s.resets c = true := fun r => by
        obtain ⟨a, b⟩ := State.resets_iff.mp r
        exact o.elim (fun o => o a) b
      exact ((s.enterFlash_at c).1 n).relay c (relay_notMem_beside c)
    · exact State.enterFlash_reset (State.resets_iff.mpr ⟨f, n⟩)
    · have leave := s.enterFlash_core k .matrixFault
      exact ⟨leave.confirmed.mpr m, fun a ma e x => leave.active a ma e x⟩
    · obtain ⟨no, good, bad⟩ := State.enterFlash_smc f
      exact ⟨no, fun p q => good p fun ⟨failed, proof⟩ => Bool.noConfusion ((q failed).symm.trans proof), bad⟩
    · exact State.enterFlash_ftr f
  · obtain ⟨aspect, amber, redAmber, release, pending, -⟩ := s.enterMode_groups run shut g
    exact ⟨aspect, amber, redAmber, release, pending⟩

end Sys2Proof.Machine

/-! SUPPORT. What the blocks make of a start: the modes that a start can come to, the set in use, and the bring-up code (R172, R173). -/

namespace Sys2Proof.Machine

variable {s t u : State}

/-! ### Operations that keep the mode and the plan sets -/

/-- The mode is as it was, and the set in use where none is pending. -/
structure Steady (s t : State) : Prop where
  mode  : SameMode s t
  plans : PlansKept s t

theorem Steady.refl (s : State) : Steady s s := ⟨.refl s, .refl s⟩

theorem Steady.trans (h : Steady s t) (k : Steady t u) : Steady s u := ⟨h.mode.trans k.mode, h.plans.trans k.plans⟩

theorem Steady.of (k : Steady t u) (h : Steady s t) : Steady s u := h.trans k

theorem Steady.ofEq (m : t.mode = s.mode) (h : t.inUse = s.inUse) (k : t.pendingSet = s.pendingSet) : Steady s t :=
  ⟨.ofEq m, .ofEq h k⟩

theorem Quiet.steady (h : Quiet s t) : Steady s t := ⟨h.sameMode, h.plansKept⟩

theorem Steady.ite {p : Prop} [Decidable p] (h : Steady s t) (k : Steady s u) : Steady s (if p then t else u) := by
  split <;> assumption

theorem Steady.each {α : Type} {f : α → State → State} (h : ∀ a t, Steady t (f a t)) (l : List α) (s : State) :
    Steady s (s.each l f) :=
  State.each_induct (P := Steady s) l s (.refl s) fun a _ t k => k.trans (h a t)

theorem Steady.endIfGreen (g : Group) (s : State) : Steady s (State.endIfGreen g s) := by
  unfold State.endIfGreen
  split
  · obtain ⟨f, e, -⟩ := s.endGreen_spec g
    rw [e]
    exact .ofEq rfl rfl rfl
  · exact .refl s

theorem Steady.endGreen (s : State) (g : Group) : Steady s (s.endGreen g) := by
  obtain ⟨f, e, -⟩ := s.endGreen_spec g
  rw [e]
  exact .ofEq rfl rfl rfl

theorem Steady.dropGaining (s : State) (g : Group) : Steady s (s.dropGaining g) := .ofEq rfl rfl rfl

theorem Steady.dropIfInhibited (g : Group) (s : State) : Steady s (State.dropIfInhibited g s) := by
  unfold State.dropIfInhibited
  exact .ite (.refl s) (.ite (.of (.dropGaining _ g) (.endIfGreen g s)) (.endIfGreen g s))

theorem Steady.advanceGroup (s : State) (g : Group) : Steady s (s.advanceGroup g) := by
  obtain e | ⟨-, -, -, -, e⟩ | ⟨-, -, -, e⟩ := s.advanceGroup_cases g <;> rw [e]
  · exact .refl s
  · exact .ofEq rfl rfl rfl
  · exact .ofEq rfl rfl rfl

theorem Steady.closed (s : State) : EngineClosed (Steady s) where
  adjust := fun k h => h.trans (.ofEq k.mode k.inUse k.set)
  plans := fun k l h => h.trans ⟨k.sameMode, l⟩
  endGreen := fun d h => h.trans (.endGreen _ d)
  dropIfInhibited := fun d h => h.trans (.dropIfInhibited d _)
  advanceGroup := fun d h => h.trans (.advanceGroup _ d)
  wait := fun _ _ _ h => h.trans (.ofEq rfl rfl rfl)

theorem Steady.engineWork (s : State) : Steady s s.engineWork := (Steady.closed s).engineWork (.refl s)

theorem Steady.enterDemand (s : State) (st : Fin 16) : Steady s (s.enterDemand st) := by
  unfold State.enterDemand
  exact .ite (.refl s) (.ofEq rfl rfl rfl)

theorem Steady.leftForce (s : State) (st : Nat) : Steady s (s.leftForce st) := by
  unfold State.leftForce
  split
  · exact .refl s
  · exact .ite (.enterDemand s _) (.refl s)

theorem Steady.passLeftForce (s : State) : Steady s s.passLeftForce := by
  have cleared : Steady s { s with ev := { s.ev with leftForce := [] } } := .ofEq rfl rfl rfl
  exact .of (.each (fun st t => .leftForce t st) _ _) cleared

theorem Steady.commandGroup (s : State) (g : Group) : Steady s (s.commandGroup g) := by
  have noted : Steady s { s with handed := s.handed.set g (s.groups[g]).aspect } := .ofEq rfl rfl rfl
  unfold State.commandGroup
  dsimp only
  refine .ite (.refl s) (.of (.each (fun k t => ?_) _ _) noted)
  exact .ite (.refl t) (.ite (Quiet.operate t _).steady (Quiet.release t _).steady)

theorem Steady.commandAspects (s : State) : Steady s s.commandAspects := by
  unfold State.commandAspects
  exact .each (fun g t => .ite (.refl t) (.of (Quiet.wantSelection _).steady (.commandGroup t g))) _ s

/-! ### The modes of a start -/

/-- The modes in which a start may stand: its start mode, the START_FLASH of an auto-start, and FAILSAFE. -/
def Mode.opening (m : Mode) : Prop := m = .unconfigured ∨ m = .standby ∨ m = .failsafe ∨ m = .startFlash

/-- From s, in a mode of a start, to t: in one too, with the bring-up code and the plan sets as they were; UNCONFIGURED and FAILSAFE are not left, nor is the cause changed in them. -/
structure Opens (s t : State) : Prop where
  mode    : t.mode.mode.opening
  bringUp : t.mode.bringUp = s.mode.bringUp
  plans   : PlansKept s t
  stays   : s.mode.mode = .unconfigured ∨ s.mode.mode = .failsafe →
    t.mode.mode = s.mode.mode ∧ t.mode.cause = s.mode.cause

/-- What an operation makes of a state in a mode of a start. -/
def Opening (s t : State) : Prop := s.mode.mode.opening → Opens s t

theorem Steady.opening (h : Steady s t) : Opening s t := fun o => by
  obtain ⟨⟨b, e⟩, p⟩ := h
  exact ⟨by rw [e]; exact o, by rw [e], p, fun _ => by rw [e]; exact ⟨rfl, rfl⟩⟩

theorem Quiet.opening (h : Quiet s t) : Opening s t := h.steady.opening

theorem Opening.refl (s : State) : Opening s s := (Steady.refl s).opening

theorem Opening.trans (h : Opening s t) (k : Opening t u) : Opening s u := fun o => by
  obtain ⟨mode, bringUp, plans, stays⟩ := h o
  obtain ⟨mode', bringUp', plans', stays'⟩ := k mode
  refine ⟨mode', bringUp'.trans bringUp, plans.trans plans', fun n => ?_⟩
  obtain ⟨a, b⟩ := stays n
  obtain ⟨a', b'⟩ := stays' (a ▸ n)
  exact ⟨a'.trans a, b'.trans b⟩

theorem Opening.of (k : Opening t u) (h : Opening s t) : Opening s u := h.trans k

theorem Opening.ite {p : Prop} [Decidable p] (h : Opening s t) (k : Opening s u) : Opening s (if p then t else u) := by
  split <;> assumption

theorem Opening.each {α : Type} {f : α → State → State} (h : ∀ a t, Opening t (f a t)) (l : List α) (s : State) :
    Opening s (s.each l f) :=
  State.each_induct (P := Opening s) l s (.refl s) fun a _ t k => k.trans (h a t)

theorem Steady.setAspects (s : State) : Steady s s.setAspects := by
  have e : s.setAspects = { s with groups := s.setAspects.groups, ev := s.setAspects.ev } := by
    unfold State.setAspects
    rfl
  generalize s.setAspects.groups = v, s.setAspects.ev = x at e
  rw [e]
  exact .ofEq rfl rfl rfl

theorem PlansKept.clearGreens (s : State) : PlansKept s s.clearGreens := by
  have e : s.clearGreens = { s with groups := s.clearGreens.groups, monitor := s.clearGreens.monitor } := by
    unfold State.clearGreens
    rfl
  generalize s.clearGreens.groups = v, s.clearGreens.monitor = x at e
  rw [e]
  exact .ofEq rfl rfl

/-- Outside RUNNING the entry of a mode keeps the set in use where none is pending. -/
theorem PlansKept.enterMode {m : Mode} (h : s.mode.mode ≠ .running) : PlansKept s (s.enterMode m) := by
  have set : PlansKept s (s.modeSet m) := by
    unfold State.modeSet
    dsimp only
    rw [if_neg h]
    exact .ofEq rfl rfl
  have release : ∀ t : State, PlansKept t (if m = .failsafe ∨ m = .mainsOut then t.releaseAll else t) := fun t => by
    split
    · exact (Quiet.releaseAll t).plansKept
    · exact .refl t
  have reset : ∀ t : State, PlansKept t (if m = .startFlash then t.resetFailed else t) := fun t => by
    split
    · exact (Quiet.resetFailed t).plansKept
    · exact .refl t
  have commanded : PlansKept s (s.modeCommanded m) :=
    .of (Quiet.supplyCommands _).plansKept <| .of (reset _) <| .of (release _) set
  have posted : PlansKept s (s.modePosted m) := by
    unfold State.modePosted
    split
    · exact .of (.clearGreens _) <| .of (Steady.setAspects _).plans commanded
    · exact .of (Steady.setAspects _).plans commanded
  have adopt : ∀ t : State, PlansKept t (if m = .unconfigured ∨ m = .standby ∨ m = .failsafe then t.adoptPending else t) := by
    intro t
    split
    · unfold State.adoptPending
      split
      · exact .refl t
      · next h =>
        intro n
        rw [n] at h
        cases h
    · exact .refl t
  have learn : ∀ t : State, PlansKept t (if learnEnds m none then t.learnEnd .abandoned else t) := fun t => by
    split
    · exact (Quiet.learnEnd t _).plansKept
    · exact .refl t
  rw [s.enterMode_eq]
  exact .of (Quiet.mark _).plansKept <| .of (learn _) <| .of (adopt _) <| .of (Quiet.notify _ _).plansKept posted

theorem Mode.opening.ne_running {m : Mode} (h : m.opening) : m ≠ .running := by
  rcases h with rfl | rfl | rfl | rfl <;> simp

/-- A mode other than UNCONFIGURED and FAILSAFE is left for one of a start. -/
theorem Opening.enterMode {m : Mode} (h : m.opening) (n : s.mode.mode ≠ .unconfigured) (k : s.mode.mode ≠ .failsafe) :
    Opening s (s.enterMode m) := fun o => by
  obtain ⟨b, e⟩ := s.enterMode_mode m
  exact ⟨by rw [e]; exact h, by rw [e], .enterMode o.ne_running, fun x => (x.elim n k).elim⟩

theorem Opening.enterFailsafe (s : State) (c : Cause) (dark : Bool) : Opening s (s.enterFailsafe c dark) := by
  have entry : ∀ t : State, Opening t t.failsafeEntry := fun t => (Quiet.observe t _).opening
  unfold State.enterFailsafe
  split
  · exact .refl s
  · next n =>
    split
    · next f =>
      dsimp only
      refine .ite ?_ (entry s)
      refine .of (Quiet.mark _).opening <| .of (Quiet.smcOpen _).opening <| .of (Steady.setAspects _).opening ?_
      refine (entry s).trans fun o => ⟨o, rfl, .ofEq rfl rfl, fun _ => ⟨rfl, rfl⟩⟩
    · next f =>
      refine .of (entry _) ?_
      have styled : ∀ c : Cause, ∀ d : Display, Opening s { s with mode := { s.mode with cause := c, style := d } } :=
        fun c d o => ⟨o, rfl, .ofEq rfl rfl, fun x => (x.elim n f).elim⟩
      exact (styled _ _).trans (.enterMode (.inr (.inr (.inl rfl))) n f)

theorem Opening.enterStartFlash (h : s.mode.mode = .standby) : Opening s s.enterStartFlash := by
  unfold State.enterStartFlash
  exact .ite (.enterFailsafe s _ _) (.enterMode (.inr (.inr (.inr rfl))) (by rw [h]; simp) (by rw [h]; simp))

/-! ### The blocks' work in a start -/

theorem Opening.modeRequest (s : State) (r : ModeReq) : Opening s (s.modeRequest r) := by
  have junction : ∀ dark immediate, Opening s (s.junctionRequest dark immediate) := by
    intro dark immediate o
    unfold State.junctionRequest
    split
    · exact Opening.enterFailsafe s _ _ o
    · rcases o with h | h | h | h <;> rw [h]
      · exact Opening.refl s (.inl h)
      · exact Opening.refl s (.inr (.inl h))
      · exact Opening.enterFailsafe s _ _ (.inr (.inr (.inl h)))
      · exact Opening.enterFailsafe s _ _ (.inr (.inr (.inr h)))
  cases r with
  | trip => exact .enterFailsafe s _ _
  | supplyCut => exact .enterFailsafe s _ _
  | junction dark immediate => exact junction dark immediate
  | flash =>
    intro o
    unfold State.modeRequest
    dsimp only
    rw [if_neg o.ne_running]
    exact Opening.refl s o
  | planRequest =>
    intro o
    have n : s.mode.mode ≠ .partFlash := by rcases o with h | h | h | h <;> rw [h] <;> simp
    unfold State.modeRequest
    dsimp only
    rw [if_neg n]
    exact Opening.refl s o

theorem Opening.ofEv (s : State) (x : Ev) : Opening s { s with ev := x } := (Quiet.ofEv s x).opening

theorem Opening.modeWork (s : State) : Opening s s.modeWork :=
  .of (.each (fun r t => .modeRequest t r) _ _) (.ofEv s _)

theorem Opening.startEndRed (s : State) : Opening s s.startEndRed := fun o => by
  have n : s.mode.mode ≠ .shutdown := by rcases o with h | h | h | h <;> rw [h] <;> simp
  have e : s.startEndRed = s := by
    unfold State.startEndRed
    simp [n]
  rw [e]
  exact Opening.refl s o

theorem Opening.settle (n : Nat) (s : State) : Opening s (s.settle n) := by
  induction n generalizing s with
  | zero => exact .refl s
  | succ n ih =>
    unfold State.settle
    refine .ite ?_ (.ite (.refl s) ?_)
    · exact .of (ih _) <| .of (Steady.engineWork _).opening <| .of (.startEndRed _) <| .of (.modeWork _) (.ofEv s _)
    · exact .of (ih _) <| .of (Quiet.mark _).opening (Steady.passLeftForce s).opening

theorem Opening.judged (n : Nat) (s : State) : Opening s (s.judged n) := by
  induction n generalizing s with
  | zero => exact .refl s
  | succ n ih =>
    have settled : Opening s (s.settle 200).judgeMonitor := .of (Quiet.judgeMonitor _).opening (.settle 200 s)
    have failed := settled.trans (Quiet.judgeFailed _).opening
    unfold State.judged
    exact .ite (.of (ih _) settled) (.ite (.of (ih _) failed) failed)

theorem Opening.rounds (n : Nat) (s : State) : Opening s (s.rounds n) := by
  induction n generalizing s with
  | zero => exact .refl s
  | succ n ih =>
    have round : Opening s s.round :=
      .of (Quiet.judgeMonitor _).opening <| .of (Steady.commandAspects _).opening (.judged 8 s)
    unfold State.rounds
    exact .ite (.of (ih _) round) round

theorem Opening.spread (before s : State) : Opening s (before.spread s) := by
  have marked : Opening s (s.mark.rounds 8) := .of (.rounds 8 _) (Quiet.mark s).opening
  have wanted : ∀ t : State, Opening t (if before.selectionCause t then t.wantSelection else t) :=
    fun t => .ite (Quiet.wantSelection t).opening (.refl t)
  exact .of (Quiet.selections _ 3).opening <| .of (wanted _) marked

theorem Opening.autoStart (s : State) : Opening s s.autoStart := by
  unfold State.autoStart
  split
  · next h => exact .of (.spread _ _) (.enterStartFlash h.1)
  · exact .refl s

end Sys2Proof.Machine

/-! SUPPORT. The start event: what its images give, what is carried to its end, and the first frame sent (R172, R173, R182 to R184). -/

namespace Sys2Proof.Machine

variable {s t u : State}

/-! ### Images (R183, R184) -/

theorem bigEndian_length (n x : Nat) : (bigEndian n x).length = n := by
  induction n with
  | zero => rfl
  | succ n ih => exact congrArg (· + 1) ih

/-- The header and the check of an image take a small part of a block. -/
theorem imageOverhead_le : imageOverhead ≤ 25 := by
  have a := Config.headerWidths.1.isLt
  have b := Config.headerWidths.2.1.isLt
  have c := Config.headerWidths.2.2.isLt
  simp only [imageOverhead, imageHeader, List.length_append, bigEndian_length]
  omega

/-- The image that a write leaves is valid: its content is cut to what its blocks hold. -/
theorem Stored.form_valid (k : ImageKind) (g : Nat) (c : ImageContent) : (Stored.form k g c).valid k = true := by
  have fits : imageOverhead + (contentBytes k c).length ≤ k.capacity := by
    have small := imageOverhead_le
    have room : 4096 * 4 ≤ k.capacity := by
      unfold ImageKind.capacity ImageKind.span
      cases k <;> decide
    unfold contentBytes
    rw [List.length_take]
    omega
  unfold Stored.valid Stored.form Stored.check
  simp [fits]

theorem Stored.valid_iff (x : Stored) (k : ImageKind) : x.valid k = true ↔ x.kind = k.code
    ∧ imageOverhead + x.length ≤ k.capacity
    ∧ x.crc = crc32 (imageHeader x.kind x.generation x.length ++ contentBytes k x.content) := by
  unfold Stored.valid Stored.check
  simp [and_assoc]

theorem readImage_valid {k : ImageKind} {x : Stored} (h : x.valid k = true) : readImage true k (some x) = some x := by
  simp [readImage, h]

theorem readImage_invalid {k : ImageKind} {x : Stored} (h : ¬ x.valid k = true) : readImage true k (some x) = none := by
  simp [readImage, h]

/-! ### The checks and the start mode (R172, R173) -/

/-- The bring-up code is that of the first failing check. -/
theorem State.failedChecks_head (s : State) (answers : Bool) : (s.failedChecks answers).head?.getD .ok =
    if referenceOk s.meas.refCount = false then .converterFault
    else if s.power.proofFault = true then .relayProofFault
    else if s.power.lineFault = true then .crosspointProofFault
    else if answers = false then .storeFault else .ok := by
  unfold State.failedChecks
  cases referenceOk s.meas.refCount with
  | false => rfl
  | true =>
    cases s.power.proofFault with
    | true => rfl
    | false =>
      cases s.power.lineFault with
      | true => rfl
      | false => cases answers <;> rfl

theorem startMode_opening (config : Bool) (code : BringUp) : (startMode config code).opening := by
  unfold startMode
  split
  · exact .inl rfl
  · split
    · exact .inr (.inl rfl)
    · exact .inr (.inr (.inl rfl))

/-! ### The images taken and the start mode entered -/

/-- STARTED, as a start queues it. -/
def State.startedNotice (s : State) (answers : Bool) : Notice :=
  let config := (readImage answers .config s.store.nvConfig).isSome
  let code := (s.failedChecks answers).head?.getD .ok
  .started code (startMode config code) config (readImage answers .plans s.store.nvPlans).isSome
    (readImage answers .survey s.store.nvSurvey).isSome (decide (s.power.cause = .restart)) s.clock.valid

/-- The start mode of a start. -/
def State.startsIn (s : State) (answers : Bool) : Mode :=
  startMode (readImage answers .config s.store.nvConfig).isSome ((s.failedChecks answers).head?.getD .ok)

/-- The state of a start up to its notice. -/
def State.startSet (s : State) (answers : Bool) : State :=
  let config := readImage answers .config s.store.nvConfig
  let plans := readImage answers .plans s.store.nvPlans
  let survey := readImage answers .survey s.store.nvSurvey
  let t := { s with power := { s.power with phase := .running } }
  let t := (t.takeImages config plans survey).startTimers
  State.setAspects { t with mode := { ModeCtl.default with
    mode := s.startsIn answers, bringUp := (s.failedChecks answers).head?.getD .ok
    cause := if decide (s.startsIn answers = .failsafe) then .bringUp else .none
    style := if decide (s.startsIn answers = .failsafe) then t.work.junction.failsafeStyle else .flash } }

theorem State.started_eq (s : State) (answers : Bool) :
    s.started answers = (s.startSet answers).notify (s.startedNotice answers) := by
  unfold State.started State.startSet State.startedNotice State.enterStartMode State.startsIn
  rfl

/-- What a start sets. -/
structure State.StartedAs (s : State) (answers : Bool) (t : State) : Prop where
  phase   : t.power.phase = .running
  now     : t.now = s.now
  clock   : t.clock = s.clock
  staging : t.staging = ((plansOf (readImage answers .plans s.store.nvPlans)).getD .empty).dropVoids
  tod     : t.tod = ((configOf (readImage answers .config s.store.nvConfig)).map (·.tod)).getD []
  edit    : t.edit = ((configOf (readImage answers .config s.store.nvConfig)).map (·.settings)).getD .default
  work    : t.work = t.edit

theorem State.startSet_as (s : State) (answers : Bool) : s.StartedAs answers (s.startSet answers) where
  phase := by unfold State.startSet; rw [State.setAspects_power]; rfl
  now := by unfold State.startSet; rw [State.setAspects_now]; rfl
  clock := by unfold State.startSet; rw [State.setAspects_clock]; rfl
  staging := by unfold State.startSet; rw [State.setAspects_staging]; rfl
  tod := by unfold State.startSet; rw [State.setAspects_tod]; rfl
  edit := by unfold State.startSet; rw [State.setAspects_edit]; rfl
  work := by unfold State.startSet; rw [State.setAspects_work, State.setAspects_edit]; rfl

theorem State.startSet_frame (s : State) (answers : Bool) :
    let t := s.startSet answers
    t.inUse = ((plansOf (readImage answers .plans s.store.nvPlans)).getD .empty).dropVoids
      ∧ t.pendingSet = s.pendingSet ∧ t.link = s.link ∧ t.mode.mode = s.startsIn answers
      ∧ t.mode.bringUp = (s.failedChecks answers).head?.getD .ok
      ∧ (s.startsIn answers = .failsafe → t.mode.cause = .bringUp) ∧ t.mode.responseActive = false := by
  unfold State.startSet
  dsimp only
  rw [State.setAspects_inUse, State.setAspects_pendingSet, State.setAspects_link, State.setAspects_mode]
  exact ⟨rfl, rfl, rfl, rfl, rfl, fun h => by simp [h], rfl⟩

theorem State.StartedAs.kept (x : s.StartedAs answers t) (h : Kept t u) : s.StartedAs answers u where
  phase := by rw [h.power]; exact x.phase
  now := h.now.trans x.now
  clock := h.clock.trans x.clock
  staging := h.staging.trans x.staging
  tod := h.tod.trans x.tod
  edit := h.edit.trans x.edit
  work := by rw [h.work, h.edit]; exact x.work

/-! ### The rest of the start event -/

/-- The detector scanner at a start takes the raw inputs, and changes nothing else than its detectors. -/
theorem State.startDetectors_eq (s : State) (raw : Vector Bool 32) :
    ∃ v, s.startDetectors raw = { s with dets := v } ∧ ∀ d : Det, (v[d]).raw = raw[d] := by
  unfold State.startDetectors
  refine State.each_induct (P := fun t => ∃ v, t = { s with dets := v } ∧ ∀ d : Det, (v[d]).raw = raw[d]) _ _
    ⟨_, rfl, fun d => by rw [mapIx_get]⟩ fun d _ t ⟨v, e, r⟩ => ?_
  unfold State.scan
  split
  · exact ⟨v, e, r⟩
  · subst e
    refine ⟨_, rfl, fun d' => ?_⟩
    rw [upd_get]
    split
    · exact r d'
    · exact r d'

/-- The start event up to its detectors. -/
def State.startedUp (s : State) (answers : Bool) : State :=
  (((s.started answers).startEntries (s.failedChecks answers)).judgeVoids.startProofs).startSurvey

theorem State.startUp_eq (s : State) (answers : Bool) (raw : Vector Bool 32) :
    s.startUp answers raw = ((s.startedUp answers).startDetectors raw).supplyCommands := by
  unfold State.startUp State.startedUp State.started
  rfl

theorem Kept.startedUp (s : State) (answers : Bool) : Kept (s.startSet answers) (s.startedUp answers) := by
  unfold State.startedUp
  rw [s.started_eq]
  exact .of (Quiet.startSurvey _).toKept <| .of (Quiet.startProofs _).toKept <| .of (.judgeVoids _) <|
    .of (Quiet.startEntries _ _).toKept (.notify _ _)

/-- The set in use has its void marks when the start reports are made, and nothing after touches it. -/
theorem State.startedUp_steady (s : State) (answers : Bool) :
    SameMode (s.startSet answers) (s.startedUp answers) ∧ (s.startedUp answers).pendingSet = s.pendingSet
      ∧ (s.startedUp answers).inUse
        = ((plansOf (readImage answers .plans s.store.nvPlans)).getD .empty).dropVoids.setVoids (s.startSet answers).work := by
  obtain ⟨inUse, set, -⟩ := s.startSet_frame answers
  have entries := Quiet.of (Quiet.startEntries _ (s.failedChecks answers))
    (Quiet.notify (s.startSet answers) (s.startedNotice answers))
  rw [← s.started_eq] at entries
  have reports : ∀ v : State, Quiet v v.startProofs.startSurvey := fun v => .of (.startSurvey _) (.startProofs v)
  unfold State.startedUp State.judgeVoids
  generalize (s.started answers).startEntries (s.failedChecks answers) = v at entries ⊢
  have judged := Quiet.of (reports _) (Quiet.judgeUsable { v with inUse := v.inUse.setVoids v.work })
  refine ⟨?_, ?_, ?_⟩
  · exact .of judged.sameMode (entries.sameMode.trans (.ofEq rfl))
  · exact judged.pendingSet.trans (entries.pendingSet.trans set)
  · refine judged.inUse.trans ?_
    show v.inUse.setVoids v.work = _
    rw [entries.inUse, entries.work, inUse]

/-- The start event before its effects are spread. -/
theorem State.startUp_frame (s : State) (answers : Bool) (raw : Vector Bool 32) :
    let u := s.startUp answers raw
    s.StartedAs answers u ∧ SameMode (s.startSet answers) u ∧ u.pendingSet = s.pendingSet
      ∧ u.inUse = ((plansOf (readImage answers .plans s.store.nvPlans)).getD .empty).dropVoids.setVoids u.work
      ∧ ∀ d : Det, (u.dets[d]).raw = raw[d] := by
  have as := (s.startSet_as answers).kept (.startedUp s answers)
  obtain ⟨mode, set, inUse⟩ := s.startedUp_steady answers
  rw [← (Kept.startedUp s answers).work] at inUse
  dsimp only
  rw [s.startUp_eq]
  generalize s.startedUp answers = v at as mode set inUse ⊢
  obtain ⟨w, e, r⟩ := v.startDetectors_eq raw
  rw [e]
  have supply := Quiet.supplyCommands { v with dets := w }
  have as : s.StartedAs answers { v with dets := w } :=
    ⟨as.phase, as.now, as.clock, as.staging, as.tod, as.edit, as.work⟩
  refine ⟨as.kept supply.toKept, .of supply.sameMode (mode.trans (.ofEq rfl)), supply.pendingSet.trans set, ?_, fun d => ?_⟩
  · rw [supply.inUse, supply.work]
    exact inUse
  · rw [supply.dets]
    exact r d

theorem Kept.autoStart (s : State) : Kept s s.autoStart := by
  unfold State.autoStart
  exact .ite (.of (.spread _ _) (.enterStartFlash s)) (.refl s)

/-- The transmitter at the end of an event takes the first notice where nothing goes before it (R182). -/
theorem State.close_tx {n : Notice} {l : List Notice} (tx : s.link.tx = none) (busy : s.link.busy = [])
    (slot : s.link.slot = none) (notices : s.link.notices = n :: l) : s.close.link.tx = some (.notice n s.link.lost) := by
  have link : (State.beginWrite { s.grant with ev := .none }).link = s.link := by
    obtain ⟨m, e, -⟩ := s.grant_spec
    rw [e]
    unfold State.beginWrite
    split <;> rfl
  unfold State.close State.finish State.transmit
  rw [link, tx]
  dsimp only
  rw [busy, slot, notices]

end Sys2Proof.Machine

/-! SUPPORT. A start without a fault: nothing in it makes a request of the mode controller (R173). -/

namespace Sys2Proof.Machine

variable {s t u : State}

/-! ### A controller without a fault -/

/-- No request stands for the mode controller, and nothing that could make one: every proof is open, no relay has failed, no dark current is evidence of a green, no set is pending, no response is active, and the engine is OFF. -/
structure State.Untroubled (s : State) : Prop where
  reqs     : s.ev.modeReqs = []
  relays   : ∀ c : Chan, (s.relays[c]).proof = false
    ∧ ((s.relays[c]).state = .released ∨ (s.relays[c]).state = .operating ∨ (s.relays[c]).state = .releasing)
  dark     : ∀ g : Group, (s.monitor[g]).darkCurrent = false
  smc      : s.smc.state ≠ .failed ∧ s.smc.proof = false
  ftr      : s.ftr.state ≠ .failed ∧ s.ftr.proof = false
  set      : s.pendingSet = none
  response : s.mode.responseActive = false
  engine   : s.engine.state = .off

/-- From s to t nothing has changed that makes a request of the mode controller, nor the mode. -/
structure Tame (s t : State) : Prop where
  reqs     : t.ev.modeReqs = s.ev.modeReqs := by rfl
  relays   : t.relays = s.relays := by rfl
  monitor  : t.monitor = s.monitor := by rfl
  smc      : t.smc = s.smc := by rfl
  ftr      : t.ftr = s.ftr := by rfl
  set      : t.pendingSet = s.pendingSet := by rfl
  response : t.mode.responseActive = s.mode.responseActive := by rfl
  engine   : t.engine.state = s.engine.state := by rfl
  mode     : t.mode.mode = s.mode.mode := by rfl

theorem Tame.refl (s : State) : Tame s s := {}

theorem Tame.trans (h : Tame s t) (k : Tame t u) : Tame s u where
  reqs := k.reqs.trans h.reqs
  relays := k.relays.trans h.relays
  monitor := k.monitor.trans h.monitor
  smc := k.smc.trans h.smc
  ftr := k.ftr.trans h.ftr
  set := k.set.trans h.set
  response := k.response.trans h.response
  engine := k.engine.trans h.engine
  mode := k.mode.trans h.mode

theorem Tame.of (k : Tame t u) (h : Tame s t) : Tame s u := h.trans k

theorem Tame.ite {p : Prop} [Decidable p] (h : Tame s t) (k : Tame s u) : Tame s (if p then t else u) := by
  split <;> assumption

theorem Tame.each {α : Type} {f : α → State → State} (h : ∀ a t, Tame t (f a t)) (l : List α) (s : State) :
    Tame s (s.each l f) :=
  State.each_induct (P := Tame s) l s (.refl s) fun a _ t k => k.trans (h a t)

theorem FaultsOnly.tame (h : FaultsOnly s t) : Tame s t := by
  unfold FaultsOnly at h
  generalize t.faults = f, t.link = l at h
  rw [h]
  exact {}

theorem State.Untroubled.tame (x : s.Untroubled) (h : Tame s t) : t.Untroubled where
  reqs := h.reqs.trans x.reqs
  relays := by rw [h.relays]; exact x.relays
  dark := by rw [h.monitor]; exact x.dark
  smc := by rw [h.smc]; exact x.smc
  ftr := by rw [h.ftr]; exact x.ftr
  set := h.set.trans x.set
  response := h.response.trans x.response
  engine := h.engine.trans x.engine

/-- The mode is as it was and the controller still without a fault. -/
def State.Calmly (m : Mode) (s : State) : Prop := s.Untroubled ∧ s.mode.mode = m

variable {m : Mode}

theorem State.Calmly.tame (x : s.Calmly m) (h : Tame s t) : t.Calmly m := ⟨x.1.tame h, h.mode.trans x.2⟩

theorem State.Calmly.ite {p : Prop} [Decidable p] (h : t.Calmly m) (k : u.Calmly m) : State.Calmly m (if p then t else u) := by
  split <;> assumption

theorem State.Calmly.each {α : Type} {f : α → State → State} {l : List α}
    (h : ∀ a ∈ l, ∀ t : State, t.Calmly m → (f a t).Calmly m) (x : s.Calmly m) : (s.each l f).Calmly m :=
  State.each_induct (P := State.Calmly m) l s x h

/-! ### Operations that make no request -/

variable (s)

theorem Tame.ofEv (x : Ev) (h : x.modeReqs = s.ev.modeReqs) : Tame s { s with ev := x } where
  reqs := h

theorem Tame.notify (n : Notice) : Tame s (s.notify n) := (FaultsOnly.notify s n).tame

theorem Tame.abandon (k : CoreId) (b : Bool) : Tame s (s.abandon k b) := by
  unfold State.abandon
  refine .ite ?_ (.refl s)
  dsimp only
  split <;> exact {}

theorem Tame.abandonIf (p : CoreCfg → Bool) : Tame s (s.abandonIf p) := by
  unfold State.abandonIf
  split
  · exact .ite (.abandon s _ _) (.refl s)
  · exact .refl s

theorem Tame.endFailed (c : Chan) : Tame s (s.endFailed c) := by
  unfold State.endFailed
  exact .ite {} (.refl s)

theorem Tame.endJob (k : JobKind) (r : JobResult) (items : JobItems) : Tame s (s.endJob k r items) := by
  unfold State.endJob
  split
  · exact .refl s
  · exact .of (.notify _ _) {}

theorem Tame.learnCheck : Tame s s.learnCheck := by
  unfold State.learnCheck
  exact .ite (.refl s) (.endJob s _ _ _)

theorem Tame.endLit (c : Chan) : Tame s (s.endLit c) := by
  have ended : ∀ t : State, Tame t (t.learnPeriodEnd c) := fun t => by
    unfold State.learnPeriodEnd
    exact .ite (.ite (.of (.learnCheck _) {}) {}) {}
  unfold State.endLit
  exact .ite (.of (ended _) {}) (.refl s)

theorem Tame.learnEnd (r : JobResult) : Tame s (s.learnEnd r) := by
  have listed : ∀ (l : List Chan) (t : State), Tame t (t.each l fun c u => u.markUnlearned c) :=
    fun l => Tame.each (fun c u => {}) l
  unfold State.learnEnd
  refine .ite (.of (.endJob _ _ _ _) ?_) (.refl s)
  exact .trans (.ite (listed _ s) (.refl s)) {}

theorem Tame.judgeFlashBus : Tame s s.judgeFlashBus := by
  have live : ∀ t : State, Tame t t.lampFlashLive := fun t => .each (fun c u => .ite {} {}) _ t
  have turned : Tame s (State.wantSelection { s with flashBus := s.busLive }) := {}
  unfold State.judgeFlashBus
  exact .ite (.refl s) (.ite (.of (.abandonIf _ _) <| .of (live _) turned) turned)

theorem Tame.judgeUsable : Tame s s.judgeUsable := by
  unfold State.judgeUsable
  exact .ite (FaultsOnly.endCond s _ rfl).tame (.ite (.refl s) (FaultsOnly.observe _ rfl rfl).tame)

theorem Tame.judgeVoids : Tame s s.judgeVoids := .of (.judgeUsable _) {}

theorem Tame.beginPass (full : Bool) : Tame s (s.beginPass full) := by
  have h : ∀ (x : Vector CoreRun 64) (y : Survey), Tame s { s with cores := x, survey := y } := fun x y => {}
  unfold State.beginPass
  exact h _ _

theorem Tame.wantSelection : Tame s s.wantSelection := {}

theorem Tame.endPass : Tame s s.endPass := by
  have untested : ∀ t : State, Tame t t.countUntested := fun t => .each (fun k u => by
    dsimp only
    refine .ite ?_ (.refl u)
    exact .ite (.trans {} (FaultsOnly.observe _ rfl rfl).tame) {}) _ t
  have stored : ∀ t : State, Tame t (t.placeStore .survey) := fun t => .ite (.refl t) {}
  have closed : ∀ (t : State) (r : JobResult), Tame t (t.closePass r) := fun t r => by
    unfold State.closePass
    exact .of (.endJob _ _ _ _) <| .of (stored _) {}
  have ended : Tame s (s.countUntested.closePass .ok) := .of (closed _ _) (untested s)
  unfold State.endPass
  exact .ite (.of (.wantSelection _) <| .of (.beginPass _ _) ended) ended

theorem Tame.selection : Tame s s.selection := by
  unfold State.selection
  refine .ite ?_ (.refl s)
  dsimp only
  split
  · exact .endPass s
  · split
    · exact {}
    · split
      · exact {}
      · exact {}

theorem Tame.selections (n : Nat) : Tame s (s.selections n) := by
  induction n generalizing s with
  | zero => exact .refl s
  | succ n ih =>
    unfold State.selections
    exact .ite (.of (ih _) <| .of (.selection _) (.ofEv s _ rfl)) (.refl s)

theorem Tame.passLeftForce : Tame s s.passLeftForce := by
  have demand : ∀ (t : State) (st : Fin 16), Tame t (t.enterDemand st) := fun t st => by
    unfold State.enterDemand
    exact .ite (.refl t) {}
  have left : ∀ (st : Nat) (t : State), Tame t (t.leftForce st) := fun st t => by
    unfold State.leftForce
    split
    · exact .refl t
    · exact .ite (demand t _) (.refl t)
  exact .of (.each left _ _) (t := { s with ev := { s.ev with leftForce := [] } }) {}

theorem Tame.setAspects : Tame s s.setAspects := by
  have e : s.setAspects = { s with groups := s.setAspects.groups, ev := s.setAspects.ev } := by
    unfold State.setAspects
    rfl
  have reqs : s.setAspects.ev.modeReqs = s.ev.modeReqs := by
    unfold State.setAspects
    rfl
  generalize s.setAspects.groups = v, s.setAspects.ev = x at e reqs
  rw [e]
  exact { reqs := reqs }

/-! ### The relays without a fault -/

variable {s}

/-- Where there is no evidence of a dark current before, there is none after. -/
def DarkWithin (v w : Vector MonGroup 16) : Prop :=
  ∀ g : Group, (v[g]).darkCurrent = false → (w[g]).darkCurrent = false

theorem DarkWithin.refl (v : Vector MonGroup 16) : DarkWithin v v := fun _ => id

theorem DarkWithin.cleared (v : Vector MonGroup 16) (g : Group) :
    DarkWithin v (upd v g fun m => { m with darkCurrent := false }) := fun d h => by
  rw [upd_get]
  split
  · rfl
  · exact h

/-- A change of a relay's record asks nothing, and takes evidence of a dark current away at most. -/
theorem State.putRelay_tame (s : State) (c : Chan) (n : Relay) :
    (s.putRelay c n).ev.modeReqs = s.ev.modeReqs ∧ DarkWithin s.monitor (s.putRelay c n).monitor := by
  have turned : ∀ (t : State) (g : Group) (b : Bool) (p : Prop) [Decidable p],
      t.ev.modeReqs = s.ev.modeReqs ∧ DarkWithin s.monitor t.monitor →
      (if p then t.setGreenUnavailable g b else t).ev.modeReqs = s.ev.modeReqs
        ∧ DarkWithin s.monitor (if p then t.setGreenUnavailable g b else t).monitor := by
    intro t g b p _ ⟨r, k⟩
    split
    · obtain ⟨e, h⟩ := t.inhibit_eq g fun r => { r with greenUnavailable := b }
      obtain ⟨-, -, -, reqs⟩ := t.inhibit_frame g fun r => { r with greenUnavailable := b }
      have monitor : (t.inhibit g fun r => { r with greenUnavailable := b }).monitor = t.monitor := by rw [h]
      refine ⟨reqs.trans r, ?_⟩
      unfold State.setGreenUnavailable
      rw [monitor]
      exact k
    · exact ⟨r, k⟩
  have same : ∀ t : State, t.ev.modeReqs = s.ev.modeReqs → t.monitor = s.monitor →
      t.ev.modeReqs = s.ev.modeReqs ∧ DarkWithin s.monitor t.monitor := fun t r m => ⟨r, by rw [m]; exact .refl _⟩
  have taken : ∀ (t : State) (g : Group) (p : Prop) [Decidable p], t.ev.modeReqs = s.ev.modeReqs →
      t.monitor = s.monitor →
      (if p then { t with monitor := upd t.monitor g fun m => { m with darkCurrent := false } } else t).ev.modeReqs
          = s.ev.modeReqs
        ∧ DarkWithin s.monitor
          (if p then { t with monitor := upd t.monitor g fun m => { m with darkCurrent := false } } else t).monitor := by
    intro t g p _ r m
    split
    · exact ⟨r, m ▸ .cleared t.monitor g⟩
    · exact same t r m
  have wanted : ∀ (t : State) (p : Prop) [Decidable p], t.ev.modeReqs = s.ev.modeReqs → t.monitor = s.monitor →
      (if p then t.wantSelection else t).ev.modeReqs = s.ev.modeReqs
        ∧ (if p then t.wantSelection else t).monitor = s.monitor := by
    intro t p _ r m
    split <;> exact ⟨r, m⟩
  obtain ⟨r, m⟩ := wanted (State.mark (s.updRelay c fun _ => n)) (n.state = .released) rfl rfl
  unfold State.putRelay
  dsimp only
  split
  · exact same _ rfl rfl
  · split
    · exact turned _ _ _ _ (taken _ _ _ r m)
    · exact same _ r m

/-- A relay's record that has not failed and whose proof is open. -/
def Relay.Sound (r : Relay) : Prop :=
  r.proof = false ∧ (r.state = .released ∨ r.state = .operating ∨ r.state = .releasing)

theorem State.Calmly.setRelay {f : Relay → Relay} (x : s.Calmly m) (c : Chan)
    (h : (s.relays[c]).Sound → (f s.relays[c]).Sound) : (s.setRelay c f).Calmly m := by
  have sound := h (x.1.relays c)
  obtain ⟨reqs, dark⟩ := s.putRelay_tame c (f s.relays[c]).kept
  obtain ⟨ev, mon, grp, e, -⟩ := s.putRelay_spec c (f s.relays[c]).kept
  rw [State.setRelay_eq]
  rw [e] at reqs dark ⊢
  refine ⟨⟨reqs.trans x.1.reqs, fun d => ?_, fun g => dark g (x.1.dark g), x.1.smc, x.1.ftr, x.1.set, x.1.response,
    x.1.engine⟩, x.2⟩
  show ((upd s.relays c fun _ => (f s.relays[c]).kept)[d]).Sound
  rw [upd_get]
  split
  · exact sound
  · exact x.1.relays d

theorem State.Calmly.updRelay {f : Relay → Relay} (x : s.Calmly m) (c : Chan)
    (h : ∀ r : Relay, (f r).proof = r.proof ∧ (f r).state = r.state) : (s.updRelay c f).Calmly m := by
  refine ⟨⟨x.1.reqs, fun d => ?_, x.1.dark, x.1.smc, x.1.ftr, x.1.set, x.1.response, x.1.engine⟩, x.2⟩
  show ((upd s.relays c f)[d]).Sound
  rw [upd_get]
  split
  · obtain ⟨a, b⟩ := h s.relays[d]
    unfold Relay.Sound
    rw [a, b]
    exact x.1.relays d
  · exact x.1.relays d

theorem State.Calmly.wantSelection (x : s.Calmly m) : s.wantSelection.Calmly m := x.tame {}

theorem State.Calmly.mark (x : s.Calmly m) : s.mark.Calmly m := x.tame {}

theorem State.Calmly.operate (x : s.Calmly m) (c : Chan) : (s.operate c).Calmly m := by
  have released : (s.operateReleased c).Calmly m := by
    unfold State.operateReleased
    split
    · next k _ =>
      have held := x.updRelay c (f := fun r => { r with held := true, waitCore := some k, waitTimer := some (s.now + 20) })
        fun r => ⟨rfl, rfl⟩
      exact held.tame (.abandon _ _ _)
    · unfold State.energize
      exact x.setRelay c fun h => ⟨h.1, .inr (.inl rfl)⟩
  unfold State.operate
  split
  · exact x
  · split
    · exact .ite x released.wantSelection
    · exact (x.updRelay c (f := fun r => { r with held := true }) fun r => ⟨rfl, rfl⟩).wantSelection
    · exact x.wantSelection
    · exact x.wantSelection
    · exact x
    · exact x

theorem State.Calmly.release (x : s.Calmly m) (c : Chan) : (s.release c).Calmly m := by
  have start : (s.startRelease c).Calmly m := by
    unfold State.startRelease
    exact (x.setRelay c fun h => ⟨h.1, .inr (.inr rfl)⟩).tame (.endLit _ c)
  unfold State.release
  split
  · exact (x.updRelay c (f := fun r => { r with held := false, waitCore := none, waitTimer := none })
      fun r => ⟨rfl, rfl⟩).wantSelection
  · exact start.wantSelection
  · exact start.wantSelection
  · exact (x.updRelay c (f := fun r => { r with held := false }) fun r => ⟨rfl, rfl⟩).wantSelection
  · exact x
  · exact x

/-! ### The supply relays without a fault -/

theorem State.Calmly.setSmc {f : SupplyRelay → SupplyRelay} (x : s.Calmly m)
    (h : (f s.smc).state ≠ .failed ∧ (f s.smc).proof = s.smc.proof) : (s.setSmc f).Calmly m :=
  ⟨⟨x.1.reqs, x.1.relays, x.1.dark, ⟨h.1, h.2.trans x.1.smc.2⟩, x.1.ftr, x.1.set, x.1.response, x.1.engine⟩, x.2⟩

theorem State.Calmly.setFtr {f : SupplyRelay → SupplyRelay} (x : s.Calmly m)
    (h : (f s.ftr).state ≠ .failed ∧ (f s.ftr).proof = s.ftr.proof) : (s.setFtr f).Calmly m :=
  ⟨⟨x.1.reqs, x.1.relays, x.1.dark, x.1.smc, ⟨h.1, h.2.trans x.1.ftr.2⟩, x.1.set, x.1.response, x.1.engine⟩, x.2⟩

theorem State.Calmly.smcOpen (x : s.Calmly m) : s.smcOpen.Calmly m := by
  unfold State.smcOpen
  split
  · exact x.setSmc ⟨by simp, rfl⟩
  · exact x.setSmc ⟨by simp, rfl⟩
  · exact x.setSmc ⟨x.1.smc.1, rfl⟩
  · exact x
  · exact x

theorem State.Calmly.smcClose (x : s.Calmly m) : s.smcClose.Calmly m := by
  have begun : s.smcBeginClose.Calmly m := by
    have set : State.Calmly m (s.setSmc fun r =>
        { r with state := .operating, coil := true, held := false, opTimer := some (s.now + s.work.smc.operate) }) :=
      x.setSmc ⟨by simp, rfl⟩
    unfold State.smcBeginClose
    dsimp only
    exact .ite (set.tame (.abandonIf _ _)) ((set.tame (.abandonIf _ _)).tame (.abandonIf _ _))
  unfold State.smcClose
  split
  · exact begun
  · exact x.setSmc ⟨x.1.smc.1, rfl⟩
  · exact x
  · exact x
  · exact x

theorem State.Calmly.ftrToFlash (x : s.Calmly m) : s.ftrToFlash.Calmly m := by
  unfold State.ftrToFlash
  split
  · exact x.setFtr ⟨by simp, rfl⟩
  · exact x.setFtr ⟨by simp, rfl⟩
  · exact x.setFtr ⟨x.1.ftr.1, rfl⟩
  · exact .ite x.smcOpen x
  · exact x

theorem State.Calmly.supplyCommands (h : m = .standby ∨ m = .startFlash) (x : s.Calmly m) : s.supplyCommands.Calmly m := by
  have opened : s.smcOpen.ftrToFlash.Calmly m := x.smcOpen.ftrToFlash
  have close : s.smcClose.ftrToFlash.Calmly m := x.smcClose.ftrToFlash
  rcases h with h | h
  · cases d : s.work.junction.standbyDisplay with
    | dark => rw [State.supplyCommands_open (.inr (.inr (.inl ⟨x.2.trans h, d⟩)))]; exact opened
    | flash => rw [State.supplyCommands_close (.inr (.inr (.inl ⟨x.2.trans h, d⟩)))]; exact close
  · rw [State.supplyCommands_close (.inl (x.2.trans h))]
    exact close

/-! ### The blocks' work without a fault -/

/-- Without contact evidence and without dark current no green is proven. -/
theorem State.Untroubled.not_proven (x : s.Untroubled) (g : Group) :
    (s.judgeProven g).proven = false ∧ (s.judgeProven g).darkCurrent = false := by
  have contact : (s.greenRelay g).contact = false := by
    obtain ⟨proof, state⟩ := x.relays (chanOf g 2)
    unfold State.greenRelay Relay.contact
    rw [proof]
    rcases state with e | e | e <;> rw [e] <;> simp
  unfold State.judgeProven
  dsimp only
  split
  · exact ⟨rfl, rfl⟩
  · rw [contact, x.dark g]
    exact ⟨rfl, rfl⟩

theorem State.TripArises.proven {v : Vector MonGroup 16} {j : Group} {k : Kind} (h : s.TripArises v j k) :
    (v[j]).proven = true := by
  cases k <;> try exact h.elim
  case conflict => exact h.1
  case uncommandedGreen => exact h.1
  case intergreenShort => exact h.1

theorem State.Calmly.judgeMonitor (x : s.Calmly m) : s.judgeMonitor.Calmly m := by
  have proven : ∀ g : Group, s.evidenceJudged.monitor[g] = s.judgeProven g := fun g => by
    unfold State.evidenceJudged
    simp
  have none : s.tripsFound = [] := State.tripsFound_nil fun j k a => by
    have p := a.proven
    rw [proven j, (x.1.not_proven j).1] at p
    cases p
  have judged : s.evidenceJudged.Calmly m := by
    refine ⟨⟨x.1.reqs, x.1.relays, fun g => ?_, x.1.smc, x.1.ftr, x.1.set, x.1.response, x.1.engine⟩, x.2⟩
    rw [proven g]
    exact (x.1.not_proven g).2
  rw [s.judgeMonitor_eq, none]
  exact judged.tame s.tripsEnded_spec.1.tame

theorem State.Calmly.judgeFailed (x : s.Calmly m) : s.judgeFailed.Calmly m := by
  refine .each (fun c _ t y => ?_) x
  have n : (t.relays[c]).state ≠ .failedOpen := by
    obtain ⟨-, e | e | e⟩ := y.1.relays c <;> rw [e] <;> simp
  rw [if_neg n]
  exact y.tame (.endFailed t c)

theorem State.Calmly.commandAspects (x : s.Calmly m) : s.commandAspects.Calmly m := by
  have command : ∀ (g : Group) (t : State), t.Calmly m → (t.commandGroup g).Calmly m := by
    intro g t y
    have handed : State.Calmly m { t with handed := t.handed.set g (t.groups[g]).aspect } := y.tame {}
    unfold State.commandGroup
    dsimp only
    refine .ite y (.each (fun k _ u z => ?_) handed)
    exact .ite z (.ite (z.operate _) (z.release _))
  exact .each (fun g _ t y => .ite y (command g t y).wantSelection) x

/-- The modes in which a controller without a fault stands at its start. -/
def Mode.starting (m : Mode) : Prop := m = .standby ∨ m = .startFlash

theorem State.Calmly.settle (n : Nat) (h : m.starting) {s : State} (x : s.Calmly m) : (s.settle n).Calmly m := by
  have worked : ∀ t : State, t.Calmly m → (t.modeWork.startEndRed).engineWork.Calmly m := by
    intro t y
    have none : t.modeWork.Calmly m := by
      unfold State.modeWork
      dsimp only
      rw [y.1.reqs]
      exact y.tame { reqs := y.1.reqs.symm }
    have red : t.modeWork.startEndRed = t.modeWork := by
      have ne : t.modeWork.mode.mode ≠ .shutdown := by rw [none.2]; rcases h with rfl | rfl <;> simp
      unfold State.startEndRed
      simp [ne]
    rw [red]
    unfold State.engineWork
    rw [if_pos none.1.engine]
    exact none
  induction n generalizing s with
  | zero => exact x
  | succ n ih =>
    unfold State.settle
    refine .ite (ih (worked _ (x.tame (.ofEv s _ rfl)))) (.ite x (ih ?_))
    exact (x.tame (.passLeftForce s)).mark

theorem State.Calmly.judged (n : Nat) (h : m.starting) {s : State} (x : s.Calmly m) : (s.judged n).Calmly m := by
  induction n generalizing s with
  | zero => exact x
  | succ n ih =>
    have settled := (x.settle 200 h).judgeMonitor
    have failed := settled.judgeFailed
    unfold State.judged
    exact .ite (ih settled) (.ite (ih failed) failed)

theorem State.Calmly.rounds (n : Nat) (h : m.starting) {s : State} (x : s.Calmly m) : (s.rounds n).Calmly m := by
  induction n generalizing s with
  | zero => exact x
  | succ n ih =>
    have round : s.round.Calmly m := (x.judged 8 h).commandAspects.judgeMonitor
    unfold State.rounds
    exact .ite (ih round) round

/-- What the blocks make of an event of a controller without a fault leaves it without one, and its mode as it was. -/
theorem State.Calmly.spread (before : State) (h : m.starting) (x : s.Calmly m) : (before.spread s).Calmly m := by
  have rounds := x.mark.rounds 8 h
  unfold State.spread
  exact (State.Calmly.ite rounds.wantSelection rounds).tame (.selections _ 3)

end Sys2Proof.Machine

/-! SUPPORT. The start event as a whole (R172, R173), and O40. -/

namespace Sys2Proof.Machine

variable {s t u : State} {answers : Bool}

/-! ### The auto-start without a fault -/

/-- Without a failed relay the resets of START_FLASH are a judgement of the output monitor. -/
theorem State.Untroubled.resetRelays (x : s.Untroubled) : s.resetRelays = s.judgeMonitor := by
  have none : allChans.filter s.resets = [] := List.filter_eq_nil_iff.mpr fun c _ r => by
    obtain ⟨o, -⟩ := State.resets_iff.mp r
    obtain ⟨-, e | e | e⟩ := x.relays c <;> rw [e] at o <;> simp at o
  unfold State.resetRelays State.each
  dsimp only
  rw [none, List.filter_nil, List.foldl_nil, List.foldl_nil]

theorem State.Calmly.suppliesReset {m : Mode} (x : s.Calmly m) : s.suppliesReset.Calmly m := by
  unfold State.suppliesReset
  rw [State.resetSmc_not x.1.smc.1, State.resetFtr_not x.1.ftr.1]
  exact x.judgeMonitor.smcClose.ftrToFlash

theorem State.Calmly.enterStartFlash (x : s.Calmly .standby) : s.enterStartFlash.Calmly .startFlash := by
  have set : (s.modeSet .startFlash).Calmly .startFlash := by
    have n : ¬ s.mode.mode = .running := by rw [x.2]; simp
    unfold State.modeSet
    dsimp only
    rw [if_neg n]
    exact ⟨⟨x.1.reqs, x.1.relays, x.1.dark, x.1.smc, x.1.ftr, x.1.set, x.1.response, x.1.engine⟩, rfl⟩
  have commanded : (s.modeCommanded .startFlash).Calmly .startFlash := by
    rw [s.modeCommanded_startFlash, set.1.resetRelays]
    exact set.judgeMonitor.suppliesReset
  have posted : (s.modePosted .startFlash).Calmly .startFlash := commanded.tame (.setAspects _)
  have reported : ∀ v : State, Tame v (v.modeReported s.mode.mode .startFlash) := fun v =>
    .of (t := (v.modeChanged s.mode.mode).learnEnd .abandoned) {} <| .of (.learnEnd _ _) (.notify v _)
  unfold State.enterStartFlash
  rw [x.1.response, if_neg (by simp), s.enterMode_eq]
  exact posted.tame (reported _)

theorem State.startBar_iff : s.startBar = none ↔
    s.inUse.usable = true ∧ s.mode.responseActive = false ∧ s.mode.bringUp = .ok ∧ s.hasJob .commitConfig = false := by
  have barred : (!s.inUse.usable || s.mode.responseActive || decide (s.mode.bringUp ≠ .ok)) = true ↔
      ¬ (s.inUse.usable = true ∧ s.mode.responseActive = false ∧ s.mode.bringUp = .ok) := by
    simp [imp_iff_not_or, or_assoc]
  unfold State.startBar
  split
  · next h => exact ⟨fun e => (nomatch e), fun ⟨a, b, c, _⟩ => (barred.mp h ⟨a, b, c⟩).elim⟩
  · next h =>
    obtain ⟨a, b, c⟩ := not_not.mp (mt barred.mpr h)
    split
    · next j => exact ⟨fun e => (nomatch e), fun ⟨_, _, _, n⟩ => Bool.noConfusion (j.symm.trans n)⟩
    · next j => exact ⟨fun _ => ⟨a, b, c, Bool.eq_false_iff.mpr j⟩, fun _ => rfl⟩

/-- The auto-start of a controller without a fault: START_FLASH where it is asked for and the set in use is usable. -/
theorem State.Calmly.autoStart (x : s.Calmly .standby) (b : s.mode.bringUp = .ok) (j : s.hasJob .commitConfig = false) :
    s.autoStart.mode.mode
      = if s.work.junction.autoStart = true ∧ s.inUse.usable = true then .startFlash else .standby := by
  have bar : s.startBar = none ↔ s.inUse.usable = true := by
    rw [State.startBar_iff]
    exact ⟨fun h => h.1, fun h => ⟨h, x.1.response, b, j⟩⟩
  unfold State.autoStart
  by_cases h : s.work.junction.autoStart = true ∧ s.inUse.usable = true
  · rw [if_pos ⟨x.2, h.1, bar.mpr h.2⟩, if_pos h]
    exact (x.enterStartFlash.spread s (.inr rfl)).2
  · rw [if_neg fun a => h ⟨a.2.1, bar.mp a.2.2⟩, if_neg h]
    exact x.2

/-! ### The conditions that the surveyor restores (R151) -/

/-- No core stands at LOW or EARTH_FAULT, nor is one of these confirmed on it. -/
def State.Mild (s : State) : Prop := ∀ k : CoreId, ((s.cores[k]).hist.level = .ok ∨ (s.cores[k]).hist.level = .warn)
  ∧ (⟨.core k, .insulationLow⟩ : Cond) ∉ s.faults.confirmed ∧ (⟨.core k, .earthFault⟩ : Cond) ∉ s.faults.confirmed

theorem State.Mild.of (h : s.Mild) (c : t.cores = s.cores)
    (f : ∀ k x, (⟨.core k, x⟩ : Cond) ∈ t.faults.confirmed → (⟨.core k, x⟩ : Cond) ∈ s.faults.confirmed) : t.Mild := by
  intro k
  obtain ⟨level, low, earth⟩ := h k
  exact ⟨by rw [c]; exact level, fun m => low (f _ _ m), fun m => earth (f _ _ m)⟩

theorem FaultsOnly.cores (h : FaultsOnly s t) : t.cores = s.cores := by
  unfold FaultsOnly at h
  rw [h]

/-- What a report of a condition of a core leads to that carries no flag. -/
theorem State.concerned_core {k : CoreId} {x : Kind} (f : x.flagged = false) (r : x ≠ .redOut) (s : State) :
    s.concerned ⟨.core k, x⟩ = if x.insulation then
      s.updCore k fun c => { c with hist := { c.hist with level := s.levelOf k } } else s := by
  unfold State.concerned
  dsimp only
  rw [f, if_neg r]
  rfl

theorem State.levelOf_mild {k : CoreId} (low : (⟨.core k, .insulationLow⟩ : Cond) ∉ s.faults.confirmed)
    (earth : (⟨.core k, .earthFault⟩ : Cond) ∉ s.faults.confirmed) : s.levelOf k = .ok ∨ s.levelOf k = .warn := by
  unfold State.levelOf
  rw [if_neg fun h => earth (State.isConfirmed_iff.mp h), if_neg fun h => low (State.isConfirmed_iff.mp h)]
  split
  · exact .inr rfl
  · exact .inl rfl

/-- The confirmation of a condition of a core that carries no flag touches the fault confirmation unit and the link, and the level of the core where the condition is one of the insulation. -/
theorem State.confirm_core {k : CoreId} {x : Kind} (f : x.flagged = false) (r : x ≠ .redOut) (s : State) :
    ∃ v, FaultsOnly s v ∧ v.faults.confirmed = (s.confirm ⟨.core k, x⟩ .normal).faults.confirmed
      ∧ (s.confirm ⟨.core k, x⟩ .normal = v ∨ s.confirm ⟨.core k, x⟩ .normal
        = v.updCore k fun c => { c with hist := { c.hist with level := v.levelOf k } }) := by
  have dropped : FaultsOnly s (s.dropSuspicion ⟨.core k, x⟩) := rfl
  have entered : ∀ (l : List Cond) (v : State), FaultsOnly v (State.enterAlarm { v with
      faults := { v.faults with confirmed := l } } ⟨.core k, x⟩ .normal) := fun l v =>
    FaultsOnly.trans (t := { v with faults := { v.faults with confirmed := l } }) rfl (.enterAlarm _ _ _)
  unfold State.confirm
  dsimp only
  split
  · exact ⟨_, dropped.trans (.enterAlarm _ _ _), rfl, .inl rfl⟩
  · rw [State.concerned_core f r]
    split
    · exact ⟨_, dropped.trans (entered _ _), rfl, .inr rfl⟩
    · exact ⟨_, dropped.trans (entered _ _), rfl, .inl rfl⟩

/-- A controller without a fault that restores its cores. -/
def State.Restores (s : State) : Prop := s.Calmly .standby ∧ s.Mild

/-- The confirmation of a condition of a core that carries no flag makes no request. -/
theorem State.Restores.confirm {k : CoreId} {x : Kind} (h : s.Restores) (f : x.flagged = false) (r : x ≠ .redOut) :
    (s.confirm ⟨.core k, x⟩ .normal).Restores := by
  obtain ⟨v, only, confirmed, e⟩ := State.confirm_core f r s (k := k)
  have mem : ∀ (d : CoreId) (y : Kind), y.flagged = true → (⟨.core d, y⟩ : Cond) ∈ v.faults.confirmed →
      (⟨.core d, y⟩ : Cond) ∈ s.faults.confirmed := by
    intro d y o m
    rw [confirmed] at m
    refine (State.mem_confirm.mp m).resolve_right fun e => ?_
    cases e
    rw [f] at o
    cases o
  have calm := h.1.tame only.tame
  have low := fun d m => (h.2 d).2.1 (mem d .insulationLow rfl m)
  have earth := fun d m => (h.2 d).2.2 (mem d .earthFault rfl m)
  have mild : v.Mild := fun d => ⟨by rw [only.cores]; exact (h.2 d).1, low d, earth d⟩
  rcases e with e | e <;> rw [e]
  · exact ⟨calm, mild⟩
  · refine ⟨calm.tame {}, fun d => ⟨?_, low d, earth d⟩⟩
    show ((upd v.cores k _)[d]).hist.level = .ok ∨ ((upd v.cores k _)[d]).hist.level = .warn
    rw [upd_get]
    split
    · exact State.levelOf_mild (low k) (earth k)
    · exact (mild d).1

theorem State.Restores.restoreCore (h : s.Restores) (k : CoreId) : (s.restoreCore k).Restores := by
  have implied : (s.each (s.cores[k]).hist.level.kinds fun x t => t.confirm ⟨.core k, x⟩ .normal).Restores := by
    refine State.each_induct (P := State.Restores) _ _ h fun x m t r => ?_
    have warn : x = .insulationWarn := by
      obtain ⟨e | e, -⟩ := h.2 k <;> rw [e] at m
      · cases m
      · exact List.mem_singleton.mp m
    rw [warn]
    exact r.confirm rfl (by simp)
  unfold State.restoreCore
  dsimp only
  split
  · exact implied.confirm rfl (by simp)
  · exact implied

theorem State.Restores.startSurvey (h : s.Restores) : s.startSurvey.Calmly .standby := by
  have restored : (s.each allCores fun k t => t.restoreCore k).Restores :=
    State.each_induct (P := State.Restores) _ _ h fun k _ t r => r.restoreCore k
  have halted : ∀ v : State, v.Calmly .standby →
      State.Calmly .standby { v with survey := { v.survey with halted := true } } := fun v x => x.tame {}
  unfold State.startSurvey
  dsimp only
  exact .ite (halted _ restored.1) ((restored.1.tame (.beginPass _ _)).wantSelection)

/-! ### The start event without a fault -/

/-- With no failing check no proof was closed, and the start mode is STANDBY with a valid CONFIG image only. -/
theorem State.startsIn_standby (h : s.startsIn answers = .standby) :
    s.failedChecks answers = [] ∧ s.power.proofFault = false := by
  have ok : (s.failedChecks answers).head?.getD .ok = .ok := by
    unfold State.startsIn startMode at h
    split at h
    · cases h
    · split at h
      · assumption
      · cases h
  rw [s.failedChecks_head] at ok
  split at ok
  · cases ok
  · next a =>
    split at ok
    · cases ok
    · next b =>
      split at ok
      · cases ok
      · next c =>
        split at ok
        · cases ok
        · next d =>
          unfold State.failedChecks
          simp_all

/-- A start of a controller to which nothing has happened, with no check failing. -/
theorem State.Fresh.calmly (f : s.Fresh) (h : s.startsIn answers = .standby) : (s.startSet answers).Calmly .standby := by
  obtain ⟨-, closed⟩ := State.startsIn_standby h
  obtain ⟨smc, ftr, loads⟩ := f.proofs closed
  obtain ⟨smcStart, ftrStart⟩ := f.supply
  have relay : ∀ c : Chan, (s.startSet answers).relays[c] = { s.relays[c] with darkSince := some s.now } := fun c => by
    unfold State.startSet
    dsimp only
    rw [State.setAspects_relays]
    exact map_get _ _ _
  have frame : (s.startSet answers).smc = s.smc ∧ (s.startSet answers).ftr = s.ftr
      ∧ (s.startSet answers).monitor = s.monitor ∧ (s.startSet answers).engine = s.engine := by
    unfold State.startSet
    dsimp only
    rw [State.setAspects_smc, State.setAspects_ftr, State.setAspects_monitor, State.setAspects_engine]
    exact ⟨rfl, rfl, rfl, rfl⟩
  have reqs : (s.startSet answers).ev.modeReqs = s.ev.modeReqs := by
    unfold State.startSet
    exact (Tame.setAspects _).reqs
  obtain ⟨smcSame, ftrSame, monitor, engine⟩ := frame
  obtain ⟨-, set, -, mode, -, -, response⟩ := s.startSet_frame answers
  refine ⟨⟨by rw [reqs, f.ev]; rfl, fun c => ?_, fun g => ?_, ?_, ?_, set.trans f.set, response, ?_⟩, mode.trans h⟩
  · rw [relay c]
    refine ⟨loads c, .inl ?_⟩
    show (s.relays[c]).state = .released
    rw [f.relays c]
    rfl
  · rw [monitor, f.monitor]
    simp [MonGroup.default]
  · rw [smcSame]
    exact ⟨by rw [smcStart]; simp [SupplyRelay.default], smc⟩
  · rw [ftrSame]
    exact ⟨by rw [ftrStart]; simp [SupplyRelay.default], ftr⟩
  · rw [engine, f.engine]
    rfl

end Sys2Proof.Machine

namespace Sys2Proof.Machine

variable {s t u : State} {answers : Bool}

/-! ### The reports of a start without a fault -/

theorem FaultsOnly.flashBus (h : FaultsOnly s t) : t.flashBus = s.flashBus := by
  unfold FaultsOnly at h
  rw [h]

/-- A report of the junction leaves a controller that restores its cores as it was. -/
theorem State.Restores.faults (h : s.Restores) (o : FaultsOnly s t)
    (f : ∀ k x, (⟨.core k, x⟩ : Cond) ∈ t.faults.confirmed → (⟨.core k, x⟩ : Cond) ∈ s.faults.confirmed) : t.Restores :=
  ⟨h.1.tame o.tame, h.2.of o.cores f⟩

/-- One of the junction's conditions is entered directly. -/
theorem State.observe_junction {x : Kind} (c : (⟨.junction, x⟩ : Cond).cls = 0) (p : x.plain = true) (s : State) :
    FaultsOnly s (s.observe ⟨.junction, x⟩) ∧ ∀ k y, (⟨.core k, y⟩ : Cond) ∈ (s.observe ⟨.junction, x⟩).faults.confirmed →
      (⟨.core k, y⟩ : Cond) ∈ s.faults.confirmed := by
  refine ⟨.observe _ c p, fun k y m => ?_⟩
  rw [State.observe_direct _ _ c] at m
  exact (State.mem_confirm.mp m).resolve_right fun e => by cases e

theorem State.judgeUsable_junction (s : State) :
    FaultsOnly s s.judgeUsable ∧ ∀ k y, (⟨.core k, y⟩ : Cond) ∈ s.judgeUsable.faults.confirmed →
      (⟨.core k, y⟩ : Cond) ∈ s.faults.confirmed := by
  unfold State.judgeUsable
  dsimp only
  split
  · exact ⟨.endCond s _ rfl, fun k y m => (State.mem_endCond.mp m).1⟩
  · split
    · exact ⟨.refl s, fun _ _ => id⟩
    · exact State.observe_junction rfl rfl s

/-- The entries of a start with no failing check: that the clock is invalid, where it is. -/
theorem State.Restores.startEntries (h : s.Restores) :
    (s.startEntries []).Restores ∧ (s.startEntries []).flashBus = s.flashBus := by
  have entered : State.Restores (if s.clock.valid then s else s.observe ⟨.junction, .clockInvalid⟩)
      ∧ (if s.clock.valid then s else s.observe ⟨.junction, .clockInvalid⟩).flashBus = s.flashBus := by
    split
    · exact ⟨h, rfl⟩
    · obtain ⟨o, f⟩ := State.observe_junction (x := .clockInvalid) rfl rfl s
      exact ⟨h.faults o f, o.flashBus⟩
  unfold State.startEntries
  dsimp only
  rw [List.filterMap_nil]
  generalize (if s.clock.valid then s else s.observe ⟨.junction, .clockInvalid⟩) = v at entered ⊢
  have n : ¬ (v.each [] fun k t => t.observe ⟨.junction, k⟩).mode.mode = .failsafe := by
    show ¬ v.mode.mode = .failsafe
    rw [entered.1.1.2]
    simp
  rw [if_neg n]
  exact entered

/-- With every proof open a start has no proof to report. -/
theorem State.Untroubled.startProofs (x : s.Untroubled) (bus : s.flashBus = false) : s.startProofs = s := by
  have none : (allChans.filter fun c => (s.relays[c]).proof) = [] :=
    List.filter_eq_nil_iff.mpr fun c _ p => Bool.noConfusion ((x.relays c).1.symm.trans p)
  have live : s.busLive = s.flashBus := by
    unfold State.busLive
    rw [x.smc.2, Bool.and_false, bus]
  have smc : (if s.smc.proof = true then (s.setSmc SupplyRelay.fail).supplyCutFailed else s) = s :=
    if_neg fun p => Bool.noConfusion (x.smc.2.symm.trans p)
  unfold State.startProofs State.each
  dsimp only
  rw [none, List.foldl_nil, smc, if_neg fun p => Bool.noConfusion (x.ftr.2.symm.trans p)]
  unfold State.judgeFlashBus
  rw [if_pos live]

/-- The cores of a start take the histories of the SURVEY image, none of which stands at LOW or EARTH_FAULT. -/
theorem State.Fresh.mild (f : s.Fresh)
    (h : ∀ v, surveyOf (readImage answers .survey s.store.nvSurvey) = some v →
      ∀ k : CoreId, (v.cores[k]).level ≠ .low ∧ (v.cores[k]).level ≠ .earthFault) : (s.startSet answers).Mild := by
  have cores : ∀ k : CoreId, ((s.startSet answers).cores[k]).hist
      = ((surveyOf (readImage answers .survey s.store.nvSurvey)).map fun x => x.cores[k]).getD .cleared := fun k => by
    unfold State.startSet
    dsimp only
    rw [State.setAspects_cores]
    unfold State.startTimers State.takeImages
    simp
  have faults : (s.startSet answers).faults = s.faults := by
    unfold State.startSet
    dsimp only
    rw [State.setAspects_faults]
    rfl
  intro k
  rw [cores k, faults, f.faults]
  refine ⟨?_, by simp [Faults.default], by simp [Faults.default]⟩
  cases e : surveyOf (readImage answers .survey s.store.nvSurvey) with
  | none => exact .inl rfl
  | some v =>
    obtain ⟨low, earth⟩ := h v e k
    show (v.cores[k]).level = .ok ∨ (v.cores[k]).level = .warn
    cases l : (v.cores[k]).level with
    | ok => exact .inl rfl
    | warn => exact .inr rfl
    | low => exact (low l).elim
    | earthFault => exact (earth l).elim

/-- Before its effects are spread, the start event of a controller without a fault has made no request. -/
theorem State.Fresh.startUp (f : s.Fresh) (raw : Vector Bool 32)
    (h : ∀ v, surveyOf (readImage answers .survey s.store.nvSurvey) = some v →
      ∀ k : CoreId, (v.cores[k]).level ≠ .low ∧ (v.cores[k]).level ≠ .earthFault)
    (standby : s.startsIn answers = .standby) : (s.startUp answers raw).Calmly .standby := by
  have notified : (s.started answers).Restores := by
    rw [s.started_eq]
    exact State.Restores.faults ⟨f.calmly standby, f.mild h⟩ (.notify _ _)
      fun k x m => by rw [State.notify_faults] at m; exact m
  have bus : (s.started answers).flashBus = false := by
    rw [s.started_eq, State.notify_flashBus]
    unfold State.startSet
    dsimp only
    rw [State.setAspects_flashBus]
    exact f.bus
  obtain ⟨entered, bus'⟩ := notified.startEntries
  have voids : ∀ v : State, v.Restores → v.judgeVoids.Restores ∧ v.judgeVoids.flashBus = v.flashBus := fun v x => by
    have set : State.Restores { v with inUse := v.inUse.setVoids v.work } := ⟨x.1.tame {}, x.2.of rfl fun _ _ => id⟩
    obtain ⟨o, g⟩ := State.judgeUsable_junction { v with inUse := v.inUse.setVoids v.work }
    exact ⟨set.faults o g, o.flashBus⟩
  have up : (s.startedUp answers).Calmly .standby := by
    unfold State.startedUp
    rw [(State.startsIn_standby standby).1]
    generalize (s.started answers).startEntries [] = v at entered bus'
    obtain ⟨judged, same⟩ := voids v entered
    rw [judged.1.1.startProofs (same.trans (bus'.trans bus))]
    exact judged.startSurvey
  rw [s.startUp_eq]
  generalize s.startedUp answers = v at up ⊢
  obtain ⟨w, e, -⟩ := v.startDetectors_eq raw
  rw [e]
  have detectors : State.Calmly .standby { v with dets := w } := up.tame {}
  exact detectors.supplyCommands (.inl rfl)

/-! ### The first frame sent -/

/-- The link of a start: STARTED is the first notice, and nothing goes before it. -/
structure State.Announces (n : Notice) (s : State) : Prop where
  notices : ∃ l, s.link.notices = n :: l
  tx      : s.link.tx = none
  busy    : s.link.busy = []
  slot    : s.link.slot = none
  job     : s.hasJob .commitConfig = false

theorem State.Announces.kept {n : Notice} (h : s.Announces n) (k : Kept s t) : t.Announces n where
  notices := by
    obtain ⟨l, e⟩ := h.notices
    obtain ⟨r, e'⟩ := k.notices
    exact ⟨l ++ r, by rw [e', e, List.cons_append]⟩
  tx := k.tx.trans h.tx
  busy := k.busy.trans h.busy
  slot := k.slot.trans h.slot
  job := k.hasConfigJob.trans h.job

theorem State.Fresh.announces (f : s.Fresh) (raw : Vector Bool 32) :
    (s.startUp answers raw).Announces (s.startedNotice answers) := by
  obtain ⟨-, -, link, -⟩ := s.startSet_frame answers
  rw [f.link] at link
  have first : (s.started answers).Announces (s.startedNotice answers) := by
    have e : (s.started answers).link = { Link.default with notices := [s.startedNotice answers] } := by
      rw [s.started_eq]
      unfold State.notify
      rw [link]
      rfl
    refine ⟨⟨[], by rw [e]⟩, by rw [e]; rfl, by rw [e]; rfl, by rw [e]; rfl, ?_⟩
    unfold State.hasJob State.job?
    rw [e]
    rfl
  have up : Kept (s.started answers) (s.startedUp answers) :=
    .of (Quiet.startSurvey _).toKept <| .of (Quiet.startProofs _).toKept <| .of (.judgeVoids _)
      (Quiet.startEntries _ _).toKept
  have up := first.kept up
  rw [s.startUp_eq]
  generalize s.startedUp answers = v at up ⊢
  obtain ⟨w, e, -⟩ := v.startDetectors_eq raw
  rw [e]
  have detectors : State.Announces (s.startedNotice answers) { v with dets := w } :=
    ⟨up.notices, up.tx, up.busy, up.slot, up.job⟩
  exact detectors.kept (Quiet.supplyCommands _).toKept

/-! ### The whole event -/

/-- What the end of an event leaves as it was. -/
theorem State.close_frame (s : State) : s.close.power = s.power ∧ s.close.now = s.now ∧ s.close.clock = s.clock
    ∧ s.close.staging = s.staging ∧ s.close.tod = s.tod ∧ s.close.edit = s.edit ∧ s.close.work = s.work
    ∧ s.close.inUse = s.inUse ∧ s.close.dets = s.dets ∧ s.close.mode = s.mode := by
  obtain ⟨m, l, st, e, -⟩ := s.close_spec
  rw [e]
  exact ⟨rfl, rfl, rfl, rfl, rfl, rfl, rfl, rfl, rfl, rfl⟩

/-- What the start event has set, and what is carried to its end. -/
theorem State.startEvent_carried (s : State) (answers : Bool) (raw : Vector Bool 32) :
    let t := s.startEvent answers raw
    s.StartedAs answers t
      ∧ (s.pendingSet = none → t.inUse
        = ((plansOf (readImage answers .plans s.store.nvPlans)).getD .empty).dropVoids.setVoids t.work)
      ∧ (∀ d : Det, (t.dets[d]).raw = raw[d]) ∧ t.mode.bringUp = (s.failedChecks answers).head?.getD .ok
      ∧ (s.startsIn answers ≠ .standby → t.mode.mode = s.startsIn answers)
      ∧ (s.startsIn answers = .failsafe → t.mode.cause = .bringUp) := by
  obtain ⟨as, ⟨b, same⟩, set, inUse, dets⟩ := s.startUp_frame answers raw
  obtain ⟨-, -, -, mode, bringUp, cause, -⟩ := s.startSet_frame answers
  have opening : (s.startUp answers raw).mode.mode.opening := by
    rw [same]
    show (s.startSet answers).mode.mode.opening
    rw [mode]
    exact startMode_opening _ _
  have kept : Kept (s.startUp answers raw) (s.spread (s.startUp answers raw)).autoStart :=
    .of (.autoStart _) (.spread _ s)
  obtain ⟨-, code, plans, stays⟩ := ((Opening.spread s _).trans (.autoStart _)) opening
  dsimp only
  rw [s.startEvent_eq]
  generalize (s.spread (s.startUp answers raw)).autoStart = x at kept code plans stays ⊢
  generalize s.startUp answers raw = u at as same set inUse dets kept code plans stays
  obtain ⟨power, now, clock, staging, tod, edit, work, use, det, m⟩ := x.close_frame
  have asEnd := as.kept kept
  have asEnd : s.StartedAs answers x.close :=
    ⟨by rw [power]; exact asEnd.phase, now.trans asEnd.now, clock.trans asEnd.clock, staging.trans asEnd.staging,
      tod.trans asEnd.tod, edit.trans asEnd.edit, by rw [work, edit]; exact asEnd.work⟩
  have umode : u.mode.mode = s.startsIn answers := by rw [same]; exact mode
  have ucause : u.mode.cause = (s.startSet answers).mode.cause := by rw [same]
  refine ⟨asEnd, fun n => ?_, fun d => ?_, ?_, fun n => ?_, fun f => ?_⟩
  · rw [use, work, (plans (set.trans n)).2, kept.work, inUse]
  · rw [det, kept.dets]
    exact dets d
  · rw [m, code, same]
    exact bringUp
  · have o : u.mode.mode = .unconfigured ∨ u.mode.mode = .failsafe := by
      rw [umode]
      unfold State.startsIn startMode at n ⊢
      split
      · exact .inl rfl
      · split
        · next a b => rw [if_neg a, if_pos b] at n; exact (n rfl).elim
        · exact .inr rfl
    rw [m, (stays o).1, umode]
  · rw [m, (stays (.inr (umode.trans f))).2, ucause]
    exact cause f

/-- The start of a controller to which nothing has happened: STARTED goes first, and without a fault the start ends in STANDBY or, by auto-start, in START_FLASH. -/
theorem State.Fresh.startEvent (f : s.Fresh) (raw : Vector Bool 32) :
    let t := s.startEvent answers raw
    (∃ lost, t.link.tx = some (.notice (s.startedNotice answers) lost))
      ∧ ((∀ v, surveyOf (readImage answers .survey s.store.nvSurvey) = some v →
          ∀ k : CoreId, (v.cores[k]).level ≠ .low ∧ (v.cores[k]).level ≠ .earthFault) →
        s.startsIn answers = .standby →
        t.mode.mode = if t.work.junction.autoStart = true ∧ t.inUse.usable = true then .startFlash else .standby) := by
  have announces := (f.announces (answers := answers) raw).kept (.spread _ s)
  obtain ⟨-, ⟨b, same⟩, set, -, -⟩ := s.startUp_frame answers raw
  obtain ⟨-, -, -, mode, bringUp, -, -⟩ := s.startSet_frame answers
  have calmly := fun h standby => (f.startUp raw (answers := answers) h standby).spread s (.inl rfl)
  have spread := Opening.spread s (s.startUp answers raw)
  have start := Opening.autoStart (s.spread (s.startUp answers raw))
  have kept := Kept.autoStart (s.spread (s.startUp answers raw))
  dsimp only
  rw [s.startEvent_eq]
  have last := announces.kept kept
  refine ⟨?_, fun h standby => ?_⟩
  · obtain ⟨l, e⟩ := last.notices
    exact ⟨_, State.close_tx last.tx last.busy last.slot e⟩
  · have calm := calmly h standby
    have opened := spread (.inr (.inl (f.startUp raw h standby).2))
    have code : (s.spread (s.startUp answers raw)).mode.bringUp = .ok := by
      rw [opened.bringUp, same]
      refine bringUp.trans ?_
      rw [(State.startsIn_standby standby).1]
      rfl
    have auto := calm.autoStart code announces.job
    obtain ⟨-, -, plans, -⟩ := start (.inr (.inl calm.2))
    have none := (opened.plans (set.trans f.set)).1
    generalize s.spread (s.startUp answers raw) = x at kept auto plans none ⊢
    obtain ⟨-, -, -, -, -, -, work, use, -, m⟩ := x.autoStart.close_frame
    rw [m, work, use, auto, kept.work, (plans none).2]

/-- Settles O40: the images and the start mode are taken, STARTED goes first, and the rest of the event keeps what they set. -/
theorem startEvent : Obligations.StartEvent := by
  intro s answers raw
  refine ⟨fun phase => ⟨s.startEvent answers raw, ?_, ?_⟩, fun k x => ⟨⟨rfl, ?_⟩, fun a b c => ?_, fun n => ?_⟩,
    fun k g c => readImage_valid (Stored.form_valid k g c), s.failedChecks_head answers, fun code => ⟨rfl, rfl⟩⟩
  · show execStartEvent answers raw s = _
    unfold execStartEvent
    rw [if_pos phase]
  · obtain ⟨⟨running, now, clock, staging, tod, edit, work⟩, inUse, dets, bringUp, mode, cause⟩ :=
      s.startEvent_carried answers raw
    refine ⟨running, now, clock, staging, tod, edit, work, inUse, dets, bringUp, fun f => ?_⟩
    obtain ⟨first, standby⟩ := f.startEvent (answers := answers) raw
    exact ⟨first, mode, cause, standby⟩
  · unfold readImage
    split <;> rfl
  · exact readImage_valid ((x.valid_iff k).mpr ⟨a, b, c⟩)
  · refine readImage_invalid fun v => ?_
    obtain ⟨a, b, c⟩ := (x.valid_iff k).mp v
    rcases n with n | n | n
    · exact n a
    · omega
    · exact n c

end Sys2Proof.Machine

/-! SUPPORT. The translation of a plan reference, step by step (R24, R26, R35, R36). -/

namespace Sys2Proof.Machine

variable {ps : PlanSet}

/-- A partial map over a list answers exactly where it answers on every member, member by member. -/
theorem mapM_eq_some_iff {α β : Type} {f : α → Option β} (l : List α) (xs : List β) :
    l.mapM f = some xs ↔ l.map f = xs.map some := by
  induction l generalizing xs with
  | nil => cases xs <;> simp
  | cons a l ih =>
    rw [List.mapM_cons, List.map_cons]
    cases xs with
    | nil => cases f a <;> cases l.mapM f <;> simp
    | cons x xs =>
      rw [List.map_cons, List.cons_eq_cons, ← ih]
      cases f a <;> cases l.mapM f <;> simp

theorem mapM_eq_none {α β : Type} {f : α → Option β} {l : List α} {a : α} (m : a ∈ l) (h : f a = none) :
    l.mapM f = none := by
  rw [Option.eq_none_iff_forall_ne_some]
  intro xs e
  have known : f a ∈ xs.map some := (mapM_eq_some_iff l xs).mp e ▸ List.mem_map_of_mem m
  rw [h] at known
  simp at known

theorem mapM_isSome {α β : Type} {f : α → Option β} (l : List α) (h : ∀ a ∈ l, f a ≠ none) :
    ∃ xs, l.mapM f = some xs := by
  induction l with
  | nil => exact ⟨[], rfl⟩
  | cons a l ih =>
    obtain ⟨x, hx⟩ := Option.ne_none_iff_exists'.mp (h a (by simp))
    obtain ⟨xs, e⟩ := ih fun b m => h b (by simp [m])
    exact ⟨x :: xs, by rw [List.mapM_cons, hx, e]; rfl⟩

/-- A stage definition is defined where it is not void and names a group (R24). -/
theorem StageDef.defined_iff {d : StageDef} : d.defined = true ↔ d.void = false ∧ ∃ g : Group, d.groups[g] = true := by
  unfold StageDef.defined
  rw [Bool.and_eq_true, Bool.not_eq_true', StageDef.written_iff, and_comm]

/-- A record of the pool is resolved through its stage definition, where it names one that is defined (R36). -/
theorem PlanSet.resolveRecord_of_stage {n : Nat} {r : StageRecord} {st : Fin 16} (h : ps.pool[n - 1]? = some r)
    (k : r.stage = some st) : ps.resolveRecord n
      = if (ps.stages[st]).defined then some ⟨st, r.mode, r.min, r.max, r.gap, (ps.stages[st]).groups⟩ else none := by
  unfold PlanSet.resolveRecord
  simp only [h, k]

/-- The five steps of a translation, by the entry that the reference names (R35). -/
theorem PlanSet.translate_of_plan {ref : PlanRef} {p : Fin 16} (h : ref.plan = p.val + 1) :
    (ps.dir[p] = none → ps.translate ref = .error .planAbsent)
    ∧ ∀ e, ps.dir[p] = some e →
      (e.valid = false → ps.translate ref = .error .planInvalid)
      ∧ (e.valid = true → ref.tag ≠ 0 → ref.tag ≠ e.tag → ps.translate ref = .error .planTagMismatch)
      ∧ (e.valid = true → (ref.tag = 0 ∨ ref.tag = e.tag) → ps.translate ref =
        if ps.pool.length < e.first + e.count - 1 ∨ e.count < e.start then .error .stageTranslation
        else (((List.range e.count).mapM fun i => ps.resolveRecord (e.first + i)).map fun l =>
          (⟨ref, ref.plan, e.tag, e.kind, e.start, l⟩ : ResolvedPlan)).elim (.error .stageTranslation) .ok) := by
  unfold PlanSet.translate
  rw [h, index?_succ]
  refine ⟨fun a => by simp only [a], fun e a => ?_⟩
  simp only [a]
  refine ⟨fun v => by simp [v], fun v t u => by simp [v, t, u], fun v t => ?_⟩
  rw [if_neg (by simp [v]), if_neg (by omega)]
  split
  · rfl
  · cases (List.range e.count).mapM fun i => ps.resolveRecord (e.first + i) <;> rfl

/-- Settles O29: the record through its stage definition, and the reference step by step. -/
theorem translation : Obligations.Translation := by
  refine ⟨fun ps n => ⟨fun h => ?_, fun r h => ⟨fun k => ?_, fun st k => ?_⟩⟩,
    fun ps ref => ⟨fun h => ?_, fun p h => ⟨(ps.translate_of_plan h).1, fun e a => ?_⟩⟩⟩
  · unfold PlanSet.resolveRecord
    rw [h]
  · unfold PlanSet.resolveRecord
    simp only [h, k]
  · rw [PlanSet.resolveRecord_of_stage h k]
    refine ⟨fun n => if_neg ?_, fun v g => if_pos (StageDef.defined_iff.mpr ⟨v, g⟩)⟩
    rintro d
    obtain ⟨v, g, hg⟩ := StageDef.defined_iff.mp d
    rcases n with n | n
    · exact absurd (n.symm.trans v) (by simp)
    · exact absurd (hg.symm.trans (n g)) (by simp)
  · unfold PlanSet.translate
    rw [index?_none h]
  · obtain ⟨invalid, mismatch, found⟩ := (PlanSet.translate_of_plan h).2 e a
    refine ⟨invalid, mismatch, fun v t => ?_⟩
    rw [found v t]
    refine ⟨fun bounds => if_pos bounds, fun b c => ?_⟩
    rw [if_neg (by omega)]
    refine ⟨fun ⟨i, lt, void⟩ => ?_, fun all => ?_⟩
    · rw [mapM_eq_none (List.mem_range.mpr lt) void]
      rfl
    · obtain ⟨l, hl⟩ := mapM_isSome (f := fun i => ps.resolveRecord (e.first + i)) (List.range e.count)
        fun i m => all i (List.mem_range.mp m)
      have records := (mapM_eq_some_iff _ l).mp hl
      refine ⟨l, by rw [hl]; rfl, ?_, fun i lt => ?_⟩
      · simpa using (congrArg List.length records).symm
      · have at_i := congrArg (·[i]?) records
        simp only [List.getElem?_map, List.getElem?_range lt, Option.map_some] at at_i
        cases x : l[i]? with
        | none => rw [x] at at_i; cases at_i
        | some r => rw [x] at at_i; exact (Option.some.inj at_i).symm

end Sys2Proof.Machine

/-! SUPPORT. The plan requests: PLAN_WRITE (R30 to R34), the commits (R39, R179) and READ_PLAN (R45). -/

namespace Sys2Proof.Machine

variable {s : State}

/-! ### A PLAN_WRITE item (R30, R177) -/

/-- How a PLAN_WRITE item is answered whose checks give x: with the staging copy and the item that they give, or refused. -/
structure State.PlanAnswers (s : State) (i : Instr) {α : Type} (x : Option α) (set : α → PlanSet) (item : α → ReplyBody) :
    Prop where
  written : ∀ a, x = some a → s.hasJob .commitPlans = false →
    exec i s = .next (State.replied { s with staging := set a } (requestTag i) .ok (item a))
  refused : x = none → exec i s = .next (s.replied (requestTag i) .refusedValue .empty)
  busy    : ∀ a, x = some a → s.hasJob .commitPlans = true →
    exec i s = .next (s.replied (requestTag i) .refusedBusy .empty)

theorem State.planAnswers {α : Type} {x : Option α} {set : α → PlanSet} {item : α → ReplyBody} {act : State → Answer}
    (t : s.takes) (i : Instr) (e : exec i s = .next (s.arrive i act false))
    (k : act s = s.planWith x fun a => (s.setStaging fun _ => set a).ok (item a)) : s.PlanAnswers i x set item := by
  have answer {u : State} {st : Status} {b : ReplyBody} (h : s.planWith x _ = (u, st, b)) :
      exec i s = .next (u.replied (requestTag i) st b) := e.trans (State.arrive_answer t i (k.trans h))
  unfold State.planWith at answer
  refine ⟨fun a h j => answer ?_, fun h => answer ?_, fun a h j => answer ?_⟩
  · rw [h, j]
    rfl
  · rw [h]
    rfl
  · rw [h, j]
    rfl

/-- What the checks of a RECORD item give (R32). -/
def State.recordChecked (s : State) (p : Nat) (f : RecordFields) : Option StageRecord :=
  if decide (1 ≤ p) && decide (p ≤ s.staging.pool.length + 1) && decide (p ≤ 192) then checkRecord f else none

section
variable (t : s.takes) (tag : Byte)
include t

theorem State.stageAnswers (st : Nat) (gs : GroupSet) : s.PlanAnswers (.planWriteStage tag st gs) (index? 16 st)
    (fun i => { s.staging with stages := s.staging.stages.set i ⟨gs, false⟩ }) fun i => .stageItem i gs :=
  State.planAnswers t (.planWriteStage tag st gs) (act := State.doWriteStage st gs) rfl rfl

theorem State.recordAnswers (p : Nat) (f : RecordFields) : s.PlanAnswers (.planWriteRecord tag p f) (s.recordChecked p f)
    (fun r => { s.staging with pool := putRecord s.staging.pool p r }) fun r => .recordItem p r :=
  State.planAnswers t (.planWriteRecord tag p f) (act := State.doWriteRecord p f) rfl rfl

theorem State.poolLengthAnswers (n : Nat) :
    s.PlanAnswers (.planWritePoolLength tag n) (if n ≤ 192 then some n else none)
      (fun n => { s.staging with pool := setPoolLength s.staging.pool n }) fun n => .poolLength n :=
  State.planAnswers t (.planWritePoolLength tag n) (act := State.doWritePoolLength n) rfl rfl

theorem State.entryAnswers (p : Nat) (f : Option EntryFields) :
    s.PlanAnswers (.planWriteEntry tag p f) (both (index? 16 p) (entryOf f))
      (fun x => { s.staging with dir := s.staging.dir.set x.1 x.2 }) fun x => .entryItem x.1 x.2 :=
  State.planAnswers t (.planWriteEntry tag p f) (act := State.doWriteEntry p f) rfl rfl

theorem State.copyAnswers (c : Option CopySource) :
    s.PlanAnswers (.planWriteCopy tag c) (s.copySource c) (fun p => p) fun p => .planSet p :=
  State.planAnswers t (.planWriteCopy tag c) (act := State.doWriteCopy c) rfl rfl

end

/-! ### The checks of the items (R32, R33) -/

theorem checkRecord_some {f : RecordFields} {st : Fin 16} {m : CallMode} (a : f.stage = st.val + 1) (b : f.mode = some m)
    (h : 50 ≤ f.min ∧ f.min ≤ 1200 ∧ f.min ≤ f.max ∧ f.max ≤ 2400 ∧ f.gap ≤ 100) :
    checkRecord f = some ⟨some st, m, f.min, f.max, f.gap⟩ := by
  unfold checkRecord
  rw [a, b, index?_succ]
  dsimp only
  rw [if_pos]
  simp only [Bool.and_eq_true, within_iff, decide_eq_true_eq]
  omega

theorem checkRecord_isSome {f : RecordFields} (h : (checkRecord f).isSome = true) : 1 ≤ f.stage ∧ f.stage ≤ 16 ∧ f.mode ≠ none
    ∧ 50 ≤ f.min ∧ f.min ≤ 1200 ∧ f.min ≤ f.max ∧ f.max ≤ 2400 ∧ f.gap ≤ 100 := by
  unfold checkRecord at h
  split at h
  · next st m a b =>
    obtain ⟨lo, hi⟩ := index?_isSome.mp (Option.isSome_of_eq_some a)
    split at h
    · next c =>
      simp only [Bool.and_eq_true, within_iff, decide_eq_true_eq] at c
      exact ⟨lo, hi, by simp [b], by omega⟩
    · cases h
  · cases h

theorem State.recordChecked_some {p : Nat} {f : RecordFields} {st : Fin 16} {m : CallMode}
    (k : 1 ≤ p ∧ p ≤ s.staging.pool.length + 1 ∧ p ≤ 192) (a : f.stage = st.val + 1) (b : f.mode = some m)
    (h : 50 ≤ f.min ∧ f.min ≤ 1200 ∧ f.min ≤ f.max ∧ f.max ≤ 2400 ∧ f.gap ≤ 100) :
    s.recordChecked p f = some ⟨some st, m, f.min, f.max, f.gap⟩ := by
  unfold State.recordChecked
  rw [if_pos (by simp [k]), checkRecord_some a b h]

theorem State.recordChecked_none {p : Nat} {f : RecordFields} (h : p < 1 ∨ s.staging.pool.length + 1 < p ∨ 192 < p
    ∨ f.stage < 1 ∨ 16 < f.stage ∨ f.mode = none ∨ f.min < 50 ∨ 1200 < f.min ∨ f.max < f.min ∨ 2400 < f.max ∨ 100 < f.gap) :
    s.recordChecked p f = none := by
  unfold State.recordChecked
  split
  · next k =>
    simp only [Bool.and_eq_true, decide_eq_true_eq] at k
    rw [← Option.not_isSome_iff_eq_none]
    intro c
    obtain ⟨lo, hi, mode, ranges⟩ := checkRecord_isSome c
    rcases h with h | h | h | h | h | h | h
    any_goals omega
    exact mode h
  · rfl

theorem checkEntry_some {f : EntryFields} {k : PlanKind} (a : f.kind = some k) (h : 1 ≤ f.tag ∧ f.tag ≤ 255 ∧ 1 ≤ f.first
    ∧ f.first ≤ 192 ∧ 1 ≤ f.count ∧ f.count ≤ 12 ∧ 1 ≤ f.start ∧ f.start ≤ 12) :
    checkEntry f = some ⟨f.valid, k, f.tag, f.first, f.count, f.start⟩ := by
  unfold checkEntry
  rw [a]
  dsimp only
  rw [if_pos]
  simp only [Bool.and_eq_true, within_iff]
  omega

theorem checkEntry_none {f : EntryFields} (h : f.kind = none ∨ f.tag < 1 ∨ 255 < f.tag ∨ f.first < 1 ∨ 192 < f.first
    ∨ f.count < 1 ∨ 12 < f.count ∨ f.start < 1 ∨ 12 < f.start) : checkEntry f = none := by
  unfold checkEntry
  split
  · rfl
  · next k a =>
    rw [if_neg]
    simp only [Bool.and_eq_true, within_iff]
    rcases h with h | h
    · simp [a] at h
    · omega

theorem entryChecked_some (p : Fin 16) {f : EntryFields} {k : PlanKind} (a : f.kind = some k) (h : 1 ≤ f.tag ∧ f.tag ≤ 255
    ∧ 1 ≤ f.first ∧ f.first ≤ 192 ∧ 1 ≤ f.count ∧ f.count ≤ 12 ∧ 1 ≤ f.start ∧ f.start ≤ 12) :
    both (index? 16 (p.val + 1)) (entryOf (some f))
      = some (p, some ⟨f.valid, k, f.tag, f.first, f.count, f.start⟩) := by
  have entry : entryOf (some f) = some (some ⟨f.valid, k, f.tag, f.first, f.count, f.start⟩) :=
    congrArg (Option.map some) (checkEntry_some a h)
  rw [index?_succ, entry]
  rfl

theorem entryChecked_absent (p : Fin 16) : both (index? 16 (p.val + 1)) (entryOf none) = some (p, none) := by
  rw [index?_succ]
  rfl

/-! ### PLAN_WRITE -/

/-- Settles O27: the item is written to the staging copy, or its number lies outside 1 to 16. -/
theorem stageItem : Obligations.StageItem := by
  intro tag st gs s t
  have answers := State.stageAnswers t tag st gs
  refine ⟨fun i h j => ⟨answers.written i (h ▸ index?_succ i) j, fun none => ?_⟩, fun h => answers.refused (index?_none h)⟩
  rw [← Bool.not_eq_true, StageDef.defined_iff]
  rintro ⟨-, g, hg⟩
  exact absurd (hg.symm.trans (none g)) (by simp)

/-- Settles O28: each item is answered by what its checks give. -/
theorem planWrites : Obligations.PlanWrites := by
  have pool : ∀ n, n ≤ 192 → (if n ≤ 192 then some n else none) = some n := fun n h => if_pos h
  have pending : ∀ {s : State} {q}, s.pendingSet = some q → s.copySource (some .pending) = some q.set.dropVoids :=
    fun h => by unfold State.copySource; simp [h]
  refine ⟨fun tag s t j => ⟨fun st gs => ?_, fun p f st m a b c d e mn mx lo hi g => ?_, fun n h => ?_, fun p => ?_,
      fun p f k a b c d e g h i l => ?_, ?_, fun q h => ?_, ?_⟩,
    fun tag s t => ⟨fun st gs h => ?_, fun p f h => ?_, fun n h => ?_, fun p f h => ?_, ?_, fun h => ?_, fun j =>
      ⟨fun st gs => ?_, fun n h => ?_, fun p f st m a b c d e mn mx lo hi g => ?_, fun p => ?_,
        fun p f k a b c d e g h i l => ?_, fun q h => ?_, ?_, ?_⟩⟩⟩
  · exact (State.stageAnswers t tag _ gs).written st (index?_succ st) j
  · exact (State.recordAnswers t tag p f).written _ (State.recordChecked_some ⟨a, b, c⟩ d e ⟨mn, mx, lo, hi, g⟩) j
  · exact (State.poolLengthAnswers t tag n).written n (pool n h) j
  · exact (State.entryAnswers t tag _ none).written (p, none) (entryChecked_absent p) j
  · have checked := entryChecked_some p a ⟨b, c, d, e, g, h, i, l⟩
    exact (State.entryAnswers t tag _ (some f)).written (p, some ⟨f.valid, k, f.tag, f.first, f.count, f.start⟩) checked j
  · exact (State.copyAnswers t tag (some .inUse)).written _ rfl j
  · exact (State.copyAnswers t tag (some .pending)).written _ (pending h) j
  · exact (State.copyAnswers t tag (some .empty)).written _ rfl j
  · exact (State.stageAnswers t tag st gs).refused (index?_none h)
  · exact (State.recordAnswers t tag p f).refused (State.recordChecked_none h)
  · exact (State.poolLengthAnswers t tag n).refused (if_neg (by omega))
  · refine (State.entryAnswers t tag p f).refused ?_
    rcases h with h | h | ⟨x, rfl, h⟩
    · rw [index?_none (.inl h), both_none_left]
    · rw [index?_none (.inr h), both_none_left]
    · have entry : entryOf (some x) = none := congrArg (Option.map some) (checkEntry_none h)
      rw [entry, both_none_right]
  · exact (State.copyAnswers t tag none).refused rfl
  · exact (State.copyAnswers t tag (some .pending)).refused (by unfold State.copySource; simp [h])
  · exact (State.stageAnswers t tag _ gs).busy st (index?_succ st) j
  · exact (State.poolLengthAnswers t tag n).busy n (pool n h) j
  · exact (State.recordAnswers t tag p f).busy _ (State.recordChecked_some ⟨a, b, c⟩ d e ⟨mn, mx, lo, hi, g⟩) j
  · exact (State.entryAnswers t tag _ none).busy _ (entryChecked_absent p) j
  · exact (State.entryAnswers t tag _ (some f)).busy _ (entryChecked_some p a ⟨b, c, d, e, g, h, i, l⟩) j
  · exact (State.copyAnswers t tag (some .pending)).busy _ (pending h) j
  · exact (State.copyAnswers t tag (some .empty)).busy _ rfl j
  · exact (State.copyAnswers t tag (some .inUse)).busy _ rfl j

/-! ### The commits (R39, R179) -/

/-- A job that has just been entered, of a kind that the table did not hold, leaves it again. -/
theorem State.addJob_endJob {k : JobKind} (l : Timer) (r : JobResult) (items : JobItems) (h : s.hasJob k = false) :
    (s.addJob k l).endJob k r items
      = State.notify { s with link := { s.link with
          nextJob := nextNumber (s.link.jobs ++ [⟨s.link.nextJob, k, l, []⟩]) 5 s.link.nextJob } }
        (.jobDone s.link.nextJob k r items) := by
  have absent : s.link.jobs.find? (·.kind = k) = none := by
    simpa [State.hasJob, State.job?] using h
  have entered : (s.addJob k l).job? k = some ⟨s.link.nextJob, k, l, []⟩ := by
    unfold State.job? State.addJob
    dsimp only
    rw [List.find?_append, absent]
    simp
  have left : (s.link.jobs ++ [(⟨s.link.nextJob, k, l, []⟩ : Job)]).filter (·.kind ≠ k) = s.link.jobs := by
    have others : s.link.jobs.filter (·.kind ≠ k) = s.link.jobs :=
      List.filter_eq_self.mpr fun j m => by simpa using List.find?_eq_none.mp absent j m
    rw [List.filter_append, others]
    simp
  rw [((s.addJob k l).endJob_spec k r items).2 _ entered]
  unfold State.addJob
  dsimp only
  rw [left]

theorem State.doCommitConfig_editable (h : s.editable) : s.doCommitConfig =
    (s.edit.validate.elim ((s.addJob .commitConfig none).placeStore .config)
      fun r => (s.addJob .commitConfig none).endJob .commitConfig r .none, .inProgress, .jobNumber s.link.nextJob) := by
  unfold State.doCommitConfig
  rw [s.editGate_none_iff.mpr h]
  dsimp only
  cases s.edit.validate <;> rfl

theorem State.doCommitConfig_refused {st : Status} (h : s.editGate = some st) : s.doCommitConfig = s.refuse st := by
  unfold State.doCommitConfig
  rw [h]

theorem State.doCommitPlans_idle (h : s.hasJob .commitPlans = false) : s.doCommitPlans =
    ((s.staging.validate s.work).elim ((s.addJob .commitPlans none).placeStore .plans)
      fun r => (s.addJob .commitPlans none).endJob .commitPlans r .none, .inProgress, .jobNumber s.link.nextJob) := by
  unfold State.doCommitPlans
  rw [h]
  dsimp only
  cases s.staging.validate s.work <;> rfl

/-- Settles O24: the job is entered and the write placed, or the job ended at its first failing item. -/
theorem commitRequests : Obligations.CommitRequests := by
  refine ⟨fun tag s t => ⟨fun e v => ?_, fun r e v => ?_, fun a b => ?_, fun m j => ?_⟩,
    fun tag s t => ⟨fun j v => ?_, fun r j v => ?_, fun j => ?_⟩⟩
  · exact State.arrive_answer t (.commitConfig tag) (by rw [State.doCommitConfig_editable e, v]; rfl)
  · refine State.arrive_answer t (.commitConfig tag) ?_
    rw [State.doCommitConfig_editable e, v, ← State.addJob_endJob none r .none e.2]
    rfl
  · exact State.arrive_answer t (.commitConfig tag) (State.doCommitConfig_refused (by unfold State.editGate; rw [if_pos ⟨a, b⟩]))
  · refine State.arrive_answer t (.commitConfig tag) (State.doCommitConfig_refused ?_)
    unfold State.editGate
    rw [if_neg fun ⟨a, b⟩ => m.elim a b, if_pos j]
  · exact State.arrive_answer t (.commitPlans tag) (by rw [State.doCommitPlans_idle j, v]; rfl)
  · exact State.arrive_answer t (.commitPlans tag) (by rw [State.doCommitPlans_idle j, v]; rfl)
  · exact State.arrive_answer t (.commitPlans tag) (by unfold State.doCommitPlans; rw [if_pos j]; rfl)

/-! ### READ_PLAN (R45) -/

theorem State.doReadPlan_copy {c : PlanCopy} {item : PlanItem} {ps : PlanSet} (ok : planItemOk item = true)
    (h : s.planCopy c = some ps) : s.doReadPlan (some c) item = s.readItem c ps item := by
  unfold State.doReadPlan
  dsimp only
  rw [if_pos ok, h]

theorem State.doReadPlan_absent {c : PlanCopy} {item : PlanItem} (ok : planItemOk item = true) (h : s.planCopy c = none) :
    s.doReadPlan (some c) item = s.ok .copyAbsent := by
  unfold State.doReadPlan
  dsimp only
  rw [if_pos ok, h]

theorem State.doReadPlan_refused {c : Option PlanCopy} {item : PlanItem} (h : c = none ∨ planItemOk item = false) :
    s.doReadPlan c item = s.refuse .refusedValue := by
  unfold State.doReadPlan
  rcases h with rfl | h
  · rfl
  · cases c with
    | none => rfl
    | some c => dsimp only; rw [h]; rfl

theorem planItemOk_plan {ref : PlanRef} : planItemOk (.plan ref) = true ↔ ref.plan ≤ 255 ∧ ref.tag ≤ 255 := by
  simp [planItemOk, refOk]

theorem planItemOk_stage {n : Nat} : planItemOk (.stage n) = true ↔ 1 ≤ n ∧ n ≤ 16 := within_iff

theorem planItemOk_record {n : Nat} : planItemOk (.record n) = true ↔ 1 ≤ n ∧ n ≤ 192 := within_iff

theorem State.readItem_record {c : PlanCopy} {ps : PlanSet} {n : Nat} (h : 1 ≤ n) : s.readItem c ps (.record n)
    = (ps.pool[n - 1]?).elim (s.refuse .refusedValue) fun r => s.ok (.recordView r) := by
  unfold State.readItem
  dsimp only
  rw [if_neg (by omega)]
  cases ps.pool[n - 1]? <;> rfl

theorem State.readItem_stage {c : PlanCopy} {ps : PlanSet} (st : Fin 16) : s.readItem c ps (.stage (st.val + 1))
    = s.ok (.stageView (ps.stages[st]).groups (if c = .staging then none else some (ps.stages[st]).void)) := by
  unfold State.readItem
  dsimp only
  rw [index?_succ]

theorem State.readItem_directory {c : PlanCopy} {ps : PlanSet} : s.readItem c ps .directory
    = s.ok (.directory ⟨ps.dir, ps.pool.length, if c = .inUse then some ps.usable else none,
        if c = .inUse then some s.pendingSet.isSome else none⟩) := by
  unfold State.readItem
  simp only [decide_eq_true_eq]

/-- Settles O30: the copy is read item by item, is absent, or the fields lie outside their ranges. -/
theorem readPlan : Obligations.ReadPlan := by
  intro tag s t
  refine ⟨fun copy ps hc => ?_, fun p => ?_, fun item none h => ?_, fun copy item h => ?_⟩
  · have read : s.planCopy copy = some ps := by
      unfold State.planCopy
      rcases hc with ⟨rfl, rfl⟩ | ⟨rfl, rfl⟩ | ⟨rfl, q, h, rfl⟩
      · rfl
      · rfl
      · dsimp only; rw [h]; rfl
    have answer : ∀ {item : PlanItem} {st : Status} {b : ReplyBody}, planItemOk item = true →
        s.readItem copy ps item = (s, st, b) → exec (.readPlan tag (some copy) item) s = .next (s.replied tag st b) :=
      fun ok h => State.arrive_answer t (.readPlan tag (some copy) _) ((State.doReadPlan_copy ok read).trans h)
    refine ⟨fun ref p a b h => answer (planItemOk_plan.mpr ⟨a, b⟩) ?_, fun ref k a b h => answer (planItemOk_plan.mpr ⟨a, b⟩) ?_,
      answer rfl State.readItem_directory, fun st => answer (planItemOk_stage.mpr (by omega)) (State.readItem_stage st),
      fun n r a b h => answer (planItemOk_record.mpr ⟨a, b⟩) ?_, fun n h => ?_⟩
    · unfold State.readItem
      dsimp only
      rw [h]
      rfl
    · unfold State.readItem
      dsimp only
      rw [h]
      rfl
    · rw [State.readItem_record a, h]
      rfl
    · by_cases range : 1 ≤ n ∧ n ≤ 192
      · refine answer (planItemOk_record.mpr range) ?_
        rw [State.readItem_record range.1, List.getElem?_eq_none (by omega)]
        rfl
      · refine State.arrive_answer t (.readPlan tag (some copy) (.record n)) (State.doReadPlan_refused (.inr ?_))
        rwa [← Bool.not_eq_true, planItemOk_record]
  · rfl
  · have ok : planItemOk item = true := by
      rcases h with ⟨ref, rfl, r⟩ | rfl | ⟨n, rfl, r⟩ | ⟨n, rfl, r⟩
      · exact planItemOk_plan.mpr r
      · rfl
      · exact planItemOk_stage.mpr r
      · exact planItemOk_record.mpr r
    refine State.arrive_answer t (.readPlan tag (some .pending) item) (State.doReadPlan_absent ok ?_)
    unfold State.planCopy
    dsimp only
    rw [none]
    rfl
  · refine State.arrive_answer t (.readPlan tag copy item) (State.doReadPlan_refused ?_)
    rcases h with h | rfl | ⟨ref, rfl, r⟩ | ⟨n, rfl, r⟩ | ⟨n, rfl, r⟩
    · exact .inl h
    · exact .inr rfl
    · refine .inr ?_
      rw [← Bool.not_eq_true, planItemOk_plan]
      omega
    · refine .inr ?_
      rw [← Bool.not_eq_true, planItemOk_stage]
      omega
    · refine .inr ?_
      rw [← Bool.not_eq_true, planItemOk_record]
      omega

end Sys2Proof.Machine

/-! SUPPORT. What a request frame stands for once taken (R30, R174, R177). -/

namespace Sys2Proof.Machine

variable {s : State} {tag : Byte}

/-! ### Numbers as bits (R174) -/

theorem msbBits_length (n x : Nat) : (msbBits n x).length = n := by
  induction n with
  | zero => rfl
  | succ n ih => rw [msbBits, List.length_cons, ih]

theorem bitsNat_append (l m : List Bool) : bitsNat (l ++ m) = bitsNat l * 2 ^ m.length + bitsNat m := by
  induction m using List.reverseRecOn with
  | nil => simp [bitsNat]
  | append_singleton m b ih =>
    have last : ∀ k : List Bool, bitsNat (k ++ [b]) = 2 * bitsNat k + b.toNat := fun k => by simp [bitsNat]
    rw [← List.append_assoc, last, last, ih, List.length_append, List.length_singleton, pow_succ]
    ring

/-- The bits of a number spell it, as far as they go. -/
theorem bitsNat_msbBits (n x : Nat) : bitsNat (msbBits n x) = x % 2 ^ n := by
  induction n with
  | zero => simp [msbBits, bitsNat, Nat.mod_one]
  | succ n ih =>
    have first : bitsNat [x.testBit n] = (x.testBit n).toNat := by simp [bitsNat]
    rw [msbBits, ← List.singleton_append, bitsNat_append, msbBits_length, ih, first, Nat.mod_pow_succ,
      Nat.toNat_testBit]
    ring

theorem payloadBits_append (a b : List Byte) : payloadBits (a ++ b) = payloadBits a ++ payloadBits b :=
  List.flatMap_append

theorem payloadBits_length (l : List Byte) : (payloadBits l).length = 8 * l.length := by
  induction l with
  | nil => rfl
  | cons b l ih =>
    rw [← List.singleton_append, payloadBits_append, List.length_append, ih, List.length_append]
    have one : (payloadBits [b]).length = 8 := by simp [payloadBits, msbBits_length]
    rw [one, List.length_singleton]
    omega

/-- The bytes of a number, most significant first, spell it. -/
theorem bitsNat_bigEndian (n x : Nat) : bitsNat (payloadBits (bigEndian n x)) = x % 256 ^ n := by
  induction n generalizing x with
  | zero => simp [bigEndian, payloadBits, bitsNat, Nat.mod_one]
  | succ n ih =>
    have byte : bitsNat (payloadBits [BitVec.ofNat 8 (x / 256 ^ n)]) = x / 256 ^ n % 256 := by
      simp [payloadBits, bitsNat_msbBits]
    have width : 2 ^ (8 * n) = 256 ^ n := by rw [pow_mul]; norm_num
    rw [bigEndian, ← List.singleton_append, payloadBits_append, bitsNat_append, payloadBits_length, bigEndian_length,
      byte, ih, width, pow_succ, Nat.mod_mul]
    ring

/-- A number that stands in a payload is read from its bits. -/
theorem readBits_bigEndian (a b : List Byte) {n x : Nat} (h : x < 256 ^ n) :
    readBits (a ++ bigEndian n x ++ b) (8 * a.length) (8 * n) = some x := by
  have inside : 8 * a.length + 8 * n ≤ 8 * (a ++ bigEndian n x ++ b).length := by
    simp only [List.length_append, bigEndian_length]
    omega
  unfold readBits
  rw [if_pos inside, List.append_assoc, payloadBits_append, List.drop_left' (payloadBits_length a), payloadBits_append,
    List.take_left' (by rw [payloadBits_length, bigEndian_length]), bitsNat_bigEndian, Nat.mod_eq_of_lt h]

/-! ### Places in a payload (R177) -/

theorem readBits_inside {payload : List Byte} {o w : Nat} (h : o + w ≤ 8 * payload.length) :
    ∃ x, readBits payload o w = some x := ⟨_, if_pos h⟩

theorem readBits_outside {payload : List Byte} {o w : Nat} (h : 8 * payload.length < o + w) :
    readBits payload o w = none := if_neg (by omega)

/-- Where every place lies in the payload, each is read. -/
theorem readPlaces_inside {payload : List Byte} {l : List (Option (Nat × Nat))}
    (h : ∀ o w, some (o, w) ∈ l → o + w ≤ 8 * payload.length) :
    readPlaces payload l = some (l.map fun x => x.bind fun y => readBits payload y.1 y.2) := by
  induction l with
  | nil => rfl
  | cons p l ih =>
    have rest := ih fun o w m => h o w (by simp [m])
    cases p with
    | none => rw [readPlaces, rest]; rfl
    | some y =>
      obtain ⟨o, w⟩ := y
      obtain ⟨x, e⟩ := readBits_inside (h o w (by simp))
      simp only [readPlaces, rest, e, List.map_cons, Option.bind_some]

/-- Where a place does not lie in the payload, none is read. -/
theorem readPlaces_outside {payload : List Byte} {l : List (Option (Nat × Nat))} {o w : Nat} (m : some (o, w) ∈ l)
    (h : 8 * payload.length < o + w) : readPlaces payload l = none := by
  induction l with
  | nil => cases m
  | cons p l ih =>
    cases p with
    | none =>
      rcases List.mem_cons.mp m with e | m
      · cases e
      · rw [readPlaces, ih m]; rfl
    | some y =>
      rcases List.mem_cons.mp m with e | m
      · cases e
        simp only [readPlaces, readBits_outside h]
      · simp only [readPlaces, ih m]
        cases readBits payload y.1 y.2 <;> rfl

theorem needed_map_some (l : List Nat) : needed (l.map some) = l := by
  unfold needed
  rw [if_pos (by simp)]
  simp

/-- A field names one of the values whose code it is, and none where it is the code of none. -/
theorem nameIn_spec {α : Type} (values : List α) (f : α → Named) (v : Nat) :
    (∀ y, nameIn values f v = some y → Config.nameCode (f y) = v)
    ∧ (nameIn values f v = none → ∀ y ∈ values, Config.nameCode (f y) ≠ v) := by
  refine ⟨fun y h => ?_, fun h y m => ?_⟩
  · simpa [isName] using List.find?_some h
  · simpa [isName] using List.find?_eq_none.mp h y m

theorem isWord_self (w : String) : isWord w (Config.nameCode (.word w)) = true := decide_eq_true rfl

theorem isWord_false {w : String} {x : Nat} (h : Config.nameCode (.word w) ≠ x) : isWord w x = false := decide_eq_false h

/-! ### The request that a code and its fields spell -/

/-- What has been read, where it is a request, has the code and the TAG of its frame. -/
def Spells (tag : Byte) (code : Nat) (x : Option Instr) : Prop := ∀ i, x = some i → requestCode i = code ∧ requestTag i = tag

namespace Spells

variable {n : Nat}

@[simp] theorem none : Spells tag n none := fun _ h => nomatch h

@[simp] theorem some_iff {i : Instr} : Spells tag n (some i) ↔ requestCode i = n ∧ requestTag i = tag :=
  ⟨fun h => h i rfl, fun h _ e => Option.some.inj e ▸ h⟩

theorem map {α : Type} {f : α → Instr} (x : Option α) (h : ∀ a, requestCode (f a) = n ∧ requestTag (f a) = tag) :
    Spells tag n (x.map f) := by
  cases x with
  | none => exact none
  | some a => exact some_iff.mpr (h a)

theorem ite {p : Prop} [Decidable p] {x y : Option Instr} (h : Spells tag n x) (k : Spells tag n y) :
    Spells tag n (if p then x else y) := by split <;> assumption

variable (read : FormReader)

theorem setChannel : Spells tag 4 (readSetChannel tag read) := by
  unfold readSetChannel
  split
  · split <;> split <;> simp [requestCode, requestTag]
  · exact none

theorem setCore : Spells tag 5 (readSetCore tag read) := by
  unfold readSetCore
  split
  · split
    · split <;> simp [requestCode, requestTag]
    · simp [requestCode, requestTag]
  · exact none

theorem setResponse : Spells tag 6 (readSetResponse tag read) := by
  unfold readSetResponse
  split
  · split <;> split
    · simp [requestCode, requestTag]
    · exact none
    · exact map _ fun _ => ⟨rfl, rfl⟩
    · exact none
  · exact none

theorem setDetector : Spells tag 8 (readSetDetector tag read) := by
  unfold readSetDetector
  split
  · exact ite (some_iff.mpr ⟨rfl, rfl⟩) (map _ fun _ => ⟨rfl, rfl⟩)
  · exact none

theorem setThresholds : Spells tag 9 (readSetThresholds tag read) := by
  unfold readSetThresholds
  split
  · split <;> simp [requestCode, requestTag]
  · exact none

theorem planEntry : Spells tag 10 (match needed (read "ENTRY") with
    | [n, entry] =>
      if isWord "ABSENT" entry then some (.planWriteEntry tag n Option.none)
      else
        match needed (read "PRESENT") with
        | [valid, kind, t, first, count, start] =>
          (flagIn valid).map fun b => .planWriteEntry tag n
            (some ⟨b, nameIn [.fixed, .actuated] .planKind kind, t, first, count, start⟩)
        | _ => Option.none
    | _ => Option.none) := by
  split
  · refine ite (some_iff.mpr ⟨rfl, rfl⟩) ?_
    split
    · exact map _ fun _ => ⟨rfl, rfl⟩
    · exact none
  · exact none

theorem planWrite : Spells tag 10 (readPlanWrite tag read) := by
  unfold readPlanWrite
  split
  · refine ite ?_ <| ite ?_ <| ite ?_ <| ite (planEntry read) <| ite ?_ none
    · split
      · exact map _ fun _ => ⟨rfl, rfl⟩
      · exact none
    all_goals split <;> simp [requestCode, requestTag]
  · exact none

theorem readPlan : Spells tag 12 (readReadPlan tag read) := by
  unfold readReadPlan
  split
  · refine ite ?_ <| ite (some_iff.mpr ⟨rfl, rfl⟩) <| ite ?_ <| ite ?_ (some_iff.mpr ⟨rfl, rfl⟩)
    all_goals split <;> simp [requestCode, requestTag]
  · exact none

theorem todWrite : Spells tag 13 (readTodWrite tag read) := by
  unfold readTodWrite
  split
  · refine ite ?_ (some_iff.mpr ⟨rfl, rfl⟩)
    split <;> simp [requestCode, requestTag]
  · exact none

theorem todDelete : Spells tag 14 (readTodDelete tag read) := by
  unfold readTodDelete
  split
  · refine ite (some_iff.mpr ⟨rfl, rfl⟩) ?_
    split
    · exact map _ fun _ => ⟨rfl, rfl⟩
    · exact none
  · exact none

theorem readDetector : Spells tag 28 (readReadDetector tag read) := by
  unfold readReadDetector
  split
  · simp [requestCode, requestTag]
  · exact map _ fun _ => ⟨rfl, rfl⟩
  · exact none

theorem readStatus : Spells tag 30 (readReadStatus tag read) := by
  unfold readReadStatus
  split
  · split
    · split <;> simp [requestCode, requestTag]
    · simp [requestCode, requestTag]
  · exact none

theorem one {f : Nat → Instr} (h : ∀ x, requestCode (f x) = n ∧ requestTag (f x) = tag) : Spells tag n (readOne read f) := by
  unfold readOne
  split
  · exact some_iff.mpr (h _)
  · exact none

end Spells

/-- A request with fields has the code and the TAG of its frame. -/
theorem requestOf_spells (tag : Byte) (read : FormReader) (n : Nat) : Spells tag n (requestOf tag read n) := by
  unfold requestOf
  split
  case h_1 => unfold readSetGroup; split <;> simp [requestCode, requestTag]
  case h_2 => unfold readSetIntergreen; split <;> simp [requestCode, requestTag]
  case h_3 => exact .setChannel read
  case h_4 => exact .setCore read
  case h_5 => exact .setResponse read
  case h_6 => exact .setDetector read
  case h_7 => exact .setThresholds read
  case h_8 => exact .planWrite read
  case h_9 => exact .readPlan read
  case h_10 => exact .todWrite read
  case h_11 => exact .todDelete read
  case h_12 => unfold readSetClock; split <;> simp [requestCode, requestTag]
  case h_13 => unfold readSelectPlan; split <;> simp [requestCode, requestTag]
  case h_14 => simp [requestCode, requestTag]
  case h_15 => exact .one read fun _ => ⟨rfl, rfl⟩
  case h_16 => unfold readReadGroup; split <;> simp [requestCode, requestTag]
  case h_17 => unfold readReadChannel; split <;> simp [requestCode, requestTag]
  case h_18 => unfold readReadCore; split <;> simp [requestCode, requestTag]
  case h_19 => exact .readDetector read
  case h_20 => exact .one read fun _ => ⟨rfl, rfl⟩
  case h_21 => exact .readStatus read
  case h_22 => exact .none

theorem plainRequest_spells (tag : Byte) (n : Nat) : Spells tag n (plainRequest tag n) := by
  unfold plainRequest
  split <;> simp [requestCode, requestTag]

/-- Fields that a payload does not hold spell no request, but for a DEMAND, which carries stage numbers alone (R85). -/
theorem requestOf_empty {read : FormReader} {n : Nat} (h : n ≠ 21) (e : ∀ form, read form = []) :
    requestOf tag read n = none := by
  obtain rfl : read = fun _ => [] := funext e
  unfold requestOf
  split
  case h_14 => exact absurd rfl h
  all_goals rfl

/-! ### The taking of a frame (R176, R177) -/

/-- A request arrives with its effect and its answer, whatever its fields. -/
theorem exec_request {i : Instr} (h : requestCode i ≠ 0) (s : State) :
    exec i s = .next (s.arrive i (State.act i) (isRestart i)) := by
  cases i
  all_goals first | rfl | exact absurd rfl h

theorem State.takes_serve (t : s.takes) (i : Instr) (act : State → Answer) (restarts : Bool) :
    s.arrive i act restarts = s.serve (requestTag i) act restarts := by
  obtain ⟨l, q, k⟩ := t
  exact (s.arrive_spec i act restarts).2.2 l q k

/-- A frame that spells a request has the effect of that request. -/
theorem State.serveFrame_ok {code : Byte} {payload : List Byte} {i : Instr} (h : frameRequest tag code payload = .ok i)
    (c : requestCode i ≠ 0) (e : requestTag i = tag) (t : s.takes) :
    exec i s = .next (s.serveReceived (.frame tag code payload)) := by
  rw [exec_request c, State.takes_serve t, e]
  unfold State.serveReceived Received.request
  dsimp only
  rw [h]
  rfl

/-- A frame that earns a status is refused with it. -/
theorem State.serveFrame_error {code : Byte} {payload : List Byte} {st : Status}
    (h : frameRequest tag code payload = .error st) :
    s.serveReceived (.frame tag code payload) = s.replied tag st .empty := by
  unfold State.serveReceived Received.request
  dsimp only
  rw [h]
  rfl

theorem frameRequest_unknown {code : Byte} {payload : List Byte} (h : code.toNat = 0 ∨ 32 < code.toNat) :
    frameRequest tag code payload = .error .unknownRequest := by
  unfold frameRequest
  exact if_pos h

theorem frameRequest_plain {code : Byte} {payload : List Byte} {i : Instr} (h : ¬ (code.toNat = 0 ∨ 32 < code.toNat))
    (p : plainRequest tag code.toNat = some i) :
    frameRequest tag code payload = if payload.isEmpty then .ok i else .error .refusedValue := by
  unfold frameRequest
  dsimp only
  rw [if_neg h, p]

theorem frameRequest_fields {code : Byte} {payload : List Byte} (h : ¬ (code.toNat = 0 ∨ 32 < code.toNat))
    (p : plainRequest tag code.toNat = none) :
    frameRequest tag code payload = (requestFields tag payload code.toNat).elim (.error .refusedValue) .ok := by
  unfold frameRequest
  dsimp only
  rw [if_neg h, p]
  cases requestFields tag payload code.toNat <;> rfl

/-- The codes of the requests without fields lie in 1 to 32. -/
theorem plainRequest_known {n : Nat} {i : Instr} (h : plainRequest tag n = some i) : ¬ (n = 0 ∨ 32 < n) := by
  unfold plainRequest at h
  split at h
  case h_12 => cases h
  all_goals omega

theorem requestOf_setGroup {read : FormReader} {g x a ra lr la lg rm : Nat}
    (h : read "" = [some g, some x, some a, some ra, some lr, some la, some lg, some rm]) :
    requestOf tag read 2 = some (.setGroup tag g
      ⟨nameIn [.vehicle, .pedestrian, .arrow, .unused] .groupType x, a, ra, lr, la, lg, rm⟩) := by
  show readSetGroup tag read = _
  unfold readSetGroup
  rw [h]
  rfl

theorem requestOf_stage {read : FormReader} {st : Nat} {l : List Nat} {gs : GroupSet}
    (h : read "" = [some (Config.nameCode (.word "STAGE"))]) (k : read "STAGE" = some st :: l.map some)
    (e : setIn "groups" 16 l = some gs) : requestOf tag read 10 = some (.planWriteStage tag st gs) := by
  have item : needed (read "") = [Config.nameCode (.word "STAGE")] := by rw [h]; rfl
  have fields : needed (read "STAGE") = st :: l := by rw [k, ← List.map_cons, needed_map_some]
  show readPlanWrite tag read = _
  unfold readPlanWrite
  simp only [item, fields, isWord_self, if_true, e, Option.map_some]

theorem requestOf_noItem {read : FormReader} {x : Nat} (h : read "" = [some x])
    (n : ∀ w ∈ ["STAGE", "RECORD", "POOL_LENGTH", "ENTRY", "COPY"], Config.nameCode (.word w) ≠ x) :
    requestOf tag read 10 = none := by
  have item : needed (read "") = [x] := by rw [h]; rfl
  have no : ∀ w ∈ ["STAGE", "RECORD", "POOL_LENGTH", "ENTRY", "COPY"], isWord w x = false := fun w m => isWord_false (n w m)
  show readPlanWrite tag read = _
  unfold readPlanWrite
  simp only [item, no "STAGE" (by simp), no "RECORD" (by simp), no "POOL_LENGTH" (by simp), no "ENTRY" (by simp),
    no "COPY" (by simp)]
  rfl

/-- Settles O14: the frame is refused, or has the effect of the request that its code and its payload spell. -/
theorem frameTaken : Obligations.FrameTaken := by
  refine ⟨fun s tag code payload => ⟨fun h => ?_, fun i p h => ?_, fun i p t => ?_, fun lo hi p => ?_⟩,
    fun a b n x h => readBits_bigEndian a b h, fun payload l h => readPlaces_inside h,
    fun payload l o w m h => readPlaces_outside m h, fun n form payload => ?_, fun tag read n h e => requestOf_empty h e,
    fun tag read => ⟨fun n h => ?_, fun w h m x e => ?_, fun g a ra lr la lg rm x h => ?_,
      fun st l gs h k e => requestOf_stage h k e, fun x h n => requestOf_noItem h n⟩⟩
  · exact State.serveFrame_error (frameRequest_unknown (h.imp (fun e => by rw [e]; rfl) id))
  · refine State.serveFrame_error ?_
    rw [frameRequest_plain (plainRequest_known p) p, if_neg (by simpa using h)]
  · obtain ⟨c, e⟩ := plainRequest_spells tag _ i p
    have known := plainRequest_known p
    exact State.serveFrame_ok (frameRequest_plain known p) (by omega) e t
  · have fields := frameRequest_fields (payload := payload) (by omega) p
    have spells := requestOf_spells tag (fun form => readForm code.toNat form payload) code.toNat
    cases f : requestFields tag payload code.toNat with
    | none =>
      rw [f] at fields
      exact State.serveFrame_error fields
    | some i =>
      rw [f] at fields
      obtain ⟨c, e⟩ := spells i f
      exact ⟨c, e, fun t => State.serveFrame_ok fields (by omega) e t⟩
  · unfold readForm
    cases Config.requestPlaces n form payload.length <;> rfl
  · show readOne read _ = _
    unfold readOne
    rw [h]
    rfl
  · show readSetClock tag read = _
    unfold readSetClock
    rw [e]
    rfl
  · obtain ⟨coded, none⟩ := nameIn_spec [.vehicle, .pedestrian, .arrow, .unused] Named.groupType x
    refine ⟨_, requestOf_setGroup h, coded, fun e y => none e y ?_⟩
    cases y <;> simp

end Sys2Proof.Machine

/-! SUPPORT. Green periods, RESTING and ALL_RED, and a PROMPT change (R37, R48 to R51, R55, R59, R61, R64, R66). -/

namespace Sys2Proof.Machine

variable {s : State}

/-! ### A PROMPT change (R37, R64, R66) -/

theorem State.translateFor_error {ref : PlanRef} {k : Kind} (h : s.inUse.translate ref = .error k) :
    s.translateFor ref = (s.observe ⟨.plan ref.plan, k⟩, false) := by
  unfold State.translateFor
  rw [h]

/-- A translation that succeeds makes its plan current, and ends conditions of the fault confirmation unit alone. -/
theorem State.translateFor_ok {ref : PlanRef} {q : ResolvedPlan} (h : s.inUse.translate ref = .ok q) :
    ∃ f l, s.translateFor ref
      = ({ s with faults := f, link := l, engine := { s.engine with plan := some q, record := none } }, true) := by
  have ended : FaultsOnly s (s.each translationKinds fun k t => t.endCond ⟨.plan q.number, k⟩) :=
    .each (fun k m t => .endCond t _ (Kind.plain_of_translation m).1) s
  unfold State.translateFor
  rw [h]
  dsimp only
  rw [ended]
  exact ⟨_, _, rfl⟩

/-- A plan just translated is entered: its green period begins anew with a decision. -/
theorem State.enters {ref : PlanRef} {q : ResolvedPlan} (h : s.inUse.translate ref = .ok q) (cause : PlanCause) :
    s.Enters ((s.translateFor ref).1.enterPlan cause) q cause := by
  obtain ⟨f, l, e⟩ := State.translateFor_ok h
  rw [e]
  exact ⟨_, rfl, rfl⟩

/-- A change as the engine takes it up is no longer pending. -/
def State.changeTakenUp (s : State) : State := { s with engine := { s.engine with change := none } }

/-- A translation that fails is reported, and leaves the engine and the set in use. -/
theorem State.observe_translation (ref : PlanRef) {k : Kind} (h : s.inUse.translate ref = .error k) :
    FaultsOnly s (s.observe ⟨.plan ref.plan, k⟩) := by
  obtain ⟨plain, cls⟩ := Kind.plain_of_translation (PlanSet.translate_error h)
  exact .observe _ (cls _) plain

theorem FaultsOnly.engine {t : State} (h : FaultsOnly s t) : t.engine = s.engine ∧ t.inUse = s.inUse := by
  unfold FaultsOnly at h
  rw [h]
  exact ⟨rfl, rfl⟩

/-- Without a pending PROMPT change none is taken. -/
theorem State.takePrompt_none (h : ∀ c, s.engine.change = some c → c.timing = .boundary) : s.takePrompt = (s, false) := by
  unfold State.takePrompt
  split
  · rfl
  · next c e =>
    rw [if_neg]
    rw [h c e]
    decide

theorem State.promptTaken_ok {t : State} {c : PendingChange} {q : ResolvedPlan} (h : s.inUse.translate c.ref = .ok q)
    (e : s.changeTakenUp.Enters t q c.origin.cause) : s.PromptTaken t c := by
  refine ⟨fun q' k => ?_, fun k' k => ?_⟩
  · rw [h] at k
    cases k
    obtain ⟨ref, timing, origin⟩ := c
    cases origin
    all_goals exact e
  · rw [h] at k
    cases k

theorem State.promptTaken_error {t : State} {c : PendingChange} {k : Kind} (h : s.inUse.translate c.ref = .error k) :
    let w := s.changeTakenUp.observe ⟨.plan c.ref.plan, k⟩
    (s.engine.plan ≠ none → t = w)
    → (s.engine.plan = none → (∀ q, s.inUse.translate ⟨1, 0⟩ = .ok q → w.Enters t q .baseFallback)
        ∧ ∀ k', s.inUse.translate ⟨1, 0⟩ = .error k' → t = w.observe ⟨.plan 1, k'⟩)
    → s.PromptTaken t c := by
  refine fun goes_on based => ⟨fun q e => ?_, fun k' e => ?_⟩
  · rw [h] at e
    cases e
  · rw [h] at e
    cases e
    exact ⟨goes_on, based⟩

section
variable {c : PendingChange} (hc : s.engine.change = some c) (ht : c.timing = .prompt)
include hc ht

theorem State.takePrompt_eq : s.takePrompt =
    if (s.takeChange c).2 then ((s.takeChange c).1.enterPlan c.origin.cause, true)
    else if (s.takeChange c).1.fallBack.2 then ((s.takeChange c).1.fallBack.1.enterPlan .baseFallback, true)
    else ((s.takeChange c).1.fallBack.1, false) := by
  unfold State.takePrompt
  rw [hc]
  dsimp only
  rw [if_pos ht]

/-- The reference of the change translates: its plan is entered. -/
theorem State.takePrompt_ok {q : ResolvedPlan} (h : s.inUse.translate c.ref = .ok q) :
    s.takePrompt = ((s.changeTakenUp.translateFor c.ref).1.enterPlan c.origin.cause, true) := by
  obtain ⟨f, l, e⟩ := State.translateFor_ok (s := s.changeTakenUp) h
  have taken : (s.takeChange c).2 = true := congrArg Prod.snd e
  rw [State.takePrompt_eq hc ht, if_pos taken]
  rfl

/-- It does not: the failure is reported, and the base reference translated where no plan is current. -/
theorem State.takePrompt_error {k : Kind} (h : s.inUse.translate c.ref = .error k) :
    let w := s.changeTakenUp.observe ⟨.plan c.ref.plan, k⟩
    s.takePrompt = if w.fallBack.2 then (w.fallBack.1.enterPlan .baseFallback, true) else (w.fallBack.1, false) := by
  have failed : s.takeChange c = (s.changeTakenUp.observe ⟨.plan c.ref.plan, k⟩, false) :=
    State.translateFor_error (s := s.changeTakenUp) h
  rw [State.takePrompt_eq hc ht, failed]
  rfl

/-- What the taking of a PROMPT change makes of the state, and when it makes a plan current (R37, R64). -/
theorem State.takePrompt_taken : s.PromptTaken s.takePrompt.1 c
    ∧ (s.takePrompt.2 = true ↔ (∃ q, s.inUse.translate c.ref = .ok q)
        ∨ (s.engine.plan = none ∧ ∃ q, s.inUse.translate ⟨1, 0⟩ = .ok q)) := by
  cases h : s.inUse.translate c.ref with
  | ok q =>
    rw [State.takePrompt_ok hc ht h]
    exact ⟨State.promptTaken_ok h (State.enters (s := s.changeTakenUp) h _), by simp⟩
  | error k =>
    obtain ⟨engine, inUse⟩ := (State.observe_translation (s := s.changeTakenUp) c.ref h).engine
    have result := State.takePrompt_error hc ht h
    have taken := fun t => State.promptTaken_error (s := s) (t := t) h
    dsimp only at result taken
    generalize s.changeTakenUp.observe ⟨.plan c.ref.plan, k⟩ = w at engine inUse result taken
    have plan : w.engine.plan = s.engine.plan := by rw [engine]; rfl
    cases hp : s.engine.plan with
    | some p =>
      have stays : w.fallBack = (w, false) := by
        unfold State.fallBack
        rw [plan, hp]
      rw [result, stays]
      exact ⟨taken w (fun _ => rfl) fun n => absurd (hp.symm.trans n) (by simp), by simp⟩
    | none =>
      have base : w.fallBack = w.translateFor baseRef := by
        unfold State.fallBack
        rw [plan, hp]
      have no_plan : ∀ {x : Prop}, s.engine.plan ≠ none → x := fun n => (n hp).elim
      rw [result, base]
      cases hb : s.inUse.translate ⟨1, 0⟩ with
      | ok q =>
        have hw : w.inUse.translate baseRef = .ok q := (congrArg (PlanSet.translate · _) inUse).trans hb
        obtain ⟨f, l, e⟩ := State.translateFor_ok hw
        rw [if_pos (congrArg Prod.snd e)]
        refine ⟨taken _ no_plan fun _ => ⟨fun q' e => ?_, fun k' e => ?_⟩, by simp⟩
        · rw [hb] at e
          cases e
          exact State.enters hw .baseFallback
        · rw [hb] at e
          cases e
      | error k' =>
        have hw : w.inUse.translate baseRef = .error k' := (congrArg (PlanSet.translate · _) inUse).trans hb
        rw [State.translateFor_error hw]
        refine ⟨taken _ no_plan fun _ => ⟨fun q e => ?_, fun k'' e => ?_⟩, by simp⟩
        · rw [hb] at e
          cases e
        · rw [hb] at e
          cases e
          rfl

end

/-- A PROMPT change that made no plan current is no longer pending, so that none is taken after it. -/
theorem State.takePrompt_over (h : s.takePrompt.2 = false) : s.takePrompt.1.takePrompt = (s.takePrompt.1, false) := by
  obtain e | ⟨c, -, -, ⟨-, e⟩ | ⟨-, -, e⟩ | ⟨failed, stays, e⟩⟩ := s.takePrompt_cases
  · rw [e]
    exact e
  · rw [e] at h
    cases h
  · rw [e] at h
    cases h
  · have engine : (s.takeChange c).1.engine = { s.engine with change := none } := by
      obtain ⟨-, -, ⟨k, -, -, e⟩ | ⟨q, -, yes, -⟩⟩ := s.takeChange_cases c
      · exact e
      · rw [yes] at failed
        cases failed
    have kept : (s.takeChange c).1.fallBack.1.engine = (s.takeChange c).1.engine := by
      generalize (s.takeChange c).1 = v at stays ⊢
      unfold State.fallBack at stays ⊢
      split
      · rfl
      · next n =>
        rw [n] at stays
        exact ((v.translateFor_spec baseRef).1 stays).engine
    rw [e]
    refine State.takePrompt_none fun c' k => ?_
    rw [kept, engine] at k
    cases k

/-! ### The green period (R48 to R51) -/

/-- What the timers of a green period bring, PROMPT changes aside (R48, R49, R51). -/
def State.timedGreen (s : State) : State :=
  match s.engine.plan with
  | none => s
  | some p =>
    if p.kind = .fixed then (if s.engine.greenTimer.isNone then s.stopTimers.takeDecision else s)
    else
      let t := s.startMaximum
      if t.engine.greenTimer.isNone && (t.ev.maxOut || (t.engine.gapped && t.opposing)) then t.stopTimers.takeDecision
      else t

theorem State.workGreen_idle (h : s.engine.greenTimer = none → s.takePrompt = (s, false)) :
    s.workGreen false = s.timedGreen := by
  unfold State.workGreen State.timedGreen
  rw [if_neg (by decide)]
  have untaken : (if s.engine.greenTimer.isNone then s.takePrompt else (s, false)) = (s, false) := by
    split
    · next n => exact h (by simpa using n)
    · rfl
  rw [untaken]
  rfl

theorem State.workGreen_prompt (h : s.engine.greenTimer = none) :
    s.workGreen false = if s.takePrompt.2 = true then s.takePrompt.1 else s.takePrompt.1.workGreen false := by
  by_cases taken : s.takePrompt.2 = true
  · rw [if_pos taken]
    unfold State.workGreen
    rw [if_neg (by decide), h]
    dsimp only [Option.isNone_none]
    rw [if_pos rfl]
    generalize s.takePrompt = x at taken ⊢
    obtain ⟨t, b⟩ := x
    exact if_pos taken
  · rw [if_neg taken, State.workGreen_idle fun _ => State.takePrompt_over (by simpa using taken)]
    unfold State.workGreen State.timedGreen
    rw [if_neg (by decide), h]
    dsimp only [Option.isNone_none]
    rw [if_pos rfl]
    generalize s.takePrompt = x at taken ⊢
    obtain ⟨t, b⟩ := x
    exact if_neg taken

/-- The start of the maximum timer changes that timer alone (R49). -/
theorem State.startMaximum_eq (s : State) :
    ∃ m, s.startMaximum = { s with engine := { s.engine with maxTimer := m } } := by
  unfold State.startMaximum
  split
  · split
    · exact ⟨_, rfl⟩
    · exact ⟨_, rfl⟩
  · exact ⟨_, rfl⟩

theorem State.startMaximum_none (h : s.opposing = false ∨ s.engine.maxTimer ≠ none) : s.startMaximum = s := by
  unfold State.startMaximum
  split
  · rw [if_neg]
    rcases h with h | h
    · simp [h]
    · simp [h]
  · rfl

theorem State.startMaximum_starts {p : ResolvedPlan} {i : Nat} {r : ResolvedRecord} (hp : s.engine.plan = some p)
    (hi : s.engine.record = some i) (hr : p.records[i - 1]? = some r) (m : s.engine.maxTimer = none)
    (e : s.ev.maxOut = false) (o : s.opposing = true) :
    s.startMaximum = { s with engine := { s.engine with maxTimer := some (s.now + 100 * r.max) } } := by
  have current : s.engine.currentRecord = some r := by
    unfold Engine.currentRecord
    rw [hp, hi]
    exact hr
  unfold State.startMaximum
  rw [current]
  dsimp only
  rw [if_pos (by simp [m, e, o])]
  rfl

theorem State.timedGreen_fixed {p : ResolvedPlan} (hp : s.engine.plan = some p) (k : p.kind = .fixed) :
    s.timedGreen = if s.engine.greenTimer = none then s.stopTimers.takeDecision else s := by
  unfold State.timedGreen
  rw [hp]
  dsimp only
  rw [if_pos k]
  cases s.engine.greenTimer <;> rfl

/-- An ACTUATED green period ends by max-out or by gap-out; until then its maximum timer is started. -/
theorem State.timedGreen_actuated {p : ResolvedPlan} (hp : s.engine.plan = some p) (k : p.kind = .actuated) :
    s.timedGreen =
      if s.engine.greenTimer = none ∧ (s.ev.maxOut = true ∨ (s.engine.gapped = true ∧ s.opposing = true)) then
        s.stopTimers.takeDecision
      else s.startMaximum := by
  obtain ⟨m, e⟩ := s.startMaximum_eq
  unfold State.timedGreen
  rw [hp, e]
  dsimp only
  rw [if_neg (by rw [k]; decide)]
  have opposing : State.opposing { s with engine := { s.engine with maxTimer := m } } = s.opposing := rfl
  rw [opposing]
  refine ite_congr ?_ (fun _ => rfl) fun _ => rfl
  simp

theorem State.opposing_iff : s.opposing = true ↔ ∃ p r, s.engine.plan = some p ∧ r ∈ p.records ∧ s.qualifies r = true
    ∧ s.engine.stage ≠ some (r.stage.val + 1) := by
  unfold State.opposing
  cases s.engine.plan with
  | none => simp
  | some p => simp

/-! ### The engine's work (R17, R55, R59) -/

/-- The dropping of inhibited groups leaves the engine and the set in use. -/
theorem State.dropInhibited_frame (s : State) :
    s.dropInhibited.engine = s.engine ∧ s.dropInhibited.inUse = s.inUse := by
  rw [s.dropInhibited_eq]
  refine State.each_induct (P := fun t => t.engine = s.engine ∧ t.inUse = s.inUse) _ s ⟨rfl, rfl⟩ fun g _ t ⟨e, i⟩ => ?_
  have touches := Touches.dropIfInhibited g t
  exact ⟨touches.engine.trans e, touches.inUse.trans i⟩

/-- Some group of the current stage as it stands is GREEN in x. -/
def State.Shows (s x : State) : Prop :=
  ∃ g : Group, (s.stageGroups (s.engine.stage.getD 0))[g] = true ∧ (x.groups[g]).aspect = .green

/-- Whether the last green of the stage has been ended by an inhibit reason (R59). -/
theorem State.lastEnded_iff (s : State) :
    (s.someGreen (s.engine.stage.getD 0) && !s.dropInhibited.someGreen (s.engine.stage.getD 0)) = true
      ↔ s.Shows s ∧ ¬ s.Shows s.dropInhibited := by
  have groups : s.dropInhibited.stageGroups (s.engine.stage.getD 0) = s.stageGroups (s.engine.stage.getD 0) := by
    unfold State.stageGroups
    rw [s.dropInhibited_frame.2]
  unfold State.Shows
  rw [Bool.and_eq_true, Bool.not_eq_true', ← Bool.not_eq_true, State.someGreen_iff, State.someGreen_iff, groups]

theorem State.workGreen_ended (s : State) : s.workGreen true = s.stopTimers.takeDecision := rfl

theorem State.engineWork_green (h : s.engine.state = .green) :
    (s.Shows s → ¬ s.Shows s.dropInhibited → s.engineWork = s.dropInhibited.stopTimers.takeDecision)
    ∧ ((¬ s.Shows s ∨ s.Shows s.dropInhibited) → s.engineWork = s.dropInhibited.workGreen false) := by
  have work : s.engineWork = s.dropInhibited.workGreen
      (s.someGreen (s.engine.stage.getD 0) && !s.dropInhibited.someGreen (s.engine.stage.getD 0)) := by
    unfold State.engineWork
    rw [if_neg (by rw [h]; decide)]
    dsimp only
    rw [s.dropInhibited_frame.1, h]
  rw [work]
  refine ⟨fun a b => by rw [s.lastEnded_iff.mpr ⟨a, b⟩, State.workGreen_ended], fun n => ?_⟩
  rw [Bool.eq_false_of_not_eq_true fun e => (s.lastEnded_iff.mp e).elim fun a b => n.elim (· a) b]

theorem State.engineWork_idle (h : s.engine.state = .resting ∨ s.engine.state = .allRed) :
    (s.Shows s → ¬ s.Shows s.dropInhibited → s.engineWork = s.dropInhibited.workIdle true)
    ∧ ((¬ s.Shows s ∨ s.Shows s.dropInhibited) → s.engineWork = s.dropInhibited.workIdle false) := by
  have work : s.engineWork = s.dropInhibited.workIdle
      (s.someGreen (s.engine.stage.getD 0) && !s.dropInhibited.someGreen (s.engine.stage.getD 0)) := by
    unfold State.engineWork
    rcases h with h | h
    all_goals
      rw [if_neg (by rw [h]; decide)]
      dsimp only
      rw [s.dropInhibited_frame.1, h]
  rw [work]
  refine ⟨fun a b => by rw [s.lastEnded_iff.mpr ⟨a, b⟩], fun n => ?_⟩
  rw [Bool.eq_false_of_not_eq_true fun e => (s.lastEnded_iff.mp e).elim fun a b => n.elim (· a) b]

/-- What the decision of an occasion makes of RESTING and ALL_RED, before a PROMPT change is looked at (R55). -/
def State.idleDecided (s : State) (ended : Bool) : State :=
  let u : State := { s with ev := { s.ev with occasion := false } }
  if ended = true ∨ s.ev.occasion = true then u.takeDecision else u

theorem State.workIdle_eq (s : State) (ended : Bool) : s.workIdle ended =
    if (s.idleDecided ended).engine.state = .resting ∨ (s.idleDecided ended).engine.state = .allRed then
      (s.idleDecided ended).takePrompt.1
    else s.idleDecided ended := by
  unfold State.workIdle State.idleDecided
  simp only [Bool.or_eq_true]

/-- Settles O43: the timers, then GREEN plan by plan, a PROMPT change, and the work of RESTING and ALL_RED. -/
theorem greenPeriods : Obligations.GreenPeriods := by
  refine ⟨fun s e => ⟨fun h => congrArg _ (State.due_some h _), fun h => congrArg _ (State.due_some h _),
      fun h => ⟨_, congrArg _ (State.due_some h _), rfl, ?_, ?_⟩⟩,
    State.workGreen_ended, fun s h => State.engineWork_green h, fun s => State.opposing_iff, fun s p hp np => ?_,
    fun s c hc ht g => State.workGreen_prompt g, fun s c hc ht => State.takePrompt_taken hc ht,
    fun s h => s.takeDecision_none h, fun s ended => ?_, fun s h => State.engineWork_idle h⟩
  · intro x hx
    show stopIfDue (s.elapseTo e).engine.greenTimer _ = _
    rw [s.elapseTo_engine, hx]
    unfold stopIfDue
    simp [Option.filter]
  · intro hx
    show stopIfDue (s.elapseTo e).engine.greenTimer _ = _
    rw [s.elapseTo_engine, hx]
    rfl
  · rw [State.workGreen_idle fun g => State.takePrompt_none (np g)]
    refine ⟨fun k g => ?_, fun k g => ?_, fun k g o => ?_, fun k o g => ?_, fun k m o g => ?_⟩
    · rw [State.timedGreen_fixed hp k, if_pos g]
    · rw [State.timedGreen_fixed hp k, if_neg g]
    · rw [State.timedGreen_actuated hp k, if_pos ⟨g, o⟩]
    · have goes_on : ¬ (s.engine.greenTimer = none ∧ (s.ev.maxOut = true ∨ (s.engine.gapped = true ∧ s.opposing = true))) := by
        rintro ⟨none, out | ⟨-, opp⟩⟩
        · exact g.elim (· none) fun f => by rw [f] at out; cases out
        · rw [o] at opp; cases opp
      rw [State.timedGreen_actuated hp k, if_neg goes_on, State.startMaximum_none (.inl o)]
    · have goes_on : ¬ (s.engine.greenTimer = none ∧ (s.ev.maxOut = true ∨ (s.engine.gapped = true ∧ s.opposing = true))) := by
        rintro ⟨none, out | ⟨gap, -⟩⟩
        · rw [m] at out; cases out
        · exact g.elim (· none) fun f => by rw [f] at gap; cases gap
      rw [State.timedGreen_actuated hp k, if_neg goes_on]
      exact ⟨fun t => State.startMaximum_none (.inr t), fun i r t hi hr => State.startMaximum_starts hp hi hr t m o⟩
  · have work := s.workIdle_eq ended
    refine ⟨fun a b => work.trans (if_neg fun h => h.elim a b), fun h => ?_, fun h ⟨c, e⟩ => work.trans (if_pos h)⟩
    rw [work]
    split
    · exact congrArg Prod.fst (State.takePrompt_none h)
    · rfl

end Sys2Proof.Machine

/-! SUPPORT. What the blocks leave alone where each acts on a new working copy (R119, R138, R159, R179): each operation names the records that it may renew. -/

namespace Sys2Proof.Machine

/-! ### Reports and conditions -/

/-- The kinds of condition that can newly arise where a working copy or a plan set is taken into use. -/
def Kind.arises (k : Kind) : Bool :=
  decide (k ∈ [Kind.planSetUnusable, .conflict, .uncommandedGreen, .intergreenShort])

/-- From s to t notices are added or lost only, the COMMIT_CONFIG job stands as it did, and no suspicion and no condition appears but of the kinds that can arise. -/
structure Reports (s t : State) : Prop where
  job       : t.job? .commitConfig = s.job? .commitConfig := by rfl
  notices   : s.link.notices ⊆ t.link.notices := by exact List.Subset.refl _
  lost      : s.link.lost = true → t.link.lost = true := by exact id
  suspects  : t.faults.suspicions ⊆ s.faults.suspicions := by exact List.Subset.refl _
  confirmed : ∀ k ∈ t.faults.confirmed, k ∈ s.faults.confirmed ∨ k.kind.arises = true := by exact fun _ => .inl

variable {s t u : State}

theorem Reports.refl (s : State) : Reports s s := {}

theorem Reports.trans (h : Reports s t) (k : Reports t u) : Reports s u where
  job := k.job.trans h.job
  notices := List.Subset.trans h.notices k.notices
  lost := k.lost ∘ h.lost
  suspects := List.Subset.trans k.suspects h.suspects
  confirmed := fun x m => (k.confirmed x m).elim (h.confirmed x) .inr

theorem Reports.notify (s : State) (n : Notice) : Reports s (s.notify n) := by
  unfold State.notify
  split
  · exact { notices := List.subset_append_left _ _ }
  · exact { lost := fun _ => rfl }

theorem Reports.dropSuspicion (s : State) (k : Cond) : Reports s (s.dropSuspicion k) where
  suspects := List.filter_subset_self _

/-- A change of the alarm list. -/
theorem Reports.ofAlarms (s : State) {x : Faults} (n : Notice) (e : x.suspicions = s.faults.suspicions)
    (f : x.confirmed = s.faults.confirmed) : Reports s (State.notify { s with faults := x } n) :=
  .trans (t := { s with faults := x })
    { suspects := e ▸ List.Subset.refl _, confirmed := fun _ m => .inl (f ▸ m) } (.notify _ n)

theorem Reports.enterAlarm (s : State) (k : Cond) (tag : ConfTag) : Reports s (s.enterAlarm k tag) := by
  unfold State.enterAlarm
  dsimp only
  split
  · split
    · exact {}
    · exact .ofAlarms s _ rfl rfl
  · split
    · exact .ofAlarms s _ rfl rfl
    · split <;> exact .ofAlarms s _ rfl rfl

theorem Reports.clearAlarm (s : State) (k : Cond) : Reports s (s.clearAlarm k) := .ofAlarms s _ rfl rfl

theorem Reports.dropCond (s : State) (k : Cond) : Reports s (s.dropCond k) := by
  have removed : ∀ t : State,
      Reports t { t with faults := { t.faults with confirmed := t.faults.confirmed.filter (· ≠ k) } } :=
    fun t => { confirmed := fun x m => .inl (List.mem_of_mem_filter m) }
  unfold State.dropCond
  dsimp only
  split
  · exact .trans (.dropSuspicion s k) (.trans (removed _) (.clearAlarm _ k))
  · exact .dropSuspicion s k

theorem Reports.endCond (s : State) {k : Cond} (p : k.kind.plain = true) : Reports s (s.endCond k) := by
  unfold State.endCond
  rw [State.concerned_plain _ p, ite_self]
  exact .dropCond s k

theorem Reports.observe (s : State) {k : Cond} (d : k.cls = 0) (p : k.kind.plain = true) (a : k.kind.arises = true) :
    Reports s (s.observe k) := by
  have joined : ∀ t : State, Reports t { t with faults := { t.faults with confirmed := t.faults.confirmed ++ [k] } } :=
    fun t =>
      { confirmed := fun x m => (List.mem_append.mp m).imp_right fun e => by rw [List.mem_singleton.mp e]; exact a }
  rw [State.observe_direct _ _ d]
  unfold State.confirm
  dsimp only
  rw [State.concerned_plain _ p]
  split
  · exact .trans (.dropSuspicion s k) (.enterAlarm _ k _)
  · exact .trans (.dropSuspicion s k) (.trans (joined _) (.enterAlarm _ k _))

/-! ### Records, and what an operation leaves of them -/

/-- What an operation may renew: the record of a core and its survey part, the proving record of a channel, the count of trips. -/
inductive Renewal where
  | core (k : CoreId) | hist (k : CoreId) | lamp (c : Chan) | lockouts

/-- A core's test, where it has one, has been given up. -/
def State.Untested (s : State) (k : CoreId) : Prop :=
  s.survey.underTest = some k → (s.cores[k]).test.inProgress = true → (s.cores[k]).test = .releasing

/-- The part of a proving record that LEARN has no part in: estimate, last reading, lit period and timers. -/
def LampRun.proving (l : LampRun) : Nat × Option Reading × LitPeriod × Timer × Timer × Timer :=
  (l.lampsLit, l.last, l.lit, l.settle, l.repeatTimer, l.dark)

/-- A group has neither green nor what a green leaves behind (R4). -/
def GroupRun.Fresh (r : GroupRun) : Prop :=
  r.aspect ≠ .green ∧ r.pendingGreen = false ∧ r.lastGreenOff = none ∧ r.greenMark = false

/-- From s to t the records outside a set are as they were, but for a test given up and for learning; groups without a green stay so, and what no operation of a new working copy concerns has not changed. -/
structure Renews (X : Set Renewal) (s t : State) : Prop extends Reports s t where
  now      : t.now = s.now := by rfl
  edit     : t.edit = s.edit := by rfl
  work     : t.work = s.work := by rfl
  staging  : t.staging = s.staging := by rfl
  store    : t.store = s.store := by rfl
  relays   : t.relays = s.relays := by rfl
  active   : t.survey.active = s.survey.active := by rfl
  tested   : t.survey.underTest = s.survey.underTest := by rfl
  core     : ∀ k : CoreId, .core k ∉ X → s.Untested k → t.cores[k] = s.cores[k] := by exact fun _ _ _ => rfl
  hist     : ∀ k : CoreId, .hist k ∉ X → (t.cores[k]).hist = (s.cores[k]).hist := by exact fun _ _ => rfl
  lamp     : ∀ c : Chan, .lamp c ∉ X → (t.lamps[c]).proving = (s.lamps[c]).proving := by exact fun _ _ => rfl
  queue    : t.meas.queue ⊆ s.meas.queue := by exact List.Subset.refl _
  lockouts : .lockouts ∉ X → t.lockouts = s.lockouts := by exact fun _ => rfl
  fresh    : ∀ g : Group, (s.groups[g]).Fresh → (t.groups[g]).Fresh := by exact fun _ => id

variable {X Y : Set Renewal}

theorem Renews.refl (X : Set Renewal) (s : State) : Renews X s s := { toReports := .refl s }

/-- A core whose test has been given up and whose record is as it was. -/
theorem Renews.untested (h : Renews X s t) {k : CoreId} (n : .core k ∉ X) (x : s.Untested k) : t.Untested k := by
  unfold State.Untested
  rw [h.tested, h.core k n x]
  exact x

theorem Renews.trans (h : Renews X s t) (k : Renews X t u) : Renews X s u where
  toReports := h.toReports.trans k.toReports
  now := k.now.trans h.now
  edit := k.edit.trans h.edit
  work := k.work.trans h.work
  staging := k.staging.trans h.staging
  store := k.store.trans h.store
  relays := k.relays.trans h.relays
  active := k.active.trans h.active
  tested := k.tested.trans h.tested
  core := fun c n x => (k.core c n (h.untested n x)).trans (h.core c n x)
  hist := fun c n => (k.hist c n).trans (h.hist c n)
  lamp := fun c n => (k.lamp c n).trans (h.lamp c n)
  queue := List.Subset.trans k.queue h.queue
  lockouts := fun n => (k.lockouts n).trans (h.lockouts n)
  fresh := fun g => k.fresh g ∘ h.fresh g

/-- One more operation after what has been done so far. -/
theorem Renews.of (k : Renews X t u) (h : Renews X s t) : Renews X s u := h.trans k

theorem Renews.mono (h : Renews X s t) (i : X ⊆ Y) : Renews Y s t :=
  { h with
    core := fun c n => h.core c fun m => n (i m)
    hist := fun c n => h.hist c fun m => n (i m)
    lamp := fun c n => h.lamp c fun m => n (i m)
    lockouts := fun n => h.lockouts fun m => n (i m) }

/-- What renews one record only. -/
theorem Renews.one {i : Renewal} (h : Renews {i} s t) (m : i ∈ X) : Renews X s t :=
  h.mono (Set.singleton_subset_iff.mpr m)

/-- A test given up is no renewal of its core's record. -/
theorem Renews.given_up {k : CoreId} (h : Renews (insert (.core k) X) s t) (n : ¬ s.Untested k) : Renews X s t :=
  { h with
    core := fun c m x => h.core c (fun i => (Set.mem_insert_iff.mp i).elim (fun e => by cases e; exact n x) m) x
    hist := fun c m => h.hist c fun i => (Set.mem_insert_iff.mp i).elim (fun e => nomatch e) m
    lamp := fun c m => h.lamp c fun i => (Set.mem_insert_iff.mp i).elim (fun e => nomatch e) m
    lockouts := fun m => h.lockouts fun i => (Set.mem_insert_iff.mp i).elim (fun e => nomatch e) m }

theorem Renews.ite {p : Prop} [Decidable p] (h : Renews X s t) (k : Renews X s u) :
    Renews X s (if p then t else u) := by
  split <;> assumption

theorem Renews.each {α : Type} {f : α → State → State} {l : List α} (h : ∀ a ∈ l, ∀ t, Renews X t (f a t)) (s : State) :
    Renews X s (s.each l f) :=
  State.each_induct (P := Renews X s) l s (.refl X s) fun a m t k => k.trans (h a m t)

/-- Of operations for the members of a list, the one for a member stands between those for the others. -/
theorem Renews.each_at {α : Type} {f : α → State → State} {a : α} {l : List α}
    (h : ∀ b, b ≠ a → ∀ t, Renews X t (f b t)) (nd : l.Nodup) (m : a ∈ l) (s : State) :
    ∃ u, Renews X s u ∧ Renews X (f a u) (s.each l f) := by
  have rest : ∀ r : List α, a ∉ r → ∀ t, Renews X t (t.each r f) := fun r n =>
    Renews.each fun b mb => h b fun e => n (e ▸ mb)
  obtain ⟨l₁, l₂, rfl⟩ := List.append_of_mem m
  obtain ⟨-, d, n⟩ := List.nodup_append.mp nd
  have split : s.each (l₁ ++ a :: l₂) f = (f a (s.each l₁ f)).each l₂ f := by
    unfold State.each
    rw [List.foldl_append, List.foldl_cons]
  rw [split]
  exact ⟨s.each l₁ f, rest l₁ (fun m₁ => n a m₁ a (by simp) rfl) s, rest l₂ (List.nodup_cons.mp d).1 _⟩

/-- What one member of a list brings about, and the others keep, holds at the end. -/
theorem State.each_reaches {α : Type} {f : α → State → State} {P : State → Prop} {a : α} {l : List α} (m : a ∈ l)
    (hit : ∀ t, P (f a t)) (keep : ∀ b t, P t → P (f b t)) (s : State) : P (s.each l f) := by
  induction l generalizing s with
  | nil => cases m
  | cons b l ih =>
    rcases List.mem_cons.mp m with rfl | m
    · exact State.each_induct l (f a s) (hit s) fun b _ => keep b
    · exact ih m (f b s)

/-! ### Reports -/

/-- A report renews no record. -/
theorem FaultsOnly.renews (h : FaultsOnly s t) (r : Reports s t) : Renews X s t := by
  unfold FaultsOnly at h
  generalize t.faults = f, t.link = l at h
  subst h
  exact { toReports := r }

theorem Renews.notify (s : State) (n : Notice) : Renews X s (s.notify n) := (FaultsOnly.notify s n).renews (.notify s n)

theorem Renews.endCond (s : State) {k : Cond} (p : k.kind.plain = true) : Renews X s (s.endCond k) :=
  (FaultsOnly.endCond s k p).renews (.endCond s p)

theorem Renews.observe (s : State) {k : Cond} (d : k.cls = 0) (p : k.kind.plain = true) (a : k.kind.arises = true) :
    Renews X s (s.observe k) := by
  refine FaultsOnly.renews ?_ (.observe s d p a)
  rw [State.observe_direct _ _ d]
  exact .confirm s k _ p

theorem Renews.dropCond (s : State) (k : Cond) : Renews X s (s.dropCond k) := by
  refine FaultsOnly.renews ?_ (.dropCond s k)
  unfold State.dropCond State.clearAlarm
  dsimp only
  split
  · exact FaultsOnly.trans (t := { s.dropSuspicion k with faults := _ }) rfl (.notify _ _)
  · rfl

theorem Renews.dropSuspicions (s : State) (old : Settings) (c : Chan) : Renews X s (s.dropSuspicions old c) := by
  unfold State.dropSuspicions
  exact .ite { suspects := List.filter_subset_self _ } (.refl X s)

theorem Renews.judgeUsable (s : State) : Renews X s s.judgeUsable := by
  unfold State.judgeUsable
  exact .ite (.endCond s rfl) (.ite (.refl X s) (.observe s rfl rfl rfl))

theorem Renews.renewVoids (s : State) : Renews X s s.renewVoids := by
  unfold State.renewVoids State.judgeVoids
  exact .of (.judgeUsable _) {}

theorem Renews.adoptPending (s : State) : Renews X s s.adoptPending := by
  unfold State.adoptPending
  split
  · exact .refl X s
  · next p _ =>
    have ended : ∀ t : State, Renews X t
        (t.each (t.faults.confirmed.filter Cond.translation) fun k u => u.endCond k) := fun t =>
      Renews.each (fun k m u => .endCond u (Kind.plain_of_translation (by simpa [Cond.translation] using List.of_mem_filter m)).1) t
    unfold State.adoptSet
    exact .of (.notify _ _) <| .of (.judgeUsable _) <| .of (ended _) {}

theorem Renews.ask (s : State) (r : ModeReq) : Renews X s (s.ask r) := {}

theorem Renews.judgeResponseActive (s : State) : Renews X s s.judgeResponseActive := by
  unfold State.judgeResponseActive
  generalize s.faults.responses.toList.any junctionLevel = b
  exact {}

/-! ### Groups and patterns -/

/-- The groups change in what is no part of a green. -/
theorem Renews.ofGroups (s : State) (x : Vector GroupRun 16) (e : Ev)
    (h : ∀ g : Group, (s.groups[g]).Fresh → (x[g]).Fresh) : Renews X s { s with groups := x, ev := e } := { fresh := h }

/-- The inhibit reasons of a group are no part of its green. -/
theorem Renews.inhibit (s : State) (g : Group) (f : GroupRun → GroupRun)
    (h : ∀ r, r.Fresh → (f r).Fresh) : Renews X s (s.inhibit g f) := by
  obtain ⟨e, q⟩ := s.inhibit_eq g f
  rw [q]
  refine .ofGroups s _ e fun d x => ?_
  rw [upd_get]
  split
  · exact h _ x
  · exact x

theorem Renews.setHold (s : State) (g : Group) (b : Bool) : Renews X s (s.setHold g b) := by
  unfold State.setHold
  exact .inhibit s g _ fun _ => id

theorem Renews.setGreenUnavailable (s : State) (g : Group) (b : Bool) : Renews X s (s.setGreenUnavailable g b) := by
  unfold State.setGreenUnavailable
  exact .inhibit s g _ fun _ => id

theorem Renews.reformAll (s : State) : Renews X s s.reformAll := by
  have reform : ∀ (g : Group) (t : State), Renews X t (t.reform g) := by
    intro g t
    unfold State.reform
    dsimp only
    split
    · exact .refl X t
    · have held : Renews X t (State.setHold { t with faults := { t.faults with
          patterns := t.faults.patterns.set g (t.patternOf g)
          responses := t.faults.responses.set g (t.work.respOf (t.patternOf g)).response } } g
            (decide ((t.work.respOf (t.patternOf g)).response = .holdGroup))) :=
        .of (.setHold _ g _) {}
      exact .ite (.of (.ask _ _) held) held
  unfold State.reformAll
  exact .of (.judgeResponseActive _) (.each (fun g _ t => reform g t) s)

theorem Renews.renewInhibits (s : State) : Renews X s s.renewInhibits := by
  have conflict : Renews X s s.judgeConflictRedOut := by
    unfold State.judgeConflictRedOut
    refine .each (fun g _ t => ?_) s
    exact .inhibit t g _ fun _ => id
  unfold State.renewInhibits
  refine .of (.each (fun g _ t => ?_) _) conflict
  exact .of (.setGreenUnavailable _ g _) (.setHold t g _)

theorem Renews.renewMonitor (s : State) (old : Settings) : Renews X s (s.renewMonitor old) := by
  unfold State.renewMonitor
  generalize mapIx s.monitor _ = m
  exact {}

/-- The aspects of a mode are never green. -/
theorem GroupRun.Fresh.setByMode {r : GroupRun} (h : r.Fresh) {a : Aspect} (n : a ≠ .green) (x : Nat) :
    (r.setByMode a x).Fresh := by
  obtain ⟨na, -, off, mark⟩ := h
  refine ⟨n, rfl, ?_, mark⟩
  show (if r.aspect = .green then some x else r.lastGreenOff) = none
  rw [if_neg na, off]

theorem State.setAspects_fresh (s : State) (g : Group) (h : (s.groups[g]).Fresh) : (s.setAspects.groups[g]).Fresh := by
  rw [s.setAspects_get]
  split
  · next a e => exact h.setByMode (fun i => modeAspect_ne_green _ _ _ _ (i ▸ e)) _
  · exact h

theorem Renews.setAspects (s : State) : Renews X s s.setAspects := .ofGroups s _ _ s.setAspects_fresh

/-- The defaults of a group, whatever its inhibit reasons. -/
theorem GroupRun.default_fresh (a b c : Bool) :
    GroupRun.Fresh { GroupRun.default with conflictRedOut := a, hold := b, greenUnavailable := c } :=
  ⟨(nomatch ·), rfl, rfl, rfl⟩

/-- At a new working copy every group is without a green (R4). -/
theorem State.resetGroups_fresh (s : State) (g : Group) : (s.resetGroups.groups[g]).Fresh := by
  unfold State.resetGroups
  refine State.setAspects_fresh _ g ?_
  dsimp only
  rw [map_get]
  exact GroupRun.default_fresh _ _ _

theorem Renews.resetGroups (s : State) : Renews X s s.resetGroups :=
  .ofGroups s _ _ fun g _ => s.resetGroups_fresh g

/-! ### The output monitor -/

/-- A trip condition is of a kind that can arise. -/
theorem State.TripArises.arises {m : Vector MonGroup 16} {j : Group} {x : Kind} (h : s.TripArises m j x) :
    x.arises = true := by
  cases x <;> first | exact h.elim | rfl

/-- A judgement counts a trip in neither UNCONFIGURED nor FAILSAFE (R102). -/
theorem Renews.judgeMonitor (s : State)
    (h : .lockouts ∈ X ∨ s.mode.mode = .unconfigured) : Renews X s s.judgeMonitor := by
  have ended : Renews X s s.tripsEnded := by
    have judged : Renews X s s.evidenceJudged := by
      unfold State.evidenceJudged
      generalize Vector.ofFn s.judgeProven = v
      exact {}
    refine .of (.each (fun g _ t => .each (fun k m u => ?_) t) _) judged
    exact .endCond u (State.tripEnds_plain (List.mem_of_mem_filter m)).1
  have mode : (s.tripsEnded.each s.tripsFound fun k u => u.observe k).mode.mode = s.mode.mode := by
    have q : Quiet s (s.tripsEnded.each s.tripsFound fun k u => u.observe k) := by
      refine .of (.each (fun k u => .observe u k) _ _) <| .of (.each (fun g t => .each (fun k u => .endCond u k) _ t) _ _) ?_
      exact .ofMonitor s _
    obtain ⟨b, e⟩ := q.mode
    rw [e]
  have found : Renews X s (s.tripsEnded.each s.tripsFound fun k u => u.observe k) := by
    refine .of (.each (fun k m u => ?_) _) ended
    obtain ⟨⟨j, x, rfl, a⟩, -⟩ := State.mem_tripsFound.mp m
    obtain ⟨plain, cls⟩ := a.plain
    exact .observe u cls plain a.arises
  rw [s.judgeMonitor_eq]
  generalize (s.tripsEnded.each s.tripsFound fun k u => u.observe k) = t at mode found ⊢
  have trip : Renews X t t.trip := by
    rcases h with h | h
    · rw [t.trip_frame]
      exact { lockouts := fun n => (n h).elim }
    · rw [State.trip_off (.inl (mode.trans h))]
      exact .refl X t
  exact .ite ended (.of trip found)

end Sys2Proof.Machine

/-! SUPPORT. The tests, the supply relays, LEARN and the records of one core and one channel at a new working copy (R96, R97, R119, R135, R138, R145). -/

namespace Sys2Proof.Machine

variable {X : Set Renewal}

/-! ### Tests -/

theorem Renews.withdraw (s : State) (x : Subject) : Renews X s (s.withdraw x) where
  queue := List.filter_subset_self _

theorem Renews.updCore (s : State) (k : CoreId) (f : CoreRun → CoreRun) (h : ∀ r, (f r).hist = r.hist)
    (x : .core k ∈ X) : Renews X s (s.updCore k f) where
  core := fun d n _ => upd_other _ _ _ _ fun e => n (e ▸ x)
  hist := fun d _ => by
    unfold State.updCore
    rw [upd_get]
    split
    · exact h _
    · rfl

/-- The test of a core ends where one is under way (R145). -/
theorem Renews.abandon (s : State) (k : CoreId) (counted : Bool) : Renews X s (s.abandon k counted) := by
  unfold State.abandon
  split
  · next h =>
    have running : ¬ s.Untested k := fun x => by
      have h : (s.survey.underTest = some k ∧ (s.cores[k]).test.inProgress = true)
          ∧ (s.cores[k]).test ≠ .releasing := by simpa using h
      exact h.2 (x h.1.1 h.1.2)
    have count : ∀ v : State, Renews (insert (.core k) X) v (if counted then
        v.updCore k fun r => { r with
          abandons := min 5 ((v.cores[k]).abandons + 1)
          mark := if min 5 ((v.cores[k]).abandons + 1) = 5 && r.mark.isDue then .deferred else r.mark }
        else v) := fun v => .ite (.updCore v k _ (fun _ => rfl) (Set.mem_insert _ _)) (.refl _ v)
    have released : ∀ v : State, Renews (insert (.core k) X) v (v.enterReleasing k) := fun v => by
      unfold State.enterReleasing
      exact .of (.updCore _ k _ (fun _ => rfl) (Set.mem_insert _ _)) {}
    exact Renews.given_up (.of (released _) <| .of (count _) (.withdraw s _)) running
  · exact .refl X s

theorem State.abandon_untested (s : State) (k : CoreId) (counted : Bool) : (s.abandon k counted).Untested k := by
  unfold State.abandon
  split
  · intro _ _
    unfold State.enterReleasing State.updCore
    dsimp only
    rw [upd_same]
  · next h =>
    intro under progress
    by_contra running
    exact h (by simp only [under, progress, ne_eq, running, not_false_eq_true, decide_true, Bool.and_self])

theorem Renews.abandonIf (s : State) (p : CoreCfg → Bool) : Renews X s (s.abandonIf p) := by
  unfold State.abandonIf
  split
  · exact .ite (.abandon s _ _) (.refl X s)
  · exact .refl X s

/-! ### The supply relays (R96, R97) -/

theorem Renews.smcClose (s : State) : Renews X s s.smcClose := by
  have begin : Renews X s s.smcBeginClose := by
    unfold State.smcBeginClose
    have closing : ∀ f, Renews X s (s.setSmc f).surveySupply := fun f => .of (.abandonIf _ _) {}
    exact .ite (closing _) (.of (.abandonIf _ _) (closing _))
  unfold State.smcClose
  split
  · exact begin
  · exact {}
  · exact .refl X s
  · exact .refl X s
  · exact .refl X s

theorem Renews.smcOpen (s : State) : Renews X s s.smcOpen := by
  unfold State.smcOpen
  split
  · exact {}
  · exact {}
  · exact {}
  · exact .refl X s
  · exact .refl X s

theorem Renews.ftrToFlash (s : State) : Renews X s s.ftrToFlash := by
  unfold State.ftrToFlash
  split
  · exact {}
  · exact {}
  · exact {}
  · exact .ite (.smcOpen s) (.refl X s)
  · exact .refl X s

theorem Renews.ftrToNormal (s : State) : Renews X s s.ftrToNormal := by
  unfold State.ftrToNormal
  split
  · exact {}
  · exact {}
  · exact .refl X s
  · exact .refl X s
  · exact .refl X s

theorem Renews.supplyCommands (s : State) : Renews X s s.supplyCommands := by
  have off : Renews X s s.smcOpen.ftrToFlash := .of (.ftrToFlash _) (.smcOpen s)
  have flash : Renews X s s.smcClose.ftrToFlash := .of (.ftrToFlash _) (.smcClose s)
  have normal : Renews X s s.smcClose.ftrToNormal := .of (.ftrToNormal _) (.smcClose s)
  unfold State.supplyCommands
  dsimp only
  split
  · exact off
  · exact off
  · exact .ite off flash
  · exact flash
  · exact flash
  · exact normal
  · exact normal
  · exact normal
  · exact .ite off flash

/-! ### LEARN, and the entry of STANDBY (R135, R179) -/

theorem Reports.endJob (s : State) {k : JobKind} (r : JobResult) (items : JobItems) (h : k = .learn ∨ k = .surveyNow) :
    Reports s (s.endJob k r items) := by
  have q := Quiet.endJob s k r items h
  have told : ∀ n : Notice, Reports { s with link := { s.link with jobs := s.link.jobs.filter (·.kind ≠ k) } }
      (State.notify { s with link := { s.link with jobs := s.link.jobs.filter (·.kind ≠ k) } } n) := fun n => .notify _ n
  obtain ⟨absent, present⟩ := s.endJob_spec k r items
  cases e : s.job? k with
  | none => rw [absent e]; exact .refl s
  | some j =>
    have job := q.configJob
    rw [present j e] at job ⊢
    exact { told _ with job := job }

theorem FaultsOnly.endJob (s : State) (k : JobKind) (r : JobResult) (items : JobItems) :
    FaultsOnly s (s.endJob k r items) := by
  unfold State.endJob
  split
  · exact .refl s
  · exact FaultsOnly.trans (t := { s with link := _ }) rfl (.notify _ _)

theorem Renews.endLearn (s : State) (r : JobResult) (items : JobItems) : Renews X s (s.endJob .learn r items) :=
  (FaultsOnly.endJob s _ r items).renews (.endJob s r items (.inl rfl))

theorem Renews.learnAbandoned (s : State) : Renews X s (s.learnEnd .abandoned) := by
  have stopped : Renews X s
      { s with lamps := s.lamps.map fun (l : LampRun) => if l.learning then l.stopLearning else l } :=
    { lamp := fun c _ => by
        dsimp only
        rw [map_get]
        split <;> rfl }
  unfold State.learnEnd
  exact .ite (.of (.endLearn _ _ _) stopped) (.refl X s)

/-- The notice of a mode's entry, the adoption of a pending set and the end of a LEARN job. -/
theorem Renews.modeReported (s : State) (old m : Mode) : Renews X s (s.modeReported old m) := by
  have reported : Renews X s (s.modeChanged old) := by
    unfold State.modeChanged
    exact .notify s _
  have adopt : ∀ t : State, Renews X t (if m = .unconfigured ∨ m = .standby ∨ m = .failsafe then t.adoptPending else t) :=
    fun t => .ite (.adoptPending t) (.refl X t)
  have learn : ∀ t : State, Renews X t (if learnEnds m none then t.learnEnd .abandoned else t) :=
    fun t => .ite (.learnAbandoned t) (.refl X t)
  unfold State.modeReported
  exact .trans (.of (learn _) <| .of (adopt _) reported) {}

/-- In UNCONFIGURED the entry of STANDBY renews no record. -/
theorem Renews.enterStandby (s : State) (h : s.mode.mode = .unconfigured) : Renews X s (s.enterMode .standby) := by
  have set : Renews X s (s.modeSet .standby) := by
    unfold State.modeSet
    rw [if_neg (by rw [h]; decide)]
    exact {}
  rw [State.enterMode_eq]
  exact .of (.modeReported _ _ _) <| .of (.setAspects _) <| .of (.supplyCommands _) set

/-- In UNCONFIGURED no request changes the mode (R170). -/
theorem State.modeRequest_unconfigured {s : State} (h : s.mode.mode = .unconfigured) (r : ModeReq) :
    s.modeRequest r = s := by
  have failsafe : ∀ c d, s.enterFailsafe c d = s := fun c d => if_pos h
  cases r with
  | trip => exact failsafe _ _
  | supplyCut => exact failsafe _ _
  | junction dark immediate =>
    show s.junctionRequest dark immediate = s
    unfold State.junctionRequest
    rw [h, failsafe, ite_self]
  | flash => exact if_neg (by rw [h]; decide)
  | planRequest => exact if_neg (by rw [h]; decide)

theorem State.modeWork_unconfigured {s : State} (h : s.mode.mode = .unconfigured) :
    s.modeWork = { s with ev := { s.ev with modeReqs := [] } } := by
  unfold State.modeWork
  exact State.each_induct (P := (· = { s with ev := { s.ev with modeReqs := [] } })) _ _ rfl fun r _ t e => by
    rw [State.modeRequest_unconfigured (by rw [e]; exact h), e]

theorem State.modeWork_unconfigured_mode {s : State} (h : s.mode.mode = .unconfigured) :
    s.modeWork.mode.mode = .unconfigured := by
  rw [State.modeWork_unconfigured h]
  exact h

theorem Renews.modeWork {s : State} (h : s.mode.mode = .unconfigured) : Renews X s s.modeWork := by
  rw [State.modeWork_unconfigured h]
  exact {}

/-! ### One channel and one core (R119, R138) -/

theorem Renews.updLamp (s : State) (c : Chan) (f : LampRun → LampRun) : Renews {.lamp c} s (s.updLamp c f) where
  lamp := fun d n => congrArg LampRun.proving (upd_other _ _ _ _ fun e => n (e ▸ rfl))

theorem Renews.renewLamp (s : State) (old : Settings) (c : Chan) : Renews {.lamp c} s (s.renewLamp old c) := by
  unfold State.renewLamp
  exact .ite (.ite (.updLamp s c _) (.ite (.updLamp s c _) (.refl _ s)))
    (.ite (.of (.updLamp _ c _) <| .of (.withdraw _ _) (.withdraw s _)) (.refl _ s))

theorem Renews.renewCore (s : State) (old : Settings) (k : CoreId) :
    Renews {.core k, .hist k} s (s.renewCore old k) := by
  have cleared : ∀ t : State, Renews {.core k, .hist k} t (t.updCore k fun r => { r with hist := .cleared }) := fun t =>
    { core := fun d n _ => upd_other _ _ _ _ fun e => n (by simp [e])
      hist := fun d n => congrArg CoreRun.hist (upd_other _ _ _ _ fun e => n (by simp [e])) }
  have marked : ∀ (t : State) (f : CoreRun → CoreRun), (∀ r, (f r).hist = r.hist) →
      Renews {.core k, .hist k} t (t.updCore k f) := fun t f h => .updCore t k f h (by simp)
  unfold State.renewCore
  dsimp only
  split
  · exact .refl _ s
  · have abandoned := Renews.of (cleared _) (.abandon s k false)
    have select : ∀ (t : State) (b : Bool), Renews {.core k, .hist k} t (if b then t else t.wantSelection) :=
      fun t b => .ite (.refl _ t) {}
    exact .of (select _ _) <| .of (.ite (marked _ _ fun _ => rfl) (.ite (marked _ _ fun _ => rfl) (.refl _ _))) abandoned

end Sys2Proof.Machine

/-! SUPPORT. A new working copy as a whole: what the surveyor and the lamp prover make of a core and of a channel, and the conditions that end (R119, R138, R159, R179). -/

namespace Sys2Proof.Machine

variable {s : State} {old : Settings}

/-! ### One channel (R119) -/

theorem State.renewLamp_both {c : Chan} (h : s.work.used c = true) (k : old.used c = true) :
    (s.renewLamp old c).lamps[c] = { s.lamps[c] with lampsLit := min (s.lamps[c]).lampsLit (s.work.lampCount c) } := by
  unfold State.renewLamp
  rw [if_pos h, if_pos k]
  exact upd_same _ _ _

theorem State.renewLamp_begun {c : Chan} (h : s.work.used c = true) (k : old.used c = false)
    (r : (s.relays[c]).state = .released) :
    (s.renewLamp old c).lamps[c] = { s.lamps[c] with dark := some (s.now + 500) } := by
  unfold State.renewLamp
  rw [if_pos h, if_neg (by rw [k]; decide), if_pos r]
  exact upd_same _ _ _

theorem State.renewLamp_ended {c : Chan} (h : s.work.used c = false) (k : old.used c = true) :
    (s.renewLamp old c).lamps[c] = { s.lamps[c] with
        settle := none, repeatTimer := none, dark := none, lit := .none, lampsLit := 0 }
      ∧ ∀ r ∈ (s.renewLamp old c).meas.queue, r.subject ≠ .lit c ∧ r.subject ≠ .dark c := by
  unfold State.renewLamp
  rw [if_neg (by rw [h]; decide), if_pos k]
  refine ⟨upd_same _ _ _, fun r m => ?_⟩
  have n : r ∈ s.meas.queue ∧ r.subject ≠ .lit c ∧ r.subject ≠ .dark c := by
    simpa [State.updLamp, State.withdraw, List.mem_filter, and_assoc, and_comm, and_left_comm] using m
  exact n.2

/-! ### One core (R138) -/

/-- The record of a core whose configuration a commit changes, its test having been given up. -/
def CoreRun.renewed (r : CoreRun) (unused begun : Prop) [Decidable unused] [Decidable begun] : CoreRun :=
  if unused then { r with hist := .cleared, mark := .none }
  else if begun then { r with hist := .cleared, mark := .due, abandons := 0 }
  else { r with hist := .cleared }

theorem State.renewCore_eq {k : CoreId} (h : old.cores[k] ≠ s.work.cores[k]) :
    (s.renewCore old k).survey = (s.abandon k false).survey
      ∧ (s.renewCore old k).cores[k] = ((s.abandon k false).cores[k]).renewed (s.work.cores[k].role = .unused)
          (old.cores[k].role = .unused ∧ s.survey.active = true) := by
  have active : (s.abandon k false).survey.active = s.survey.active := (Renews.abandon (X := ∅) s k false).active
  have wanted : ∀ (w : State) (b : Bool), (if b then w else w.wantSelection).survey = w.survey
      ∧ (if b then w else w.wantSelection).cores = w.cores := fun w b => by cases b <;> exact ⟨rfl, rfl⟩
  unfold State.renewCore CoreRun.renewed
  dsimp only
  rw [if_neg h]
  generalize s.abandon k false = t at active
  obtain ⟨survey, cores⟩ := wanted (if s.work.cores[k].role = .unused
    then (t.updCore k fun r => { r with hist := .cleared }).updCore k fun r => { r with mark := .none }
    else if old.cores[k].role = .unused ∧ (t.updCore k fun r => { r with hist := .cleared }).survey.active = true
    then (t.updCore k fun r => { r with hist := .cleared }).updCore k fun r => { r with mark := .due, abandons := 0 }
    else t.updCore k fun r => { r with hist := .cleared }) (sameRole old.cores[k].role s.work.cores[k].role)
  rw [survey, cores]
  simp only [State.updCore, active]
  split
  · exact ⟨rfl, by simp⟩
  · split
    · exact ⟨rfl, by simp⟩
    · exact ⟨rfl, by simp⟩

theorem CoreRun.renewed_hist (r : CoreRun) (p q : Prop) [Decidable p] [Decidable q] : (r.renewed p q).hist = .cleared := by
  unfold CoreRun.renewed
  split
  · rfl
  · split <;> rfl

theorem CoreRun.renewed_test (r : CoreRun) (p q : Prop) [Decidable p] [Decidable q] : (r.renewed p q).test = r.test := by
  unfold CoreRun.renewed
  split
  · rfl
  · split <;> rfl

theorem CoreRun.renewed_unused (r : CoreRun) {p q : Prop} [Decidable p] [Decidable q] (h : p) :
    (r.renewed p q).mark = .none := by
  unfold CoreRun.renewed
  rw [if_pos h]

theorem CoreRun.renewed_begun (r : CoreRun) {p q : Prop} [Decidable p] [Decidable q] (h : ¬ p) (k : q) :
    (r.renewed p q).mark = .due ∧ (r.renewed p q).abandons = 0 := by
  unfold CoreRun.renewed
  rw [if_neg h, if_pos k]
  exact ⟨rfl, rfl⟩

/-- After a commit that changes its configuration no core has a test under way. -/
theorem State.renewCore_untested {k : CoreId} (h : old.cores[k] ≠ s.work.cores[k]) : (s.renewCore old k).Untested k := by
  obtain ⟨survey, core⟩ := State.renewCore_eq h
  unfold State.Untested
  rw [survey, core, CoreRun.renewed_test]
  exact s.abandon_untested k false

/-! ### The whole of a new working copy (R179) -/

/-- The conditions that end. -/
def State.copyEnds (s : State) (old : Settings) : List Cond :=
  allCores.flatMap (s.coreEnds old) ++ allChans.flatMap (s.channelEnds old)

/-- The groups take their defaults and the void marks are set. -/
def State.groupsRenewed (s : State) : State := s.resetGroups.renewVoids

/-- The proving record of each channel is renewed (R119). -/
def State.lampsRenewed (s : State) (old : Settings) : State := s.groupsRenewed.each allChans fun c t => t.renewLamp old c

/-- The record of each core is renewed (R138). -/
def State.coresRenewed (s : State) (old : Settings) : State :=
  (s.lampsRenewed old).each allCores fun k t => t.renewCore old k

/-- The suspicions of the channels no longer used are removed (R159). -/
def State.suspectsDropped (s : State) (old : Settings) : State :=
  (s.coresRenewed old).each allChans fun c t => t.dropSuspicions old c

/-- The conditions that end have left the confirmed set (R138, R159; log 81). -/
def State.condsEnded (s : State) (old : Settings) : State :=
  (s.suspectsDropped old).each (s.copyEnds old) fun k t => t.dropCond k

/-- The patterns and inhibit reasons are formed afresh and the output monitor judges. -/
def State.copyJudged (s : State) (old : Settings) : State :=
  (((s.condsEnded old).reformAll.renewInhibits).renewMonitor old).judgeMonitor

theorem State.blocksRenewed_eq (s : State) (old : Settings) : s.blocksRenewed old
    = if (s.copyJudged old).mode.mode = .standby
        ∧ (s.copyJudged old).work.junction.standbyDisplay ≠ old.junction.standbyDisplay
      then (s.copyJudged old).supplyCommands else s.copyJudged old := by
  unfold State.blocksRenewed State.copyJudged State.condsEnded State.suspectsDropped State.coresRenewed
    State.lampsRenewed State.groupsRenewed State.copyEnds
  rfl

theorem State.blocksRenewed_mode (s : State) (old : Settings) : (s.blocksRenewed old).mode.mode = s.mode.mode :=
  (Calm.blocksRenewed s old).mode.trans (Calm.judgeUsable _).mode

/-- The groups and the mode are as the defaults and the void marks left them. -/
theorem State.condsEnded_calm (s : State) (old : Settings) : Calm s.groupsRenewed (s.condsEnded old) := by
  unfold State.condsEnded State.suspectsDropped State.coresRenewed State.lampsRenewed
  exact .of (.each (fun k t => (Quiet.dropCond t k).calm) _ _) <|
    .of (.each (fun c t => .dropSuspicions t old c) _ _) <| .of (.each (fun k t => .renewCore t old k) _ _) <|
    .each (fun c t => .renewLamp t old c) _ _

variable {X : Set Renewal}

/-- What comes after the conditions have ended renews no record; in UNCONFIGURED no trip is counted (log 83). -/
theorem Renews.copyFinished (s : State) (old : Settings) (h : .lockouts ∈ X ∨ s.mode.mode = .unconfigured) :
    Renews X (s.condsEnded old) (s.newWorkingCopy old) := by
  have formed : Renews X (s.condsEnded old) (((s.condsEnded old).reformAll.renewInhibits).renewMonitor old) :=
    .of (.renewMonitor _ old) <| .of (.renewInhibits _) (.reformAll _)
  have mode : ((((s.condsEnded old).reformAll.renewInhibits).renewMonitor old)).mode.mode = s.mode.mode :=
    (((((s.condsEnded_calm old).trans (Quiet.reformAll _).calm).trans (.renewInhibits _)).trans
      (.renewMonitor _ old)).mode).trans (Calm.judgeUsable _).mode
  have judged : Renews X (s.condsEnded old) (s.copyJudged old) :=
    .of (.judgeMonitor _ (h.imp_right mode.trans)) formed
  have blocks : Renews X (s.condsEnded old) (s.blocksRenewed old) := by
    rw [s.blocksRenewed_eq]
    exact .ite (.of (.supplyCommands _) judged) judged
  rw [s.newWorkingCopy_eq]
  split
  · next u =>
    exact .of (.enterStandby _ (State.modeWork_unconfigured_mode u)) <| .of (.modeWork u) blocks
  · exact blocks

theorem Renews.condsEnded (s : State) (old : Settings) : Renews X (s.coresRenewed old) (s.condsEnded old) := by
  unfold State.condsEnded State.suspectsDropped
  exact .of (.each (fun k _ t => .dropCond t k) _) (.each (fun c _ t => .dropSuspicions t old c) _)

theorem Renews.groupsRenewed (s : State) : Renews X s s.groupsRenewed := .of (.renewVoids _) (.resetGroups s)

theorem Renews.lampsRenewed (s : State) (old : Settings) (h : ∀ c, .lamp c ∈ X) :
    Renews X s.groupsRenewed (s.lampsRenewed old) :=
  .each (fun c _ t => .one (.renewLamp t old c) (h c)) _

theorem Renews.coresRenewed (s : State) (old : Settings) (h : ∀ k, .core k ∈ X ∧ .hist k ∈ X) :
    Renews X (s.lampsRenewed old) (s.coresRenewed old) :=
  .each (fun k _ t => (Renews.renewCore t old k).mono (Set.insert_subset (h k).1 (Set.singleton_subset_iff.mpr (h k).2))) _

/-- A new working copy renews no more than the cores, the channels and, where a trip is counted, the count. -/
theorem Renews.newWorkingCopy (s : State) (old : Settings) (h : .lockouts ∈ X ∨ s.mode.mode = .unconfigured)
    (l : ∀ c, .lamp c ∈ X) (k : ∀ k, .core k ∈ X ∧ .hist k ∈ X) : Renews X s.groupsRenewed (s.newWorkingCopy old) :=
  .of (.copyFinished s old h) <| .of (.condsEnded s old) <| .of (.coresRenewed s old k) (.lampsRenewed s old l)

/-- What a channel's record is after a new working copy, the step for that channel makes of it. -/
theorem State.newWorkingCopy_lamp (s : State) (old : Settings) (c : Chan) :
    ∃ v, Renews {i | i ≠ .lamp c} s v ∧ Renews {i | i ≠ .lamp c} (v.renewLamp old c) (s.newWorkingCopy old) := by
  obtain ⟨v, before, after⟩ := Renews.each_at (X := {i | i ≠ .lamp c}) (f := fun c t => t.renewLamp old c)
    (fun b n t => (Renews.renewLamp t old b).one fun e => n (by cases e; rfl))
    (List.nodup_finRange 48) (List.mem_finRange c) s.groupsRenewed
  exact ⟨v, before.of (.groupsRenewed s), .of (.copyFinished s old (.inl (by simp))) <| .of (.condsEnded s old) <|
    .of (.coresRenewed s old (by simp)) after⟩

/-- The same of a core. -/
theorem State.newWorkingCopy_core (s : State) (old : Settings) (k : CoreId) :
    ∃ v, Renews {i | i ≠ .core k ∧ i ≠ .hist k} s v
      ∧ Renews {i | i ≠ .core k ∧ i ≠ .hist k} (v.renewCore old k) (s.newWorkingCopy old) := by
  obtain ⟨v, before, after⟩ := Renews.each_at (X := {i | i ≠ .core k ∧ i ≠ .hist k}) (f := fun k t => t.renewCore old k)
    (fun b n t => (Renews.renewCore t old b).mono (by
      rintro i (rfl | rfl) <;> simp [n]))
    (List.nodup_finRange 64) (List.mem_finRange k) (s.lampsRenewed old)
  exact ⟨v, before.of <| .of (.lampsRenewed s old (by simp)) (.groupsRenewed s),
    .of (.copyFinished s old (.inl (by simp))) <| .of (.condsEnded s old) after⟩

/-! ### The conditions that end (R138, R159) -/

/-- A condition that ends at a new working copy, and is not of a kind that can arise there, is neither confirmed nor suspected. -/
theorem State.newWorkingCopy_ended {k : Cond} (m : k ∈ s.copyEnds old) (a : k.kind.arises = false) :
    k ∉ (s.newWorkingCopy old).faults.confirmed ∧ ∀ r ∈ (s.newWorkingCopy old).faults.suspicions, r.key ≠ k := by
  have ended : k ∉ (s.condsEnded old).faults.confirmed ∧ ∀ r ∈ (s.condsEnded old).faults.suspicions, r.key ≠ k := by
    refine State.each_reaches (P := fun t => k ∉ t.faults.confirmed ∧ ∀ r ∈ t.faults.suspicions, r.key ≠ k) m
      (fun t => ?_) (fun b t h => ?_) _
    · obtain ⟨confirmed, suspicions⟩ := t.dropCond_lists k
      rw [confirmed, suspicions]
      simp [List.mem_filter]
    · obtain ⟨confirmed, suspicions⟩ := t.dropCond_lists b
      rw [confirmed, suspicions]
      exact ⟨fun m => h.1 (List.mem_of_mem_filter m), fun r m => h.2 r (List.mem_of_mem_filter m)⟩
  have finished := Renews.copyFinished (X := Set.univ) s old (.inl trivial)
  exact ⟨fun m => (finished.confirmed k m).elim ended.1 fun b => (by rw [a] at b; cases b),
    fun r m => ended.2 r (finished.suspects m)⟩

/-- The suspicions of a channel that a commit makes unused are removed. -/
theorem State.newWorkingCopy_unsuspected {c : Chan} (h : s.work.used c = false) (k : old.used c = true) :
    ∀ r ∈ (s.newWorkingCopy old).faults.suspicions, r.key.source ≠ .channel c := by
  have dropped : (s.suspectsDropped old).work.used c = false →
      ∀ r ∈ (s.suspectsDropped old).faults.suspicions, r.key.source ≠ .channel c := by
    refine State.each_reaches (P := fun t => t.work.used c = false → ∀ r ∈ t.faults.suspicions, r.key.source ≠ .channel c)
      (List.mem_finRange c) (fun t u => ?_) (fun b t n u => ?_) _
    · rw [(Renews.dropSuspicions (X := ∅) t old c).work] at u
      unfold State.dropSuspicions
      rw [if_pos (by rw [k, u]; rfl)]
      intro r m
      simpa using List.of_mem_filter m
    · have d := Renews.dropSuspicions (X := ∅) t old b
      rw [d.work] at u
      exact fun r m => n u r (d.suspects m)
  have work : (s.suspectsDropped old).work = s.work :=
    (Renews.of (X := Set.univ) (.each (fun c _ t => .dropSuspicions t old c) _) <|
      .of (.coresRenewed s old fun _ => ⟨trivial, trivial⟩) <| .of (.lampsRenewed s old fun _ => trivial)
        (.groupsRenewed s)).work
  have finished := (Renews.each (X := Set.univ) (fun k _ t => .dropCond t k) (s.suspectsDropped old)).trans
    (Renews.copyFinished s old (.inl trivial))
  exact fun r m => dropped (by rw [work]; exact h) r (finished.suspects m)

end Sys2Proof.Machine

/-! SUPPORT. The completion of a write: the report of STORE_WRITE_FAILED, the end of the job, and what a commit makes of the cores, the channels and the plan sets (R41, R43, R119, R138, R159, R179, R185). -/

namespace Sys2Proof.Machine

/-! ### Reports while the store changes -/

/-- The state with another store. -/
def State.withStore (s : State) (st : Store) : State := { s with store := st }

/-- A report reads nothing of the store. -/
theorem State.notify_withStore (s : State) (st : Store) (n : Notice) :
    (s.withStore st).notify n = (s.notify n).withStore st := by
  unfold State.notify State.withStore
  dsimp only
  split <;> rfl

theorem State.enterAlarm_withStore (s : State) (st : Store) (k : Cond) (tag : ConfTag) :
    (s.withStore st).enterAlarm k tag = (s.enterAlarm k tag).withStore st := by
  have told : ∀ (f : Faults) (n : Notice), State.notify { s with faults := f, store := st } n
      = (State.notify { s with faults := f } n).withStore st := fun f n =>
    State.notify_withStore { s with faults := f } st n
  unfold State.enterAlarm State.withStore at *
  dsimp only
  split
  · split
    · rfl
    · exact told _ _
  · split
    · exact told _ _
    · split
      · exact told _ _
      · exact told _ _

theorem State.endCond_withStore (s : State) (st : Store) {k : Cond} (p : k.kind.plain = true) :
    (s.withStore st).endCond k = (s.endCond k).withStore st := by
  have drop : (s.withStore st).dropSuspicion k = (s.dropSuspicion k).withStore st := rfl
  unfold State.endCond
  rw [State.concerned_plain _ p, State.concerned_plain _ p, ite_self, ite_self]
  unfold State.dropCond
  rw [drop]
  generalize s.dropSuspicion k = t
  dsimp only
  by_cases c : t.isConfirmed k = true
  · rw [if_pos c, if_pos (show (t.withStore st).isConfirmed k = true from c)]
    exact State.notify_withStore { t with faults := _ } st _
  · rw [if_neg c, if_neg (show ¬ (t.withStore st).isConfirmed k = true from c)]

theorem State.confirm_withStore (s : State) (st : Store) {k : Cond} {tag : ConfTag} (p : k.kind.plain = true) :
    (s.withStore st).confirm k tag = (s.confirm k tag).withStore st := by
  have drop : (s.withStore st).dropSuspicion k = (s.dropSuspicion k).withStore st := rfl
  unfold State.confirm
  dsimp only
  rw [State.concerned_plain _ p, State.concerned_plain _ p, drop]
  generalize s.dropSuspicion k = t
  by_cases c : t.isConfirmed k = true
  · rw [if_pos c, if_pos (show (t.withStore st).isConfirmed k = true from c)]
    exact t.enterAlarm_withStore st k tag
  · rw [if_neg c, if_neg (show ¬ (t.withStore st).isConfirmed k = true from c)]
    exact State.enterAlarm_withStore { t with faults := _ } st k tag

/-! ### Reports and the job table -/

theorem State.notify_jobs (s : State) (n : Notice) : (s.notify n).link.jobs = s.link.jobs := by
  unfold State.notify
  split <;> rfl

theorem State.enterAlarm_jobs (s : State) (k : Cond) (tag : ConfTag) :
    (s.enterAlarm k tag).link.jobs = s.link.jobs := by
  unfold State.enterAlarm
  dsimp only
  split
  · split
    · rfl
    · rw [State.notify_jobs]
  · split
    · rw [State.notify_jobs]
    · split <;> rw [State.notify_jobs]

theorem State.endCond_jobs (s : State) {k : Cond} (p : k.kind.plain = true) :
    (s.endCond k).link.jobs = s.link.jobs := by
  unfold State.endCond
  rw [State.concerned_plain _ p, ite_self]
  unfold State.dropCond State.clearAlarm
  dsimp only
  split
  · rw [State.notify_jobs]
    rfl
  · rfl

theorem State.confirm_jobs (s : State) {k : Cond} {tag : ConfTag} (p : k.kind.plain = true) :
    (s.confirm k tag).link.jobs = s.link.jobs := by
  unfold State.confirm
  dsimp only
  rw [State.concerned_plain _ p]
  split <;> rw [State.enterAlarm_jobs] <;> rfl

/-! ### The end of a job -/

variable {s : State} {old : Settings}

theorem State.hasJob_endJob (s : State) (k : JobKind) (r : JobResult) (items : JobItems) :
    (s.endJob k r items).hasJob k = false := by
  unfold State.hasJob State.job?
  rw [State.endJob_jobs]
  simp

/-- A job that ends is told of, or the notice is lost. -/
theorem State.endJob_told {k : JobKind} {j : Job} (h : s.job? k = some j) (r : JobResult) (items : JobItems) :
    (s.link.notices.length < 16 → .jobDone j.number j.kind r items ∈ (s.endJob k r items).link.notices)
      ∧ (16 ≤ s.link.notices.length → (s.endJob k r items).link.lost = true) := by
  have kind : j.kind = k := by simpa using List.find?_some h
  obtain ⟨room, full⟩ := State.notify_spec { s with link := { s.link with jobs := s.link.jobs.filter (·.kind ≠ k) } }
    (.jobDone j.number k r items)
  rw [(s.endJob_spec k r items).2 j h, kind]
  refine ⟨fun n => ?_, fun n => ?_⟩
  · rw [room n]
    exact List.mem_append_right _ (List.mem_singleton.mpr rfl)
  · rw [full n]

/-! ### A commit of the configuration (R119, R138, R159, R179) -/

theorem Kind.insulation_iff {x : Kind} :
    x.insulation = true ↔ x = .earthFault ∨ x = .insulationLow ∨ x = .insulationWarn := by
  cases x <;> decide

/-- The insulation conditions of a core end with its history. -/
theorem State.mem_copyEnds_core {k : CoreId} {x : Kind} (h : old.cores[k] ≠ s.work.cores[k]) (i : x.insulation = true) :
    (⟨.core k, x⟩ : Cond) ∈ s.copyEnds old := by
  refine List.mem_append_left _ (List.mem_flatMap.mpr ⟨k, List.mem_finRange k, ?_⟩)
  unfold State.coreEnds
  rw [if_neg h]
  obtain rfl | rfl | rfl := Kind.insulation_iff.mp i <;> simp

/-- The lamp conditions of a channel end with its use. -/
theorem State.mem_copyEnds_channel {c : Chan} {x : Cond} (h : s.work.used c = false) (k : old.used c = true)
    (m : x ∈ lampConds c) : x ∈ s.copyEnds old := by
  refine List.mem_append_right _ (List.mem_flatMap.mpr ⟨c, List.mem_finRange c, ?_⟩)
  unfold State.channelEnds
  rw [if_pos (by rw [h, k]; rfl)]
  exact m

/-- The surveyor's part. -/
theorem State.newWorkingCopy_cores (s : State) (old : Settings) (k : CoreId) :
    let u := s.newWorkingCopy old
    (old.cores[k] = s.work.cores[k] → (u.cores[k]).hist = (s.cores[k]).hist)
      ∧ (old.cores[k] ≠ s.work.cores[k] → (u.cores[k]).hist = .cleared
        ∧ (∀ x : Kind, x.insulation = true → (⟨.core k, x⟩ : Cond) ∉ u.faults.confirmed
            ∧ ∀ r ∈ u.faults.suspicions, r.key ≠ ⟨.core k, x⟩)
        ∧ (s.work.cores[k].role = .unused → (u.cores[k]).mark = .none)
        ∧ (old.cores[k].role = .unused → s.work.cores[k].role ≠ .unused → s.survey.active = true →
            (u.cores[k]).mark = .due ∧ (u.cores[k]).abandons = 0)) := by
  obtain ⟨v, before, after⟩ := s.newWorkingCopy_core old k
  have work : v.work = s.work := before.work
  refine ⟨fun h => ?_, fun h => ?_⟩
  · have unchanged : v.renewCore old k = v := by
      unfold State.renewCore
      dsimp only
      rw [if_pos (by rw [work]; exact h)]
    rw [after.hist k (by simp), unchanged, before.hist k (by simp)]
  · have changed : old.cores[k] ≠ v.work.cores[k] := by rw [work]; exact h
    have core := after.core k (by simp) (State.renewCore_untested changed)
    rw [(State.renewCore_eq changed).2, work, before.active] at core
    rw [core]
    refine ⟨CoreRun.renewed_hist _ _ _, fun x i => ?_, CoreRun.renewed_unused _, fun a b c => ?_⟩
    · exact State.newWorkingCopy_ended (State.mem_copyEnds_core h i)
        (by obtain rfl | rfl | rfl := Kind.insulation_iff.mp i <;> rfl)
    · exact CoreRun.renewed_begun _ b ⟨a, c⟩

/-- The lamp prover's part. -/
theorem State.newWorkingCopy_lamps (s : State) (old : Settings) (c : Chan) :
    let u := s.newWorkingCopy old
    let l := s.lamps[c]
    let v := u.lamps[c]
    (old.used c = true → s.work.used c = true → v.lampsLit = min l.lampsLit (s.work.lampCount c)
        ∧ v.settle = l.settle ∧ v.repeatTimer = l.repeatTimer ∧ v.dark = l.dark ∧ v.lit = l.lit ∧ v.last = l.last)
      ∧ (old.used c = false → s.work.used c = true → (s.relays[c]).state = .released → v.dark = some (s.now + 500))
      ∧ (old.used c = true → s.work.used c = false →
        v.settle = none ∧ v.repeatTimer = none ∧ v.dark = none ∧ v.lit = .none ∧ v.lampsLit = 0
          ∧ ∀ r ∈ u.meas.queue, r.subject ≠ .lit c ∧ r.subject ≠ .dark c) := by
  obtain ⟨t, before, after⟩ := s.newWorkingCopy_lamp old c
  have work : t.work = s.work := before.work
  have proving := before.lamp c (by simp)
  have final := after.lamp c (by simp)
  simp only [LampRun.proving, Prod.mk.injEq] at proving final
  obtain ⟨lit, last, period, settle, rep, dark⟩ := proving
  obtain ⟨lit', last', period', settle', rep', dark'⟩ := final
  dsimp only
  rw [lit', last', period', settle', rep', dark']
  refine ⟨fun a b => ?_, fun a b r => ?_, fun a b => ?_⟩
  · rw [State.renewLamp_both (by rw [work]; exact b) a, work]
    exact ⟨by rw [← lit], settle, rep, dark, period, last⟩
  · rw [State.renewLamp_begun (by rw [work]; exact b) a (by rw [before.relays]; exact r), before.now]
  · obtain ⟨record, queue⟩ := State.renewLamp_ended (by rw [work]; exact b) a
    rw [record]
    exact ⟨rfl, rfl, rfl, rfl, rfl, fun r m => queue r (after.queue m)⟩

/-- The conditions of a channel that becomes unused. -/
theorem State.newWorkingCopy_lampConds {c : Chan} (h : s.work.used c = false) (k : old.used c = true) :
    let u := s.newWorkingCopy old
    (⟨.channel c, .darkCurrent⟩ : Cond) ∉ u.faults.confirmed
      ∧ (⟨.channel c, .lampPartial⟩ : Cond) ∉ u.faults.confirmed
      ∧ (⟨.channel c, .overcurrent⟩ : Cond) ∉ u.faults.confirmed
      ∧ (colourOf c ≠ 0 → (⟨.channel c, .lampOut⟩ : Cond) ∉ u.faults.confirmed)
      ∧ (colourOf c = 0 → (⟨.group (groupOf c), .redOut⟩ : Cond) ∉ u.faults.confirmed
        ∧ ∀ r ∈ u.faults.suspicions, r.key ≠ ⟨.group (groupOf c), .redOut⟩) := by
  have ended := fun {x : Cond} (m : x ∈ lampConds c) (a : x.kind.arises = false) =>
    State.newWorkingCopy_ended (State.mem_copyEnds_channel h k m) a
  have every : ∀ x : Kind, x ∈ [Kind.darkCurrent, .lampPartial, .overcurrent] → (⟨.channel c, x⟩ : Cond) ∈ lampConds c :=
    fun x m => by
      unfold lampConds litKinds
      rcases (by simpa using m : x = .darkCurrent ∨ x = .lampPartial ∨ x = .overcurrent) with rfl | rfl | rfl <;>
        split <;> simp
  refine ⟨(ended (every _ (by simp)) rfl).1, (ended (every _ (by simp)) rfl).1, (ended (every _ (by simp)) rfl).1,
    fun n => (ended ?_ rfl).1, fun n => ended ?_ rfl⟩
  · unfold lampConds litKinds
    rw [if_neg (fun z => n (Fin.ext z) : ¬ (colourOf c).val = 0)]
    simp
  · unfold lampConds litKinds
    rw [if_pos (by rw [n]; rfl)]
    simp

/-- In UNCONFIGURED a new working copy brings STANDBY, and no other change of mode. -/
theorem State.newWorkingCopy_mode (s : State) (old : Settings) : (s.newWorkingCopy old).mode.mode
    = if s.mode.mode = .unconfigured then .standby else s.mode.mode := by
  have mode := s.blocksRenewed_mode old
  rw [s.newWorkingCopy_eq, mode]
  split
  · obtain ⟨b, e⟩ := (s.blocksRenewed old).modeWork.enterMode_mode .standby
    rw [e]
  · exact mode

theorem State.newWorkingCopy_lockouts (old : Settings) (h : s.mode.mode = .unconfigured) :
    (s.newWorkingCopy old).lockouts = s.lockouts :=
  ((Renews.newWorkingCopy (X := {i | i ≠ .lockouts}) s old (.inr h) (by simp) (by simp)).of (.groupsRenewed s)).lockouts
    (by simp)

/-- No record but those of cores and channels, and the count of trips, is renewed. -/
theorem Renews.newCopy (s : State) (old : Settings) : Renews Set.univ s (s.newWorkingCopy old) :=
  (Renews.newWorkingCopy s old (.inl (Set.mem_univ _)) (fun _ => Set.mem_univ _) fun _ =>
    ⟨Set.mem_univ _, Set.mem_univ _⟩).of (.groupsRenewed s)

theorem State.newWorkingCopy_fresh (s : State) (old : Settings) (g : Group) :
    ((s.newWorkingCopy old).groups[g]).Fresh :=
  (Renews.newWorkingCopy (X := Set.univ) s old (.inl trivial) (fun _ => trivial) fun _ => ⟨trivial, trivial⟩).fresh g <|
    (Renews.renewVoids (X := ∅) _).fresh g (s.resetGroups_fresh g)

/-! ### A commit of the plans (R41, R43) -/

theorem PlanSet.setVoids_setVoids (ps : PlanSet) (cfg : Settings) : (ps.setVoids cfg).setVoids cfg = ps.setVoids cfg := by
  unfold PlanSet.setVoids
  dsimp only
  rw [Vector.map_map]
  congr 2
  funext d
  dsimp only [Function.comp]
  by_cases w : d.written = true
  · have w' : StageDef.written { d with void := !cfg.fit d.groups } = true := w
    simp only [if_pos w, if_pos w']
  · simp only [if_neg w]

/-- A pending set is adopted (R43, R44). -/
theorem State.adoptPending_inUse {x : PendingSet} (h : s.pendingSet = some x) :
    s.adoptPending.inUse = x.set.setVoids s.work ∧ s.adoptPending.pendingSet = none := by
  obtain ⟨inUse, pending, -⟩ := s.adoptSet_spec x
  unfold State.adoptPending
  rw [h]
  dsimp only
  rw [State.notify_inUse, State.notify_pendingSet]
  exact ⟨inUse, pending⟩

/-! ### The completion of a write (R184, R185) -/

/-- The condition of a store write that failed. -/
def failedWrite (k : ImageKind) : Cond := ⟨.image k, .storeWriteFailed⟩

/-- The store when a write whose comparison matched has completed. -/
def Store.verified (st : Store) (w : Write) : Store :=
  { (st.setBlocks w.image (some (Stored.form w.image w.generation w.content))).setImage w.image ⟨w.generation, true⟩ with
    writing := none }

theorem Store.verified_spec (st : Store) (w : Write) : (st.verified w).writing = none
    ∧ (st.verified w).image w.image = ⟨w.generation, true⟩
    ∧ (st.verified w).blocks w.image = some (Stored.form w.image w.generation w.content) := by
  unfold Store.verified
  cases w.image <;> exact ⟨rfl, rfl, rfl⟩

/-- The store when a write whose comparison did not match has completed. -/
def Store.failed (st : Store) (w : Write) : Store := { st.setImage w.image ⟨0, false⟩ with writing := none }

theorem Store.failed_spec (st : Store) (w : Write) : (st.failed w).writing = none
    ∧ (st.failed w).image w.image = ⟨0, false⟩ := by
  unfold Store.failed
  cases w.image <;> exact ⟨rfl, rfl⟩

/-- A write that matched, before what a commit brings about. -/
def State.imageWritten (s : State) (w : Write) : State := (s.withStore (s.store.verified w)).endCond (failedWrite w.image)

theorem State.writeVerified_eq (s : State) (w : Write) : s.writeVerified w
    = if w.forCommit then
        match w.image with
        | .config => (s.imageWritten w).configCommitted
        | .plans => (s.imageWritten w).plansCommitted w.generation
        | .survey => s.imageWritten w
      else s.imageWritten w := rfl

/-- Only the store, the fault confirmation unit and the notices have changed. -/
theorem State.imageWritten_spec (s : State) (w : Write) :
    (∃ f, s.imageWritten w = { s with store := s.store.verified w, faults := f, link := (s.endCond (failedWrite w.image)).link })
      ∧ (s.imageWritten w).link.jobs = s.link.jobs ∧ failedWrite w.image ∉ (s.imageWritten w).faults.confirmed := by
  have plain : (failedWrite w.image).kind.plain = true := rfl
  refine ⟨?_, ?_, fun m => (State.mem_endCond.mp m).2 rfl⟩
  · have e := FaultsOnly.endCond s _ plain
    unfold State.imageWritten
    rw [s.endCond_withStore _ plain]
    unfold FaultsOnly at e
    generalize s.endCond (failedWrite w.image) = t at e ⊢
    rw [e]
    exact ⟨_, rfl⟩
  · unfold State.imageWritten
    rw [State.endCond_jobs _ plain]
    rfl

end Sys2Proof.Machine

/-! SUPPORT. The completion of a write, case by case (R41, R43, R179, R184, R185). -/

namespace Sys2Proof.Machine

variable {s : State} {w : Write}

/-- The end of a job changes the link alone. -/
theorem State.endJob_eq (t : State) (k : JobKind) (r : JobResult) (items : JobItems) :
    ∃ l, t.endJob k r items = { t with link := l } := by
  have h := FaultsOnly.endJob t k r items
  unfold FaultsOnly at h
  rw [State.endJob_faults] at h
  exact ⟨_, h⟩

/-! ### A commit of the configuration -/

/-- The commit's job has ended, and the edit copy is the working copy. -/
def State.configEnded (s : State) (w : Write) : State :=
  State.endJob { s.imageWritten w with work := (s.imageWritten w).edit } .commitConfig .ok .none

theorem State.imageWritten_work (s : State) (w : Write) : (s.imageWritten w).work = s.work := by
  obtain ⟨⟨f, e⟩, -⟩ := s.imageWritten_spec w
  rw [e]

theorem State.writeVerified_config (c : w.forCommit = true) (i : w.image = .config) :
    s.writeVerified w = (s.configEnded w).newWorkingCopy s.work := by
  rw [State.writeVerified_eq, if_pos c, i]
  show (s.imageWritten w).configCommitted = _
  rw [← s.imageWritten_work w]
  rfl

/-- Only the working copy, the store, the fault confirmation unit and the link have changed. -/
theorem State.configEnded_spec (s : State) (w : Write) : ∃ l, s.configEnded w
    = { s with work := s.edit, store := s.store.verified w, faults := (s.imageWritten w).faults, link := l } := by
  obtain ⟨⟨f, e⟩, -⟩ := s.imageWritten_spec w
  unfold State.configEnded
  generalize s.imageWritten w = t at e
  subst e
  exact State.endJob_eq _ _ _ _

/-! ### A commit of the plans -/

/-- The commit's job has ended, and the staging copy is the pending copy. -/
def State.plansEnded (s : State) (w : Write) : State :=
  State.endJob { s.imageWritten w with
    pendingSet := some ⟨(s.imageWritten w).staging.setVoids (s.imageWritten w).work, w.generation⟩ } .commitPlans .ok .none

theorem State.plansEnded_spec (s : State) (w : Write) : ∃ l, s.plansEnded w
    = { s with pendingSet := some ⟨s.staging.setVoids s.work, w.generation⟩, store := s.store.verified w
               faults := (s.imageWritten w).faults, link := l } := by
  obtain ⟨⟨f, e⟩, -⟩ := s.imageWritten_spec w
  unfold State.plansEnded
  generalize s.imageWritten w = t at e
  subst e
  exact State.endJob_eq _ _ _ _

/-- The pending copy is adopted at once outside the running modes (R43). -/
theorem State.writeVerified_plans (c : w.forCommit = true) (i : w.image = .plans) : s.writeVerified w
    = if s.mode.mode = .unconfigured ∨ s.mode.mode = .standby ∨ s.mode.mode = .failsafe
      then (s.plansEnded w).adoptPending else s.plansEnded w := by
  obtain ⟨l, e⟩ := s.plansEnded_spec w
  have mode : (s.plansEnded w).mode.mode = s.mode.mode := by rw [e]
  rw [State.writeVerified_eq, if_pos c, i]
  show (match (s.plansEnded w).mode.mode with
    | .unconfigured | .standby | .failsafe => (s.plansEnded w).adoptPending
    | .startFlash | .startRed | .running | .shutdown | .partFlash | .mainsOut => s.plansEnded w) = _
  rw [mode]
  cases s.mode.mode <;> rfl

theorem Renews.writeVerified_plans (c : w.forCommit = true) (i : w.image = .plans) :
    Renews ∅ (s.plansEnded w) (s.writeVerified w) := by
  rw [State.writeVerified_plans c i]
  exact .ite (.adoptPending _) (.refl _ _)

theorem State.writeVerified_plansJob (c : w.forCommit = true) (i : w.image = .plans) :
    (s.writeVerified w).hasJob .commitPlans = false := by
  have kept : (s.writeVerified w).job? .commitPlans = (s.plansEnded w).job? .commitPlans := by
    rw [State.writeVerified_plans c i]
    exact (Kept.ite (.adoptPending _) (.refl _)).plansJob
  unfold State.hasJob
  rw [kept]
  exact State.hasJob_endJob _ _ _ _

theorem State.writeVerified_sets (c : w.forCommit = true) (i : w.image = .plans) :
    ((s.mode.mode = .unconfigured ∨ s.mode.mode = .standby ∨ s.mode.mode = .failsafe) →
        (s.writeVerified w).inUse = s.staging.setVoids s.work ∧ (s.writeVerified w).pendingSet = none)
      ∧ (s.mode.mode ≠ .unconfigured → s.mode.mode ≠ .standby → s.mode.mode ≠ .failsafe →
        (s.writeVerified w).pendingSet = some ⟨s.staging.setVoids s.work, w.generation⟩
          ∧ (s.writeVerified w).inUse = s.inUse) := by
  obtain ⟨l, e⟩ := s.plansEnded_spec w
  have pending : (s.plansEnded w).pendingSet = some ⟨s.staging.setVoids s.work, w.generation⟩ := by rw [e]
  have work : (s.plansEnded w).work = s.work := by rw [e]
  rw [State.writeVerified_plans c i]
  refine ⟨fun m => ?_, fun a b d => ?_⟩
  · obtain ⟨inUse, adopted⟩ := State.adoptPending_inUse pending
    rw [if_pos m, inUse, work, PlanSet.setVoids_setVoids]
    exact ⟨rfl, adopted⟩
  · rw [if_neg (by simp [a, b, d]), pending, e]
    exact ⟨rfl, rfl⟩

/-! ### Every write that matched -/

theorem State.writeVerified_survey (i : w.image = .survey) : s.writeVerified w = s.imageWritten w := by
  rw [State.writeVerified_eq, i]
  exact ite_self _

/-- A write that matched leaves its image valid, ends STORE_WRITE_FAILED, and changes neither the edit copy nor the staging copy. -/
theorem State.writeVerified_image (s : State) (w : Write) : (s.writeVerified w).store = s.store.verified w
    ∧ failedWrite w.image ∉ (s.writeVerified w).faults.confirmed
    ∧ (s.writeVerified w).edit = s.edit ∧ (s.writeVerified w).staging = s.staging := by
  obtain ⟨⟨f, e⟩, -, gone⟩ := s.imageWritten_spec w
  have carried : ∀ {X : Set Renewal} {t u : State}, Renews X t u → t.store = s.store.verified w →
      t.faults = (s.imageWritten w).faults → t.edit = s.edit → t.staging = s.staging →
      u.store = s.store.verified w ∧ failedWrite w.image ∉ u.faults.confirmed ∧ u.edit = s.edit
        ∧ u.staging = s.staging := fun r a b c d =>
    ⟨r.store.trans a, fun m => (r.confirmed _ m).elim (fun m => gone (b ▸ m)) fun h => (nomatch h), r.edit.trans c,
      r.staging.trans d⟩
  have written := carried (.refl ∅ (s.imageWritten w)) (by rw [e]) rfl (by rw [e]) (by rw [e])
  cases c : w.forCommit with
  | false => rw [State.writeVerified_eq, c]; exact written
  | true =>
    cases i : w.image with
    | config =>
      obtain ⟨l, d⟩ := s.configEnded_spec w
      rw [State.writeVerified_config c i]
      exact i ▸ carried (.newCopy _ _) (by rw [d]) (by rw [d]) (by rw [d]) (by rw [d])
    | plans =>
      obtain ⟨l, d⟩ := s.plansEnded_spec w
      exact i ▸ carried (.writeVerified_plans c i) (by rw [d]) (by rw [d]) (by rw [d]) (by rw [d])
    | survey => rw [State.writeVerified_survey i]; exact i ▸ written

/-- The job that stood ends with its notice, or the notice is lost (R41, R179, R180). -/
theorem State.writeVerified_told (c : w.forCommit = true) (n : w.image ≠ .survey) {j : Job}
    (h : s.job? (jobOf w.image) = some j) :
    ((s.endCond (failedWrite w.image)).link.notices.length < 16 →
        .jobDone j.number j.kind .ok .none ∈ (s.writeVerified w).link.notices)
      ∧ (16 ≤ (s.endCond (failedWrite w.image)).link.notices.length → (s.writeVerified w).link.lost = true) := by
  obtain ⟨⟨f, e⟩, jobs, -⟩ := s.imageWritten_spec w
  have link : (s.imageWritten w).link = (s.endCond (failedWrite w.image)).link := by rw [e]
  have job : (s.imageWritten w).job? (jobOf w.image) = some j := by
    unfold State.job?
    rw [jobs]
    exact h
  have carried : ∀ {X : Set Renewal} {t u v : State}, Renews X u v → t.link = (s.imageWritten w).link →
      u = t.endJob (jobOf w.image) .ok .none →
      ((s.endCond (failedWrite w.image)).link.notices.length < 16 → .jobDone j.number j.kind .ok .none ∈ v.link.notices)
        ∧ (16 ≤ (s.endCond (failedWrite w.image)).link.notices.length → v.link.lost = true) := by
    intro X t u v r a b
    have stands : t.job? (jobOf w.image) = some j := by
      unfold State.job? at job ⊢
      rw [a]
      exact job
    obtain ⟨room, full⟩ := State.endJob_told stands .ok .none
    rw [a, link, ← b] at room full
    exact ⟨fun l => r.notices (room l), fun l => r.lost (full l)⟩
  cases i : w.image with
  | config =>
    rw [State.writeVerified_config c i]
    rw [i] at carried
    exact carried (t := { s.imageWritten w with work := (s.imageWritten w).edit }) (.newCopy _ _) rfl rfl
  | plans =>
    have r := Renews.writeVerified_plans (s := s) c i
    rw [i] at carried
    exact carried (t := { s.imageWritten w with
      pendingSet := some ⟨(s.imageWritten w).staging.setVoids (s.imageWritten w).work, w.generation⟩ }) r rfl rfl
  | survey => exact (n i).elim

/-! ### A write that did not match (R185) -/

/-- STORE_WRITE_FAILED is confirmed, and nothing but the store, the fault confirmation unit and the link changes. -/
theorem State.writeFailed_spec (s : State) (w : Write) :
    (∃ f l, s.writeFailed w = { s with store := s.store.failed w, faults := f, link := l })
      ∧ failedWrite w.image ∈ (s.writeFailed w).faults.confirmed
      ∧ (w.forCommit = true → (s.writeFailed w).hasJob (jobOf w.image) = false)
      ∧ (w.forCommit = true → ∀ j, s.job? (jobOf w.image) = some j →
        ((s.observe (failedWrite w.image)).link.notices.length < 16 →
            .jobDone j.number j.kind .storeFailed .none ∈ (s.writeFailed w).link.notices)
          ∧ (16 ≤ (s.observe (failedWrite w.image)).link.notices.length → (s.writeFailed w).link.lost = true))
      ∧ (w.forCommit = false → (s.writeFailed w).link.jobs = s.link.jobs) := by
  have plain : (failedWrite w.image).kind.plain = true := rfl
  have failed : s.writeFailed w
      = if w.forCommit then
          ((s.confirm (failedWrite w.image) .normal).withStore (s.store.failed w)).endJob (jobOf w.image) .storeFailed .none
        else (s.confirm (failedWrite w.image) .normal).withStore (s.store.failed w) := by
    rw [← s.confirm_withStore _ plain, ← State.observe_direct _ _ rfl]
    rfl
  rw [State.observe_direct s (failedWrite w.image) rfl, failed]
  have only := FaultsOnly.confirm s (failedWrite w.image) .normal plain
  have member : failedWrite w.image ∈ (s.confirm (failedWrite w.image) .normal).faults.confirmed :=
    State.mem_confirm.mpr (.inr rfl)
  have jobs := s.confirm_jobs (tag := .normal) plain
  generalize s.confirm (failedWrite w.image) .normal = t at only member jobs ⊢
  have stored : ∃ f l, t.withStore (s.store.failed w) = { s with store := s.store.failed w, faults := f, link := l } := by
    unfold FaultsOnly at only
    rw [only]
    exact ⟨_, _, rfl⟩
  obtain ⟨f, l, e⟩ := stored
  cases c : w.forCommit with
  | false => exact ⟨⟨f, l, e⟩, member, fun h => (nomatch h), fun h => (nomatch h), fun _ => jobs⟩
  | true =>
    obtain ⟨m, h⟩ := (t.withStore (s.store.failed w)).endJob_eq (jobOf w.image) .storeFailed .none
    refine ⟨?_, ?_, fun _ => State.hasJob_endJob _ _ _ _, fun _ j k => ?_, fun h => (nomatch h)⟩
    · refine ⟨f, m, h.trans ?_⟩
      rw [e]
    · rw [if_pos rfl, State.endJob_faults]
      exact member
    · rw [if_pos rfl]
      have stands : (t.withStore (s.store.failed w)).job? (jobOf w.image) = some j := by
        show t.link.jobs.find? _ = some j
        rw [jobs]
        exact k
      exact State.endJob_told stands .storeFailed .none

/-! ### The events -/

theorem exec_storeWriteBegin (p : s.power.phase = .running) (n : s.store.writing = none) (q : s.store.queue ≠ []) :
    exec .storeWriteBegin s = .next s.close := by
  show execStoreWriteBegin s = _
  unfold execStoreWriteBegin State.running
  rw [if_pos (by simp [p, n, q])]

theorem exec_storeWriteComplete_idle (v : Bool) (n : s.store.writing = none) :
    exec (.storeWriteComplete v) s = .next s := by
  show execStoreWriteComplete v s = _
  unfold execStoreWriteComplete
  rw [n]

theorem exec_storeWriteComplete (v : Bool) (h : s.store.writing = some w) : exec (.storeWriteComplete v) s
    = .next (s.cascade (if v then s.writeVerified w else s.writeFailed w)) := by
  show execStoreWriteComplete v s = _
  unfold execStoreWriteComplete
  rw [h]

/-- Settles O60: a completion makes of the state what `writeVerified` or `writeFailed` gives, and a new working copy leaves each record to the one step that renews it. -/
theorem storeWrites : Obligations.StoreWrites := by
  refine fun s => ⟨exec_storeWriteBegin, exec_storeWriteComplete_idle, fun w h => ⟨?_, ?_⟩⟩
  · obtain ⟨store, gone, edit, staging⟩ := s.writeVerified_image w
    obtain ⟨writing, image, blocks⟩ := s.store.verified_spec w
    refine ⟨s.writeVerified w, exec_storeWriteComplete true h, by rw [store]; exact writing, by rw [store]; exact image,
      by rw [store]; exact blocks, gone, edit, staging, fun c => ?_, fun c i => ?_, fun c i => ?_,
      fun c n j => State.writeVerified_told c n, fun c i => ?_⟩
    · obtain ⟨⟨f, e⟩, -⟩ := s.imageWritten_spec w
      rw [State.writeVerified_eq, c]
      show (s.imageWritten w).work = _ ∧ (s.imageWritten w).inUse = _ ∧ (s.imageWritten w).pendingSet = _
        ∧ (s.imageWritten w).groups = _
      rw [e]
      exact ⟨rfl, rfl, rfl, rfl⟩
    · obtain ⟨l, e⟩ := s.configEnded_spec w
      have mode : (s.configEnded w).mode = s.mode := by rw [e]
      have renewed := Renews.newCopy (s.configEnded w) s.work
      rw [State.writeVerified_config c i]
      refine ⟨renewed.work.trans (by rw [e]), ?_, ?_, fun u => ?_, fun g => ?_⟩
      · unfold State.hasJob
        rw [renewed.job]
        exact State.hasJob_endJob _ _ _ _
      · rw [State.newWorkingCopy_mode, mode]
      · rw [State.newWorkingCopy_lockouts s.work (by rw [mode]; exact u), e]
      · exact ((s.configEnded w).newWorkingCopy_fresh s.work g).2
    · obtain ⟨l, e⟩ := s.configEnded_spec w
      have cores := (s.configEnded w).newWorkingCopy_cores s.work
      have lamps := (s.configEnded w).newWorkingCopy_lamps s.work
      have unsuspected := fun c => State.newWorkingCopy_unsuspected (s := s.configEnded w) (old := s.work) (c := c)
      have conds := fun c => State.newWorkingCopy_lampConds (s := s.configEnded w) (old := s.work) (c := c)
      rw [State.writeVerified_config c i]
      generalize (s.configEnded w).newWorkingCopy s.work = u at cores lamps unsuspected conds ⊢
      rw [e] at cores lamps unsuspected conds
      refine ⟨cores, fun c => ?_⟩
      obtain ⟨both, begun, ended⟩ := lamps c
      refine ⟨both, begun, fun a b => ?_⟩
      obtain ⟨settle, rep, dark, lit, estimate, queue⟩ := ended a b
      exact ⟨settle, rep, dark, lit, estimate, queue, unsuspected c b a, conds c b a⟩
    · obtain ⟨l, e⟩ := s.plansEnded_spec w
      exact ⟨State.writeVerified_plansJob c i, (Renews.writeVerified_plans c i).work.trans (by rw [e]),
        State.writeVerified_sets c i⟩
  · obtain ⟨⟨f, l, e⟩, member, job, told, jobs⟩ := s.writeFailed_spec w
    obtain ⟨writing, image⟩ := s.store.failed_spec w
    refine ⟨s.writeFailed w, exec_storeWriteComplete false h, ?_, ?_, member, ?_, ?_, ?_, ?_, ?_, job, told, jobs⟩
    all_goals rw [e]
    · exact writing
    · exact image

end Sys2Proof.Machine

/-! SUPPORT. The time-of-day table (R68 to R70): its effective entry, the checks of its writes, and its evaluation. -/

namespace Sys2Proof.Machine

variable {s : State}

/-! ### The effective entry (R69) -/

theorem earliest_isSome {l : List Nat} : (earliest l).isSome = true ↔ l ≠ [] := by
  cases l <;> simp [earliest]

/-- An entry that names a weekday has occurred within the last week. -/
theorem TodEntry.age_isSome {x : TodEntry} (now : Nat) (h : ∃ d : Fin 7, x.days[d] = true) :
    (x.age now).isSome = true := by
  obtain ⟨d, hd⟩ := h
  exact earliest_isSome.mpr (List.ne_nil_of_mem (List.mem_filterMap.mpr ⟨d, List.mem_finRange d, if_pos hd⟩))

/-- The later of the latest entry found so far and one more (R69). -/
def laterEntry (now : Nat) (best : Option (Nat × TodEntry)) (e : TodEntry) : Option (Nat × TodEntry) :=
  match e.age now, best with
  | none, b => b
  | some a, none => some (a, e)
  | some a, some (b, x) => if a < b then some (a, e) else some (b, x)

theorem effectiveEntry_eq (now : Nat) (l : List TodEntry) :
    effectiveEntry now l = (l.foldl (laterEntry now) none).map (·.2) := rfl

/-- An entry with its age is the latest of a list; none is where no entry of the list has an age. -/
def IsLatest (now : Nat) (l : List TodEntry) : Option (Nat × TodEntry) → Prop
  | none => ∀ x ∈ l, x.age now = none
  | some (a, e) => e ∈ l ∧ e.age now = some a ∧ ∀ x ∈ l, ∀ b, x.age now = some b → a ≤ b

theorem IsLatest.laterEntry {now : Nat} {l : List TodEntry} {best : Option (Nat × TodEntry)} (h : IsLatest now l best)
    (e : TodEntry) : IsLatest now (l ++ [e]) (laterEntry now best e) := by
  unfold Machine.laterEntry
  cases age : e.age now with
  | none =>
    cases best with
    | none => simpa [IsLatest, or_imp, forall_and, age] using h
    | some p =>
      obtain ⟨member, own, least⟩ := h
      simp only [IsLatest, List.mem_append, List.mem_singleton]
      refine ⟨.inl member, own, fun x m b hb => m.elim (fun m => least x m b hb) fun m => ?_⟩
      rw [m, age] at hb
      cases hb
  | some a =>
    have last : ∀ {p : Nat} (q : p ≤ a) (r : ∀ x ∈ l, ∀ b, x.age now = some b → p ≤ b),
        ∀ x ∈ l ++ [e], ∀ b, x.age now = some b → p ≤ b := by
      intro p q r x m b hb
      rcases List.mem_append.mp m with m | m
      · exact r x m b hb
      · rw [List.mem_singleton.mp m, age] at hb
        cases hb
        exact q
    have member : e ∈ l ++ [e] := by simp
    cases best with
    | none => exact ⟨member, age, last le_rfl fun x m b hb => by rw [h x m] at hb; cases hb⟩
    | some p =>
      obtain ⟨old, own, least⟩ := h
      dsimp only
      split
      · next lt => exact ⟨member, age, last le_rfl fun x m b hb => lt.le.trans (least x m b hb)⟩
      · next ge => exact ⟨List.mem_append_left _ old, own, last (not_lt.mp ge) least⟩

theorem isLatest_foldl (now : Nat) (l : List TodEntry) : IsLatest now l (l.foldl (laterEntry now) none) := by
  induction l using List.reverseRecOn with
  | nil => exact fun x m => (nomatch m)
  | append_singleton l e ih =>
    rw [List.foldl_append]
    exact ih.laterEntry e

/-- The effective entry is an entry than which none has occurred more recently. -/
theorem effectiveEntry_latest {now : Nat} {l : List TodEntry} {e : TodEntry} (h : effectiveEntry now l = some e) :
    e ∈ l ∧ ∃ a, e.age now = some a ∧ ∀ x ∈ l, ∀ b, x.age now = some b → a ≤ b := by
  have latest := isLatest_foldl now l
  rw [effectiveEntry_eq] at h
  obtain ⟨⟨a, x⟩, found, rfl⟩ := Option.map_eq_some_iff.mp h
  rw [found] at latest
  obtain ⟨member, own, least⟩ := latest
  exact ⟨member, a, own, least⟩

theorem effectiveEntry_isSome {now : Nat} {l : List TodEntry} {x : TodEntry} (m : x ∈ l)
    (h : ∃ d : Fin 7, x.days[d] = true) : (effectiveEntry now l).isSome = true := by
  have latest := isLatest_foldl now l
  rw [effectiveEntry_eq, Option.isSome_map]
  cases found : l.foldl (laterEntry now) none with
  | some p => rfl
  | none =>
    rw [found] at latest
    have aged := TodEntry.age_isSome now h
    rw [latest x m] at aged
    cases aged

/-! ### The checks of the writes (R68, R71) -/

theorem anyTrue_iff {n : Nat} {v : Vector Bool n} : v.toList.any id = true ↔ ∃ i : Fin n, v[i] = true := by
  rw [List.any_eq_true]
  simp [Vector.mem_iff_getElem, Fin.exists_iff]

theorem emptyDays_iff {a : DaySet} : emptyDays a = true ↔ ∀ d : Fin 7, a[d] = false := by
  rw [emptyDays, Bool.not_eq_true', Bool.eq_false_iff, ne_eq, anyTrue_iff]
  simp

theorem not_emptyDays {a : DaySet} (h : ∃ d : Fin 7, a[d] = true) : ¬ emptyDays a = true := fun e => by
  obtain ⟨d, hd⟩ := h
  rw [emptyDays_iff.mp e d] at hd
  cases hd

theorem overlaps_iff {a b : DaySet} : overlaps a b = true ↔ ∃ d : Fin 7, a[d] = true ∧ b[d] = true := by
  simp [overlaps]

/-- The reference of a PLAN action lies in the range its fields carry (R68). -/
def refInRange (a : TodAction) : Prop := ∀ r, a = .plan r → r.plan ≤ 255 ∧ r.tag ≤ 255

theorem refOk_iff {r : PlanRef} : refOk r = true ↔ r.plan ≤ 255 ∧ r.tag ≤ 255 := by
  simp [refOk]

/-- A TOD_WRITE whose fields are in range meets the three other reasons in their order (log 76). -/
theorem checkTod_inRange {l : List TodEntry} {days : DaySet} {h m : Nat} {a : TodAction} (hh : h ≤ 23) (hm : m ≤ 59)
    (r : refInRange a) : checkTod l (some days) h m (some a)
      = if emptyDays days then .error .emptyMask
        else if 32 ≤ l.length then .error .tableFull
        else if l.any fun e => decide (e.hour = h) && decide (e.minute = m) && overlaps e.days days then .error .overlap
        else .ok ⟨days, h, m, a⟩ := by
  unfold checkTod
  cases a with
  | plan p =>
    have ok : refOk p = true := refOk_iff.mpr (r p rfl)
    simp only [hh, hm, ok, decide_true, Bool.and_self, Bool.not_true, Bool.or_self, Bool.false_eq_true, if_false]
  | base => simp [hh, hm]
  | flash => simp [hh, hm]

theorem checkTod_outOfRange {l : List TodEntry} {days : Option DaySet} {h m : Nat} {a : Option TodAction}
    (out : days = none ∨ 23 < h ∨ 59 < m ∨ a = none ∨ ∃ r, a = some (.plan r) ∧ (255 < r.plan ∨ 255 < r.tag)) :
    checkTod l days h m a = .error .fieldRange := by
  unfold checkTod
  cases days with
  | none => rfl
  | some days =>
    cases a with
    | none => rfl
    | some a =>
      dsimp only
      refine if_pos ?_
      rcases out with out | out | out | out | ⟨r, out, high⟩
      · cases out
      · simp [Nat.not_le.mpr out]
      · simp [Nat.not_le.mpr out]
      · cases out
      · cases out
        have bad : refOk r = false := by
          rw [Bool.eq_false_iff, ne_eq, refOk_iff]
          omega
        simp [bad]

theorem overlapping_iff {l : List TodEntry} {days : DaySet} {h m : Nat} :
    (l.any fun e => decide (e.hour = h) && decide (e.minute = m) && overlaps e.days days) = true
      ↔ ∃ e ∈ l, e.hour = h ∧ e.minute = m ∧ ∃ d : Fin 7, e.days[d] = true ∧ days[d] = true := by
  simp only [List.any_eq_true, Bool.and_eq_true, decide_eq_true_eq, overlaps_iff, and_assoc]

theorem checkClock_inRange {w h m x : Nat} (a : 1 ≤ w) (b : w ≤ 7) (c : h ≤ 23) (d : m ≤ 59) (e : x ≤ 59) :
    checkClock w h m x = some ⟨w, h, m, x, 0, true⟩ := by
  unfold checkClock
  rw [within_iff.mpr ⟨a, b⟩, decide_eq_true c, decide_eq_true d, decide_eq_true e]
  rfl

theorem checkClock_outOfRange {w h m x : Nat} (out : w < 1 ∨ 7 < w ∨ 23 < h ∨ 59 < m ∨ 59 < x) :
    checkClock w h m x = none := by
  unfold checkClock
  refine if_neg ?_
  simp only [Bool.and_eq_true, within_iff, decide_eq_true_eq]
  omega

/-! ### The requests -/

theorem State.doTodWrite_ok {days : DaySet} {h m : Nat} {a : TodAction} (hh : h ≤ 23) (hm : m ≤ 59) (r : refInRange a)
    (day : ∃ d : Fin 7, days[d] = true) (room : s.tod.length < 32)
    (clear : ∀ e ∈ s.tod, e.hour = h → e.minute = m → ∀ d : Fin 7, ¬ (e.days[d] = true ∧ days[d] = true)) :
    s.doTodWrite (some days) h m (some a)
      = (s.spread ((State.placeConfig { s with tod := insertTod ⟨days, h, m, a⟩ s.tod }).evaluateTable false)).ok
          .empty := by
  have apart := mt (overlapping_iff (l := s.tod) (days := days) (h := h) (m := m)).mp
    fun ⟨e, me, eh, em, d, both⟩ => clear e me eh em d both
  unfold State.doTodWrite
  rw [checkTod_inRange hh hm r, if_neg (not_emptyDays day), if_neg (Nat.not_le.mpr room), if_neg apart]

theorem State.doTodWrite_refused {days : Option DaySet} {h m : Nat} {a : Option TodAction} {r : TodReason}
    (e : checkTod s.tod days h m a = .error r) :
    s.doTodWrite days h m a = (s, .refusedValue, .todRefused r) := by
  unfold State.doTodWrite
  rw [e]

theorem deleteTod_entry {l : List TodEntry} {days : DaySet} {h m : Nat}
    (n : l.filter (fun e => ¬ (e.hour = h ∧ e.minute = m ∧ e.days = days)) ≠ l) :
    deleteTod l (.entry days h m) = some (l.filter fun e => ¬ (e.hour = h ∧ e.minute = m ∧ e.days = days)) := by
  have same : ∀ e : TodEntry, (!(decide (e.hour = h) && decide (e.minute = m) && decide (e.days = days)))
      = decide (¬ (e.hour = h ∧ e.minute = m ∧ e.days = days)) := fun e => by simp [Bool.or_assoc]
  unfold deleteTod
  dsimp only
  rw [List.filter_congr fun e _ => same e]
  refine if_pos ?_
  by_contra absent
  refine n (List.filter_eq_self.mpr fun e me => ?_)
  refine decide_eq_true fun ⟨a, b, c⟩ => absent (List.any_eq_true.mpr ⟨e, me, by simp [a, b, c]⟩)

theorem deleteTod_unknown {l : List TodEntry} {days : DaySet} {h m : Nat}
    (n : ∀ e ∈ l, ¬ (e.hour = h ∧ e.minute = m ∧ e.days = days)) : deleteTod l (.entry days h m) = none := by
  unfold deleteTod
  dsimp only
  refine if_neg fun y => ?_
  obtain ⟨e, me, same⟩ := List.any_eq_true.mp y
  exact n e me (by simpa [and_assoc] using same)

theorem State.doTodDelete_eq {target : TodTarget} {l : List TodEntry} (h : deleteTod s.tod target = some l) :
    s.doTodDelete target = if l = s.tod then s.ok .empty
      else (s.spread (State.evaluateTable (State.placeConfig { s with tod := l }) false)).ok .empty := by
  unfold State.doTodDelete
  rw [h]

theorem State.doTodDelete_refused {target : TodTarget} (h : deleteTod s.tod target = none) :
    s.doTodDelete target = s.refuse .refusedValue := by
  unfold State.doTodDelete
  rw [h]

theorem State.doSetClock_ok {w h m x : Nat} {c : Clock} (e : checkClock w h m x = some c) : s.doSetClock w h m x
    = (s.spread ((State.endCond { s with clock := c } ⟨.junction, .clockInvalid⟩).evaluateTable false)).ok .empty := by
  unfold State.doSetClock
  rw [e]

theorem State.doSetClock_refused {w h m x : Nat} (e : checkClock w h m x = none) :
    s.doSetClock w h m x = s.refuse .refusedValue := by
  unfold State.doSetClock
  rw [e]

/-! ### A result applied (R70) -/

theorem State.applyResult_override (h : s.engine.source = .linkOverride) : s.applyResult = s := by
  unfold State.applyResult
  rw [if_pos h]

theorem State.applyResult_timeTable (h : s.engine.source = .timeTable) :
    (s.mode.mode = .running → s.engine.tableAction = .flash →
        s.applyResult = State.ask { s with
          engine := { s.engine with change := s.engine.change.filter fun c => c.origin ≠ .timeTable } } .flash)
      ∧ (∀ r, s.mode.mode = .running →
        (s.engine.tableAction = .plan r ∨ (s.engine.tableAction = .base ∧ r = ⟨1, 0⟩)) →
        s.applyResult
          = State.mark { s with engine := { s.engine with change := some ⟨r, .boundary, .timeTable⟩ } })
      ∧ (s.mode.mode = .partFlash → s.engine.tableAction ≠ .flash → s.applyResult = s.ask .planRequest)
      ∧ (s.mode.mode = .partFlash → s.engine.tableAction = .flash → s.applyResult = s)
      ∧ (s.mode.mode ≠ .running → s.mode.mode ≠ .partFlash → s.applyResult = s) := by
  unfold State.applyResult
  rw [if_neg (by rw [h]; decide)]
  refine ⟨fun m a => ?_, fun r m a => ?_, fun m a => ?_, fun m a => ?_, fun m n => ?_⟩
  · rw [m, a]
  · rcases a with a | ⟨a, rfl⟩
    · rw [m, a]
    · rw [m, a]; rfl
  · rw [m]
    cases e : s.engine.tableAction with
    | plan r => rfl
    | base => rfl
    | flash => exact (a e).elim
  · rw [m, a]
  · cases e : s.mode.mode with
    | running => exact (m e).elim
    | partFlash => exact (n e).elim
    | _ => cases s.engine.tableAction <;> rfl

theorem State.applyResult_tableResult (s : State) : s.applyResult.engine.tableResult = s.engine.tableResult := by
  unfold State.applyResult
  split
  · rfl
  · split <;> rfl

/-! ### The evaluation (R69) -/

theorem State.evaluateTable_invalid (h : s.clock.valid = false) (always : Bool) : s.evaluateTable always = s := by
  unfold State.evaluateTable
  rw [h]
  rfl

theorem State.evaluateTable_same (h : s.clock.valid = true)
    (e : effectiveEntry s.clock.secondOfWeek s.tod = s.engine.tableResult) : s.evaluateTable false = s := by
  unfold State.evaluateTable
  rw [h, e]
  simp

theorem State.evaluateTable_applied (h : s.clock.valid = true) {always : Bool}
    (c : always = true ∨ effectiveEntry s.clock.secondOfWeek s.tod ≠ s.engine.tableResult) :
    s.evaluateTable always = State.applyResult { s with engine := { s.engine with
      tableResult := effectiveEntry s.clock.secondOfWeek s.tod } } := by
  unfold State.evaluateTable
  rw [if_neg (by simp [h])]
  dsimp only
  refine if_pos ?_
  rcases c with c | c <;> simp [c]

/-- An evaluation stores the effective entry as the table result. -/
theorem State.evaluateTable_tableResult (h : s.clock.valid = true) :
    (s.evaluateTable false).engine.tableResult = effectiveEntry s.clock.secondOfWeek s.tod := by
  by_cases e : effectiveEntry s.clock.secondOfWeek s.tod = s.engine.tableResult
  · rw [State.evaluateTable_same h e, e]
  · rw [State.evaluateTable_applied h (.inr e), State.applyResult_tableResult]

/-! ### The change of minute (R69, R71) -/

theorem exec_clockMinuteChange (h : s.power.phase = .running) : exec .clockMinuteChange s
    = .next ((s.elapseTo (s.now + s.clock.toMinute)).cascade
        ((s.elapseTo (s.now + s.clock.toMinute)).evaluateTable false)) := by
  show execClockMinuteChange s = _
  unfold execClockMinuteChange State.running
  rw [h]
  rfl

theorem Clock.toMinute_bounds (c : Clock) : 0 < c.toMinute ∧ c.toMinute ≤ 60000 := by
  unfold Clock.toMinute
  omega

/-- The clock carried on to its next minute shows a full minute. -/
theorem Clock.advance_toMinute (c : Clock) :
    (c.advance c.toMinute).second = 0 ∧ (c.advance c.toMinute).milli = 0 := by
  unfold Clock.advance Clock.toMinute Clock.secondOfWeek
  dsimp only
  omega

theorem State.elapseTo_toMinute (s : State) : s.elapseTo (s.now + s.clock.toMinute)
    = { s with now := s.now + s.clock.toMinute, clock := s.clock.advance s.clock.toMinute } := by
  have bounds := s.clock.toMinute_bounds
  rw [(s.elapseTo_spec _).2 (by omega), Nat.add_sub_cancel_left]

/-- Settles O31, by the effective entry, the checks of the requests, and the evaluation with its result applied. -/
theorem timeTable : Obligations.TimeTable := by
  refine ⟨fun now l => ⟨fun h => by rw [h]; rfl, fun e => effectiveEntry_latest, fun x => effectiveEntry_isSome⟩,
    fun tag s t => ⟨fun days h m a hh hm r day room clear => ?_, fun days h m a out => ?_, fun days h m a hh hm r =>
      ⟨fun empty => ?_, fun day full => ?_, fun room o => ?_⟩, fun days h m l hl n => ?_, fun days h m n => ?_,
      fun n => ?_, fun n => ?_, fun w h m x a b c d e => ?_, fun w h m x out => ?_⟩,
    fun s => ⟨exec_clockMinuteChange, fun _ => ?_, fun v => State.evaluateTable_invalid v false,
      State.evaluateTable_tableResult, State.evaluateTable_same, fun v always => State.evaluateTable_applied v,
      fun h => ?_, fun x h => ?_, State.applyResult_override, State.applyResult_timeTable⟩⟩
  · exact State.arrive_answer t (.todWrite tag (some days) h m (some a)) (State.doTodWrite_ok hh hm r day room clear)
  · exact State.arrive_answer t (.todWrite tag days h m a) (State.doTodWrite_refused (checkTod_outOfRange out))
  · refine State.arrive_answer t (.todWrite tag (some days) h m (some a)) (State.doTodWrite_refused ?_)
    rw [checkTod_inRange hh hm r, if_pos (emptyDays_iff.mpr empty)]
  · refine State.arrive_answer t (.todWrite tag (some days) h m (some a)) (State.doTodWrite_refused ?_)
    rw [checkTod_inRange hh hm r, if_neg (not_emptyDays day), if_pos full]
  · have ⟨_, _, _, _, d, _, hd⟩ := o
    refine State.arrive_answer t (.todWrite tag (some days) h m (some a)) (State.doTodWrite_refused ?_)
    rw [checkTod_inRange hh hm r, if_neg (not_emptyDays ⟨d, hd⟩), if_neg (Nat.not_le.mpr room),
      if_pos (overlapping_iff.mpr o)]
  · subst hl
    refine State.arrive_answer t (.todDelete tag (.entry days h m)) ((State.doTodDelete_eq (deleteTod_entry n)).trans ?_)
    rw [if_neg n]
    rfl
  · exact State.arrive_answer t (.todDelete tag (.entry days h m)) (State.doTodDelete_refused (deleteTod_unknown n))
  · refine State.arrive_answer t (.todDelete tag .all) ((State.doTodDelete_eq rfl).trans ?_)
    rw [if_neg n.symm]
    rfl
  · refine State.arrive_answer t (.todDelete tag .all) ((State.doTodDelete_eq rfl).trans ?_)
    rw [if_pos n.symm]
    rfl
  · exact State.arrive_answer t (.setClock tag w h m x) (State.doSetClock_ok (checkClock_inRange a b c d e))
  · exact State.arrive_answer t (.setClock tag w h m x) (State.doSetClock_refused (checkClock_outOfRange out))
  · obtain ⟨second, milli⟩ := s.clock.advance_toMinute
    have minute := s.clock.toMinute_bounds
    rw [State.elapseTo_toMinute]
    exact ⟨second, milli, Nat.add_le_add_left minute.2 _, rfl⟩
  · unfold Engine.tableAction
    rw [h]
  · unfold Engine.tableAction
    rw [h]

end Sys2Proof.Machine

/-! SUPPORT. Demands entered (R60, R85), and the selection of a plan by the link (R63, R67). -/

namespace Sys2Proof.Machine

variable {s t u : State}

/-! ### Demands (R60) -/

/-- Demands are entered for the stages of a set that are not in force, and nothing but the demand set and the marks of the event changes (R60). -/
structure Demanded (P : Fin 16 → Prop) (s t : State) : Prop where
  frame : t = { s with engine := { s.engine with demands := t.engine.demands }, ev := t.ev }
  iff   : ∀ i : Fin 16, t.engine.demands[i] = true
    ↔ (s.engine.demands[i] = true ∨ (P i ∧ s.engine.inForce ≠ i.val + 1))

variable {P Q : Fin 16 → Prop}

theorem Demanded.inForce (h : Demanded P s t) : t.engine.inForce = s.engine.inForce := by
  rw [h.frame]
  rfl

theorem Demanded.none (s : State) : Demanded (fun _ => False) s s := ⟨rfl, fun i => by simp⟩

theorem Demanded.trans (h : Demanded P s t) (k : Demanded Q t u) : Demanded (fun i => P i ∨ Q i) s u where
  frame := k.frame.trans (by rw [h.frame])
  iff := fun i => by rw [k.iff, h.iff, h.inForce, or_and_right, or_assoc]

theorem Demanded.congr (h : Demanded P s t) (e : ∀ i, P i ↔ Q i) : Demanded Q s t :=
  ⟨h.frame, fun i => by rw [h.iff, e]⟩

theorem Demanded.enterDemand (s : State) (st : Fin 16) : Demanded (fun i => i = st) s (s.enterDemand st) := by
  unfold State.enterDemand
  split
  · next h =>
    refine ⟨rfl, fun i => ⟨.inl, fun o => o.elim id ?_⟩⟩
    rintro ⟨rfl, free⟩
    exact h.resolve_left free
  · next h =>
    obtain ⟨free, -⟩ := not_or.mp h
    refine ⟨rfl, fun i => ?_⟩
    show (s.engine.demands.set st true)[i] = true ↔ _
    rw [set_get]
    by_cases e : i = st
    · subst e
      simp [free]
    · simp [e, Ne.symm e]

theorem Demanded.each (l : List (Fin 16)) (s : State) :
    Demanded (fun i => i ∈ l) s (s.each l fun st v => v.enterDemand st) := by
  induction l generalizing s with
  | nil => exact (Demanded.none s).congr fun i => by simp
  | cons a l ih => exact ((Demanded.enterDemand s a).trans (ih _)).congr fun i => List.mem_cons.symm

theorem mem_stageMembers {d : StageSet} {i : Fin 16} : i ∈ stageMembers d ↔ d[i] = true := by
  simp [stageMembers, allStages]

theorem Demanded.enterDemands (s : State) (d : StageSet) : Demanded (fun i => d[i] = true) s (s.enterDemands d) :=
  (Demanded.each (stageMembers d) s).congr fun _ => mem_stageMembers

/-! ### Lists of stage numbers (R85) -/

theorem stageSetOf_some {l : List Nat} (h : ∀ n ∈ l, 1 ≤ n ∧ n ≤ 16) :
    ∃ d, stageSetOf l = some d ∧ ∀ i : Fin 16, d[i] = true ↔ i.val + 1 ∈ l := by
  induction l with
  | nil => exact ⟨_, rfl, fun i => by simp⟩
  | cons n l ih =>
    obtain ⟨d, e, members⟩ := ih fun x m => h x (List.mem_cons_of_mem n m)
    obtain ⟨j, hj⟩ := Option.isSome_iff_exists.mp (index?_isSome.mpr (h n List.mem_cons_self))
    have number : n = j.val + 1 := by
      obtain ⟨low, high⟩ := h n List.mem_cons_self
      unfold index? at hj
      rw [dif_pos ⟨low, high⟩] at hj
      cases hj
      exact (Nat.sub_add_cancel low).symm
    refine ⟨d.set j true, ?_, fun i => ?_⟩
    · unfold stageSetOf
      rw [hj, e]
    · rw [set_get, List.mem_cons, number, ← members i]
      by_cases same : j = i
      · simp [same]
      · simp [same, Fin.val_inj, Ne.symm same]

theorem stageSetOf_none {l : List Nat} {n : Nat} (m : n ∈ l) (out : n < 1 ∨ 16 < n) : stageSetOf l = none := by
  induction l with
  | nil => cases m
  | cons a l ih =>
    unfold stageSetOf
    rcases List.mem_cons.mp m with rfl | m
    · rw [index?_none out]
    · rw [ih m]
      cases index? 16 a <;> rfl

/-! ### DEMAND (R85) -/

theorem State.doDemand_ok {l : List Nat} {d : StageSet} (a : l ≠ []) (b : l.length ≤ 16) (h : stageSetOf l = some d) :
    s.doDemand l = (s.spread (s.enterDemands d)).ok (.demandSet (s.spread (s.enterDemands d)).engine.demands) := by
  unfold State.doDemand
  rw [if_neg (by simp [a, b]), h]

theorem State.doDemand_refused {l : List Nat} (h : l = [] ∨ 16 < l.length ∨ ∃ n ∈ l, n < 1 ∨ 16 < n) :
    s.doDemand l = s.refuse .refusedValue := by
  have fails : (if l.isEmpty || decide (16 < l.length) then none else stageSetOf l) = none := by
    rcases h with h | h | ⟨n, m, out⟩
    · rw [if_pos (by simp [h])]
    · rw [if_pos (by simp [h])]
    · rw [stageSetOf_none m out, ite_self]
  unfold State.doDemand
  rw [fails]

/-! ### SELECT_PLAN and CLEAR_OVERRIDE (R63, R67) -/

/-- The link overrides the time table with a plan reference (R63). -/
def State.overridden (s : State) (ref : PlanRef) : State :=
  { s with engine := { s.engine with source := .linkOverride, override := some ref } }

theorem State.doSelectPlan_none (ref : PlanRef) : s.doSelectPlan ref none = s.refuse .refusedValue := by
  unfold State.doSelectPlan
  rw [ite_self]

/-- A selection whose fields are in range goes by the mode in force. -/
theorem State.doSelectPlan_some {ref : PlanRef} (ok : ref.plan ≤ 255 ∧ ref.tag ≤ 255) (w : Timing) :
    (s.mode.mode = .unconfigured → s.doSelectPlan ref (some w) = s.refuse .refusedMode)
    ∧ (s.mode.mode = .running → s.doSelectPlan ref (some w)
        = (s.spread { s.overridden ref with
            engine := { (s.overridden ref).engine with change := some ⟨ref, w, .link⟩ } }).ok .empty)
    ∧ (s.mode.mode = .partFlash → s.doSelectPlan ref (some w)
        = (s.spread ((s.overridden ref).ask .planRequest)).ok .empty)
    ∧ (s.mode.mode ≠ .unconfigured → s.mode.mode ≠ .running → s.mode.mode ≠ .partFlash →
        s.doSelectPlan ref (some w) = (s.overridden ref).ok .empty) := by
  unfold State.doSelectPlan
  rw [if_pos (refOk_iff.mpr ok)]
  dsimp only
  refine ⟨fun m => if_pos m, fun m => ?_, fun m => ?_, fun a b c => ?_⟩
  · rw [m]; rfl
  · rw [m]; rfl
  · rw [if_neg a]
    cases e : s.mode.mode with
    | running => exact (b e).elim
    | partFlash => exact (c e).elim
    | _ => rfl

theorem State.doClearOverride_unconfigured (h : s.mode.mode = .unconfigured) :
    s.doClearOverride = s.refuse .refusedMode := if_pos h

theorem State.doClearOverride_eq (h : s.mode.mode ≠ .unconfigured) : s.doClearOverride
    = (s.spread (State.evaluateTable { s with engine := { s.engine with
        source := .timeTable, override := none
        change := s.engine.change.filter fun c => c.origin ≠ .link } } true)).ok .empty := if_neg h

/-- Settles O34: the selections by the mode in force, and the demands stage by stage. -/
theorem planAndDemand : Obligations.PlanAndDemand := by
  refine ⟨fun tag s ref w t a b => ?_, fun tag s l t => ⟨fun nonempty short range => ?_, fun out => ?_⟩⟩
  · obtain ⟨unconfigured, running, partFlash, others⟩ := State.doSelectPlan_some (s := s) ⟨a, b⟩ w
    refine ⟨?_, fun m => ⟨?_, ?_⟩, fun m => ?_, fun m => ?_, fun m n p => ?_, fun m => ?_⟩
    · exact State.arrive_answer t (.selectPlan tag ref none) (State.doSelectPlan_none ref)
    · exact State.arrive_answer t (.selectPlan tag ref (some w)) (unconfigured m)
    · exact State.arrive_answer t (.clearOverride tag) (State.doClearOverride_unconfigured m)
    · exact State.arrive_answer t (.selectPlan tag ref (some w)) (running m)
    · exact State.arrive_answer t (.selectPlan tag ref (some w)) (partFlash m)
    · exact State.arrive_answer t (.selectPlan tag ref (some w)) (others m n p)
    · exact State.arrive_answer t (.clearOverride tag) (State.doClearOverride_eq m)
  · obtain ⟨d, e, members⟩ := stageSetOf_some range
    obtain ⟨frame, iff⟩ := (Demanded.enterDemands s d).congr members
    exact ⟨_, State.arrive_answer t (.demand tag l) (State.doDemand_ok nonempty short e), frame, iff⟩
  · exact State.arrive_answer t (.demand tag l) (State.doDemand_refused out)

end Sys2Proof.Machine

/-! SUPPORT. READ_STATUS: the views of its parts (R72, R103, R115, R152, R164, R178). -/

namespace Sys2Proof.Machine

variable {s : State}

/-! ### The SEQUENCE part (R72) -/

theorem State.sequenceView_gaining (g : Group) : s.sequenceView.gaining[g] = s.isGaining g := ofFn_get _ g

theorem State.sequenceView_changing (h : s.engine.state = .changing) :
    s.sequenceView.prevStage = s.engine.prevStage ∧ ∀ g : Group, s.sequenceView.gaining[g] = true ↔
      s.engine.gaining[g] = true ∧ ((s.groups[g]).pendingGreen = true ∨ (s.groups[g]).aspect = .green) := by
  refine ⟨?_, fun g => ?_⟩
  · unfold State.sequenceView
    exact if_pos (decide_eq_true h)
  · rw [State.sequenceView_gaining, State.isGaining_iff]
    simp [h]

theorem State.sequenceView_unchanging (h : s.engine.state ≠ .changing) :
    s.sequenceView.prevStage = none ∧ ∀ g : Group, s.sequenceView.gaining[g] = false := by
  refine ⟨?_, fun g => ?_⟩
  · unfold State.sequenceView
    exact if_neg (by simp [h])
  · rw [State.sequenceView_gaining, Bool.eq_false_iff, ne_eq, State.isGaining_iff]
    exact fun ⟨e, _⟩ => h e

theorem State.sequenceView_plan :
    (s.engine.plan = none → s.sequenceView.plan = none)
      ∧ ∀ q, s.engine.plan = some q → s.sequenceView.plan = some ⟨q.number, q.tag, q.kind⟩ := by
  have plan : s.sequenceView.plan = s.engine.plan.map fun p => ⟨p.number, p.tag, p.kind⟩ := rfl
  rw [plan]
  exact ⟨fun h => by rw [h]; rfl, fun q h => by rw [h]; rfl⟩

/-! ### The MEASUREMENT part (R115) -/

theorem State.measView_requester :
    (s.meas.current = none → s.measView.requester = none)
    ∧ (∀ r c, s.meas.current = some r → (r.subject = .lit c ∨ r.subject = .dark c) →
        s.measView.requester = some .lampProver)
    ∧ (∀ r k, s.meas.current = some r → r.subject = .leak k → s.measView.requester = some .surveyor) := by
  unfold State.measView
  dsimp only
  refine ⟨fun h => by rw [h]; rfl, fun r c h e => ?_, fun r k h e => ?_⟩
  · rw [h, Option.map_some]
    rcases e with e | e <;> rw [e] <;> rfl
  · rw [h, Option.map_some, e]
    rfl

/-- The search for the queued LEAK request passes over lamp requests. -/
theorem State.leakQueued_append {l₁ l₂ : List MeasReq} (q : s.meas.queue = l₁ ++ l₂)
    (h : ∀ x ∈ l₁, ∀ j, x.subject ≠ .leak j) :
    s.leakQueued = State.leakQueued { s with meas := { s.meas with queue := l₂ } } := by
  unfold State.leakQueued
  rw [q, List.findSome?_append, List.findSome?_eq_none_iff.mpr fun x m => ?_, Option.none_or]
  cases e : x.subject with
  | leak j => exact (h x m j e).elim
  | lit c => rfl
  | dark c => rfl

theorem State.leakQueued_none (h : ∀ r ∈ s.meas.queue, ∀ k, r.subject ≠ .leak k) : s.leakQueued = none :=
  State.leakQueued_append (l₂ := []) (List.append_nil _).symm h

theorem State.leakQueued_some {l₁ l₂ : List MeasReq} {r : MeasReq} {k : CoreId} (q : s.meas.queue = l₁ ++ r :: l₂)
    (h : ∀ x ∈ l₁, ∀ j, x.subject ≠ .leak j) (e : r.subject = .leak k) : s.leakQueued = some (k, r.range) := by
  rw [State.leakQueued_append q h]
  unfold State.leakQueued
  rw [List.findSome?_cons, e]

/-! ### The SURVEY part (R152) -/

theorem State.surveyView_waiting_none (h : ∀ k : CoreId, (s.cores[k]).test ≠ .waitEligible) :
    s.surveyView.waiting = none := by
  unfold State.surveyView
  exact List.find?_eq_none.mpr fun k _ => by simpa using h k

/-- The core shown waiting is the first that waits, in ascending order. -/
theorem State.surveyView_waiting_some {k : CoreId} (h : (s.cores[k]).test = .waitEligible)
    (first : ∀ j : CoreId, j < k → (s.cores[j]).test ≠ .waitEligible) : s.surveyView.waiting = some k := by
  have at' : ∀ (i : Nat) (b : i < allCores.length), allCores[i] = ⟨i, by simpa [allCores] using b⟩ := fun i b => by
    simp [allCores]
  unfold State.surveyView
  refine List.find?_eq_some_iff_getElem.mpr ⟨by simpa using h, k.val, by simp [allCores], at' _ _, fun j lt => ?_⟩
  rw [at' j]
  simpa using first ⟨j, _⟩ lt

/-! ### The FAULT part (R164, R178) -/

theorem State.doReadStatus_fault {p : Nat} (h : 1 ≤ p) : s.doReadStatus .fault p
    = s.ok (.faultStatus (((s.faults.suspicions.drop (8 * (p - 1))).take 8).map s.suspicionView)
        (Vector.ofFn fun g => (s.faults.patterns[g], s.faults.responses[g])) s.mode.responseActive) :=
  if_neg (by omega)

/-- Settles O37: the views field by field, then the answer of each part. -/
theorem readStatus : Obligations.ReadStatus := by
  refine ⟨fun s => ⟨rfl, rfl, rfl, fun r => rfl⟩, fun s => ?_, fun s => ?_, fun s => ?_, fun tag s p t => ?_⟩
  · obtain ⟨absent, shown⟩ := s.sequenceView_plan
    exact ⟨rfl, absent, shown, State.sequenceView_changing, State.sequenceView_unchanging⟩
  · obtain ⟨idle, lamp, leak⟩ := s.measView_requester
    refine ⟨rfl, idle, lamp, leak, ?_, State.leakQueued_none, fun l₁ r l₂ k => State.leakQueued_some⟩
    refine List.countP_eq_length_filter.trans (congrArg List.length (List.filter_congr fun r _ => ?_))
    cases r.subject <;> rfl
  · exact ⟨rfl, State.surveyView_waiting_none, fun k => State.surveyView_waiting_some⟩
  · have answer : ∀ (part : StatusPart) {u : State} {st : Status} {b : ReplyBody},
        s.doReadStatus part p = (u, st, b) → exec (.readStatus tag part p) s = .next (u.replied tag st b) :=
      fun part _ _ _ h => State.arrive_answer t (.readStatus tag part p) h
    refine ⟨answer .mode rfl, answer .sequence rfl, answer .output rfl, answer .measurement rfl, answer .survey rfl,
      fun h => answer .fault (State.doReadStatus_fault h),
      State.arrive_answer t (.readStatus tag .fault 0) (act := State.doReadStatus .fault 0) rfl,
      answer .link rfl, ⟨s.storeView, answer .store rfl, rfl, rfl, rfl, rfl, ?_⟩, answer .other rfl⟩
    unfold State.storeView
    rw [Option.map_map]
    rfl

end Sys2Proof.Machine

/-! SUPPORT. Power, the beginning of a start, and the end of the reference conversion (R105, R108, R114, R172, R185). -/

namespace Sys2Proof.Machine

variable {s : State}

/-! ### Time, and the end of an event (R108) -/

theorem State.elapseTo_frame (s : State) (e : Nat) : ∃ n c, s.elapseTo e = { s with now := n, clock := c } := by
  unfold State.elapseTo
  split <;> exact ⟨_, _, rfl⟩

theorem State.beginWrite_frame (s : State) : ∃ st, s.beginWrite = { s with store := st } := by
  unfold State.beginWrite
  split <;> exact ⟨_, rfl⟩

/-- Of the scheduler the end of an event changes what its grant changes. -/
theorem State.close_meas (s : State) : s.close.meas = s.grant.meas := by
  obtain ⟨st, written⟩ := State.beginWrite_frame { s.grant with ev := .none }
  obtain ⟨x, b, n, l, sent, -⟩ := State.transmit_spec { s.grant with ev := .none, store := st }
  unfold State.close State.finish
  rw [written, sent]

/-- The end of an event leaves the relays and the proof line as they were. -/
theorem State.close_relays (s : State) : s.close.relays = s.relays ∧ s.close.smc = s.smc ∧ s.close.ftr = s.ftr
    ∧ s.close.survey = s.survey := by
  obtain ⟨m, l, st, e, -⟩ := s.close_spec
  rw [e]
  exact ⟨rfl, rfl, rfl, rfl⟩

/-- The end of an event with an idle converter: it stays idle where no request waits, and else begins the request chosen (R108, R112). -/
theorem State.close_idle (h : s.meas.conv = .idle) :
    (s.meas.queue = [] → s.close.meas.conv = .idle)
    ∧ (∀ r, chooseReq s.meas.queue = some r → s.close.meas.current = some r
        ∧ s.close.meas.conv = if s.ev.boundary = true then .firstHalf else .armed)
    ∧ s.close.meas.refCount = s.meas.refCount ∧ s.close.meas.refEnd = s.meas.refEnd := by
  rw [State.close_meas]
  unfold State.grant
  rw [if_pos h]
  cases c : chooseReq s.meas.queue with
  | none => exact ⟨fun _ => h, fun r e => (nomatch e), rfl, rfl⟩
  | some r =>
    have waits : s.meas.queue ≠ [] := fun e => by rw [e] at c; cases c
    dsimp only
    refine ⟨fun e => (waits e).elim, fun q e => ?_, ?_, ?_⟩
    · cases e
      split <;> exact ⟨rfl, rfl⟩
    · split <;> rfl
    · split <;> rfl

/-! ### The beginning of a start (R172, R185) -/

theorem exec_powerOn (rate : LineRate) (h : s.power.phase = .off) :
    exec (.powerOn rate) s = .next (s.beginStart .powerOn rate .default) := by
  show execPowerOn rate s = _
  unfold execPowerOn
  rw [if_pos h]

/-- The frame of a RESTART's reply has left: the start begins (R185). -/
theorem exec_frameTransmitted_restart {r : Reply} (h : s.link.tx = some (.reply r)) (k : r.restarts = true) :
    exec .frameTransmitted s = .next (s.beginStart .restart s.power.strap s.clock) := by
  show execFrameTransmitted s = _
  unfold execFrameTransmitted
  rw [h]
  dsimp only
  rw [if_pos k]

/-! ### The end of the reference conversion (R105, R172) -/

/-- The reference conversion has ended: the count is held, the proofs are read, and the converter is idle. -/
def State.referenceEnded (s : State) (count : BitVec 16) (loads : Vector Bool 48) (smc ftr line : Bool) : State :=
  { s.readProofs loads smc ftr line with
    power := { (s.readProofs loads smc ftr line).power with phase := .reading }
    meas := { s.meas with conv := .idle, refCount := count, refEnd := none } }

theorem exec_referenceConversionEnd {e : Nat} (h : s.power.phase = .reference) (k : s.meas.refEnd = some e)
    (count : BitVec 16) (loads : Vector Bool 48) (smc ftr line : Bool) :
    exec (.referenceConversionEnd count loads smc ftr line) s
      = .next ((s.elapseTo e).referenceEnded count loads smc ftr line).close := by
  show execReferenceConversionEnd count loads smc ftr line s = _
  unfold execReferenceConversionEnd
  rw [h, k]
  rfl

theorem State.referenceEnded_relay (s : State) (count : BitVec 16) (loads : Vector Bool 48) (smc ftr line : Bool)
    (c : Chan) : (s.referenceEnded count loads smc ftr line).relays[c] = { s.relays[c] with proof := loads[c] } := by
  have relays : (s.referenceEnded count loads smc ftr line).relays
      = mapIx s.relays fun c r => { r with proof := loads[c] } := rfl
  rw [relays, mapIx_get]

/-- A proof read closed is a proof fault (R172). -/
theorem State.referenceEnded_proofFault (s : State) (count : BitVec 16) (loads : Vector Bool 48) (smc ftr line : Bool) :
    (s.referenceEnded count loads smc ftr line).power.proofFault = true
      ↔ (∃ c : Chan, loads[c] = true) ∨ smc = true ∨ ftr = true := by
  show (loads.toList.any id || smc || ftr) = true ↔ _
  rw [Bool.or_eq_true, Bool.or_eq_true, anyTrue_iff, or_assoc]

theorem referenceOk_iff {count : BitVec 16} : referenceOk count = true ↔ 51381 ≤ count.toNat ∧ count.toNat ≤ 53477 :=
  within_iff

/-- Settles O39: the start values by definition, and the end of the reference conversion by what its close grants. -/
theorem powerAndRestart : Obligations.PowerAndRestart := by
  refine ⟨fun s rate => ⟨fun off => ?_, ?_, fun r h k => ?_, rfl, rfl, rfl, rfl, rfl⟩,
    fun s count loads smc ftr line e => ⟨fun h k => ?_, referenceOk_iff⟩⟩
  · exact ⟨_, exec_powerOn rate off, rfl, rfl, rfl, rfl, rfl, rfl, rfl, rfl, rfl, rfl, rfl, rfl⟩
  · refine ⟨_, rfl, rfl, rfl, rfl, fun c => ?_, rfl⟩
    show ((Vector.replicate 48 Relay.default)[c]).coil = false
    rw [Fin.getElem_fin, Vector.getElem_replicate]
    rfl
  · exact ⟨_, exec_frameTransmitted_restart h k, rfl, rfl, rfl, rfl, rfl⟩
  · refine ⟨_, exec_referenceConversionEnd h k count loads smc ftr line, ?_⟩
    obtain ⟨n, now, time⟩ := s.elapseTo_frame e
    rw [time]
    have proofFault := State.referenceEnded_proofFault { s with now := n, clock := now } count loads smc ftr line
    obtain ⟨empty, granted, held, stopped⟩ :=
      State.close_idle (s := State.referenceEnded { s with now := n, clock := now } count loads smc ftr line) rfl
    obtain ⟨power, -⟩ := State.close_frame (State.referenceEnded { s with now := n, clock := now } count loads smc ftr line)
    obtain ⟨relays, smcKept, ftrKept, survey⟩ :=
      State.close_relays (State.referenceEnded { s with now := n, clock := now } count loads smc ftr line)
    refine ⟨congrArg Power.phase power, empty, granted, held, stopped, fun c => ?_, smcKept, ftrKept,
      congrArg Survey.lineClosed survey, ?_, congrArg Power.lineFault power⟩
    · rw [relays]
      exact State.referenceEnded_relay { s with now := n, clock := now } count loads smc ftr line c
    · rw [power]
      exact proofFault

end Sys2Proof.Machine

/-! SUPPORT. The detectors (R76 to R82): raw changes, accepted changes, and the stuck-on and quiet timers. -/

namespace Sys2Proof.Machine

variable {s t u : State}

/-! ### What an event of a detector leaves alone once its own record is changed -/

/-- Only the demand set and the gap timer of the engine, the occupancy of stages, the fault confirmation unit and the link have changed. -/
def Sensed (s t : State) : Prop :=
  t = { s with
    engine := { s.engine with demands := t.engine.demands, gapTimer := t.engine.gapTimer, gapped := t.engine.gapped }
    occupied := t.occupied, faults := t.faults, link := t.link, ev := t.ev }

theorem Sensed.ofEq (h : t = s) : Sensed s t := by
  rw [h]
  rfl

theorem Sensed.trans (h : Sensed s t) (k : Sensed t u) : Sensed s u := by
  unfold Sensed at *
  rw [k, h]

theorem FaultsOnly.sensed (h : FaultsOnly s t) : Sensed s t := by
  unfold FaultsOnly at h
  rw [h]
  rfl

theorem Demanded.sensed {P : Fin 16 → Prop} (h : Demanded P s t) : Sensed s t := by
  rw [h.frame]
  rfl

/-- What the statements ask of an event's frame. -/
theorem Sensed.frame (h : Sensed s t) : t.dets = s.dets ∧ t.work = s.work ∧ t.edit = s.edit ∧ t.relays = s.relays
    ∧ t.engine.state = s.engine.state ∧ t.engine.plan = s.engine.plan := by
  unfold Sensed at h
  rw [h]
  exact ⟨rfl, rfl, rfl, rfl, rfl, rfl⟩

/-- A stage judged again leaves the demands and the fault confirmation unit alone (R79). -/
theorem Sensed.judgeExtend (s : State) (e : Option (Fin 16)) : Sensed s (s.judgeExtend e)
    ∧ (s.judgeExtend e).engine.demands = s.engine.demands ∧ (s.judgeExtend e).faults = s.faults := by
  have gap : ∀ (v : State) (n : Nat), ∃ a b, v.startGap n = { v with engine := { v.engine with gapTimer := a, gapped := b } } :=
    fun v n => by
      unfold State.startGap
      split <;> exact ⟨_, _, rfl⟩
  unfold State.judgeExtend
  split
  · next st =>
    unfold State.judgeStage
    dsimp only
    split
    · exact ⟨rfl, rfl, rfl⟩
    · split
      · split
        · exact ⟨rfl, rfl, rfl⟩
        · split
          · next r _ =>
            obtain ⟨a, b, started⟩ := gap { s with occupied := s.occupied.set st (s.judgeOccupied st) } r.gap
            rw [started]
            exact ⟨rfl, rfl, rfl⟩
          · exact ⟨rfl, rfl, rfl⟩
      · exact ⟨rfl, rfl, rfl⟩
  · exact ⟨rfl, rfl, rfl⟩

/-! ### Reports of a detector's faults (R78, R81, R82) -/

/-- A fault that ended where it stood is no longer confirmed, and the demands are as they were. -/
theorem Sensed.endCond (s : State) (b : Bool) {k : Cond} (h : k.kind.plain = true) :
    Sensed s (if b then s.endCond k else s) ∧ (if b then s.endCond k else s).engine = s.engine
      ∧ (b = true → k ∉ (if b then s.endCond k else s).faults.confirmed) := by
  cases b with
  | false => exact ⟨rfl, rfl, fun e => (nomatch e)⟩
  | true => exact ⟨(FaultsOnly.endCond s k h).sensed, (Quiet.endCond s k).engine, fun _ m => (State.mem_endCond.mp m).2 rfl⟩

/-- A fault of a class confirmed at its first observation (R156); neither the engine nor the occupancy changes. -/
theorem Sensed.observe (s : State) {k : Cond} (h : k.kind.plain = true) (c : k.cls ≤ 1) :
    Sensed s (s.observe k) ∧ (s.observe k).engine = s.engine ∧ (s.observe k).occupied = s.occupied
      ∧ k ∈ (s.observe k).faults.confirmed := by
  have quiet := Quiet.observe s k
  refine ⟨?_, quiet.engine, quiet.occupied, ?_⟩
  · rw [State.observe_confirm c]
    exact (FaultsOnly.confirm s k .normal h).sensed
  · rw [State.observe_confirm c]
    exact State.mem_confirm.mpr (.inr rfl)

/-- The demands of a detector, with or without its extend stage judged again (R77, R79). -/
theorem Sensed.called (s : State) (l : StageSet) (e : Option (Fin 16)) :
    Sensed s ((s.enterDemands l).judgeExtend e)
    ∧ (∀ st : Fin 16, ((s.enterDemands l).judgeExtend e).engine.demands[st] = true
        ↔ (s.engine.demands[st] = true ∨ (l[st] = true ∧ s.engine.inForce ≠ st.val + 1)))
    ∧ ((s.enterDemands l).judgeExtend e).faults = s.faults := by
  have entered := Demanded.enterDemands s l
  obtain ⟨judged, demands, faults⟩ := Sensed.judgeExtend (s.enterDemands l) e
  refine ⟨entered.sensed.trans judged, fun st => ?_, ?_⟩
  · rw [demands]
    exact entered.iff st
  · rw [faults, entered.frame]

/-! ### One detector's record -/

theorem State.updDet_get_same (s : State) (d : Det) (f : DetRun → DetRun) : (s.updDet d f).dets[d] = f s.dets[d] :=
  upd_same _ _ _

theorem State.updDet_get_ne (s : State) {d x : Det} (f : DetRun → DetRun) (h : x ≠ d) :
    (s.updDet d f).dets[x] = s.dets[x] := upd_other _ _ _ _ h.symm

theorem State.updDet_updDet (s : State) (d : Det) (f g : DetRun → DetRun) :
    (s.updDet d f).updDet d g = s.updDet d fun r => g (f r) := by
  unfold State.updDet
  simp [upd]

/-- An event that changes a detector's record, and else no more than `Sensed` says, leaves the other records as they were. -/
theorem Sensed.dets {d : Det} {f : DetRun → DetRun} (h : Sensed (s.updDet d f) t) :
    t.dets[d] = f s.dets[d] ∧ ∀ x : Det, x ≠ d → t.dets[x] = s.dets[x] := by
  obtain ⟨dets, -⟩ := h.frame
  rw [dets]
  exact ⟨s.updDet_get_same d f, fun x n => s.updDet_get_ne f n⟩

/-- The record of a detector as its activation is accepted; its stuck-on timer runs from zero where it has a limit (R77). -/
def DetRun.activated (start : Option Nat) (r : DetRun) : DetRun :=
  { r with accepted := true, state := .active, count := min 65535 (r.count + 1), quietStart := none, stuckStart := start }

/-- The record of a detector as its deactivation is accepted; its quiet timer runs from zero where it has a limit (R78). -/
def DetRun.deactivated (start : Option Nat) (r : DetRun) : DetRun :=
  { r with accepted := false, state := .clear, stuckStart := none, quietStart := start }

/-! ### Accepted changes (R77, R78) -/

theorem State.activation_spec (s : State) (d : Det) :
    Sensed (s.updDet d (DetRun.activated (s.fromZero s.work.dets[d].stuckOn))) (s.activation d)
    ∧ (∀ st : Fin 16, (s.activation d).engine.demands[st] = true
        ↔ (s.engine.demands[st] = true ∨ (s.work.dets[d].demands[st] = true ∧ s.engine.inForce ≠ st.val + 1)))
    ∧ ((s.dets[d]).state = .quiet → (⟨.detector d, .detectorQuiet⟩ : Cond) ∉ (s.activation d).faults.confirmed) := by
  obtain ⟨ended, engine, gone⟩ := Sensed.endCond (s.updDet d (DetRun.activated (s.fromZero s.work.dets[d].stuckOn)))
    (decide ((s.dets[d]).state = .quiet)) (k := ⟨.detector d, .detectorQuiet⟩) rfl
  obtain ⟨called, demands, faults⟩ := Sensed.called
    (if decide ((s.dets[d]).state = .quiet) then
      (s.updDet d (DetRun.activated (s.fromZero s.work.dets[d].stuckOn))).endCond ⟨.detector d, .detectorQuiet⟩
    else s.updDet d (DetRun.activated (s.fromZero s.work.dets[d].stuckOn))) s.work.dets[d].demands s.work.dets[d].extend
  refine ⟨ended.trans called, fun st => (demands st).trans ?_, fun q => ?_⟩
  · rw [engine]
    rfl
  · rw [← faults] at gone
    exact gone (decide_eq_true q)

theorem State.deactivation_spec (s : State) (d : Det) :
    Sensed (s.updDet d (DetRun.deactivated (s.fromZero s.work.dets[d].quiet))) (s.deactivation d)
    ∧ (s.deactivation d).engine.demands = s.engine.demands
    ∧ ((s.dets[d]).state = .stuck → (⟨.detector d, .detectorStuck⟩ : Cond) ∉ (s.deactivation d).faults.confirmed) := by
  obtain ⟨ended, engine, gone⟩ := Sensed.endCond (s.updDet d (DetRun.deactivated (s.fromZero s.work.dets[d].quiet)))
    (decide ((s.dets[d]).state = .stuck)) (k := ⟨.detector d, .detectorStuck⟩) rfl
  obtain ⟨judged, demands, faults⟩ := Sensed.judgeExtend
    (if decide ((s.dets[d]).state = .stuck) then
      (s.updDet d (DetRun.deactivated (s.fromZero s.work.dets[d].quiet))).endCond ⟨.detector d, .detectorStuck⟩
    else s.updDet d (DetRun.deactivated (s.fromZero s.work.dets[d].quiet))) s.work.dets[d].extend
  refine ⟨ended.trans judged, demands.trans ?_, fun q => ?_⟩
  · rw [engine]
    rfl
  · rw [← faults] at gone
    exact gone (decide_eq_true q)

/-! ### The debounce timer's expiry (R76) -/

/-- A debounce timer that runs out is stopped; what differs then is accepted. -/
theorem State.debounceExpiry_cases (s : State) (d : Det) :
    ((s.dets[d]).raw = (s.dets[d]).accepted → s.debounceExpiry d = s.updDet d fun r => { r with debounce := none })
    ∧ ((s.dets[d]).raw = true → (s.dets[d]).accepted = false →
        s.debounceExpiry d = (s.updDet d fun r => { r with debounce := none }).activation d)
    ∧ ((s.dets[d]).raw = false → (s.dets[d]).accepted = true →
        s.debounceExpiry d = (s.updDet d fun r => { r with debounce := none }).deactivation d) := by
  unfold State.debounceExpiry
  dsimp only
  refine ⟨fun e => if_pos e, fun r a => ?_, fun r a => ?_⟩
  · rw [r, a]; rfl
  · rw [r, a]; rfl

theorem State.debounceExpiry_activation (s : State) (d : Det) (r : (s.dets[d]).raw = true)
    (a : (s.dets[d]).accepted = false) :
    Sensed (s.updDet d fun r => DetRun.activated (s.fromZero s.work.dets[d].stuckOn) { r with debounce := none })
      (s.debounceExpiry d)
    ∧ (∀ st : Fin 16, (s.debounceExpiry d).engine.demands[st] = true
        ↔ (s.engine.demands[st] = true ∨ (s.work.dets[d].demands[st] = true ∧ s.engine.inForce ≠ st.val + 1)))
    ∧ ((s.dets[d]).state = .quiet → (⟨.detector d, .detectorQuiet⟩ : Cond) ∉ (s.debounceExpiry d).faults.confirmed) := by
  obtain ⟨-, accepted, -⟩ := s.debounceExpiry_cases d
  obtain ⟨sensed, demands, gone⟩ := (s.updDet d fun r => { r with debounce := none }).activation_spec d
  rw [State.updDet_updDet] at sensed
  rw [State.updDet_get_same] at gone
  rw [accepted r a]
  exact ⟨sensed, demands, gone⟩

theorem State.debounceExpiry_deactivation (s : State) (d : Det) (r : (s.dets[d]).raw = false)
    (a : (s.dets[d]).accepted = true) :
    Sensed (s.updDet d fun r => DetRun.deactivated (s.fromZero s.work.dets[d].quiet) { r with debounce := none })
      (s.debounceExpiry d)
    ∧ (s.debounceExpiry d).engine.demands = s.engine.demands
    ∧ ((s.dets[d]).state = .stuck → (⟨.detector d, .detectorStuck⟩ : Cond) ∉ (s.debounceExpiry d).faults.confirmed) := by
  obtain ⟨-, -, accepted⟩ := s.debounceExpiry_cases d
  obtain ⟨sensed, demands, gone⟩ := (s.updDet d fun r => { r with debounce := none }).deactivation_spec d
  rw [State.updDet_updDet] at sensed
  rw [State.updDet_get_same] at gone
  rw [accepted r a]
  exact ⟨sensed, demands, gone⟩

/-- Whatever is accepted, no other detector's record changes. -/
theorem State.debounceExpiry_sensed (s : State) (d : Det) : ∃ f, Sensed (s.updDet d f) (s.debounceExpiry d) := by
  cases r : (s.dets[d]).raw with
  | false =>
    cases a : (s.dets[d]).accepted with
    | false => exact ⟨_, .ofEq ((s.debounceExpiry_cases d).1 (r.trans a.symm))⟩
    | true => exact ⟨_, (s.debounceExpiry_deactivation d r a).1⟩
  | true =>
    cases a : (s.dets[d]).accepted with
    | false => exact ⟨_, (s.debounceExpiry_activation d r a).1⟩
    | true => exact ⟨_, .ofEq ((s.debounceExpiry_cases d).1 (r.trans a.symm))⟩

/-! ### The stuck-on and quiet timers (R81, R82) -/

theorem State.enterStuck_spec (s : State) (d : Det) :
    Sensed (s.updDet d fun r => { r with state := .stuck, stuckStart := none }) (s.enterStuck d)
    ∧ (⟨.detector d, .detectorStuck⟩ : Cond) ∈ (s.enterStuck d).faults.confirmed
    ∧ ∀ st : Fin 16, (s.enterStuck d).engine.demands[st] = true
        ↔ (s.engine.demands[st] = true ∨ (s.work.dets[d].demands[st] = true ∧ s.engine.inForce ≠ st.val + 1)) := by
  obtain ⟨observed, engine, -, confirmed⟩ := Sensed.observe
    (s.updDet d fun r => { r with state := .stuck, stuckStart := none }) (k := ⟨.detector d, .detectorStuck⟩) rfl le_rfl
  obtain ⟨called, demands, faults⟩ := Sensed.called
    ((s.updDet d fun r => { r with state := .stuck, stuckStart := none }).observe ⟨.detector d, .detectorStuck⟩)
    s.work.dets[d].demands s.work.dets[d].extend
  refine ⟨observed.trans called, ?_, fun st => (demands st).trans ?_⟩
  · rw [← faults] at confirmed
    exact confirmed
  · rw [engine]
    rfl

theorem State.enterQuiet_spec (s : State) (d : Det) :
    Sensed (s.updDet d fun r => { r with state := .quiet, quietStart := none }) (s.enterQuiet d)
    ∧ (s.enterQuiet d).occupied = s.occupied
    ∧ (⟨.detector d, .detectorQuiet⟩ : Cond) ∈ (s.enterQuiet d).faults.confirmed
    ∧ ∀ st : Fin 16, (s.enterQuiet d).engine.demands[st] = true
        ↔ (s.engine.demands[st] = true ∨ (s.work.dets[d].demands[st] = true ∧ s.engine.inForce ≠ st.val + 1)) := by
  obtain ⟨observed, engine, occupied, confirmed⟩ := Sensed.observe
    (s.updDet d fun r => { r with state := .quiet, quietStart := none }) (k := ⟨.detector d, .detectorQuiet⟩) rfl le_rfl
  have work : ((s.updDet d fun r => { r with state := .quiet, quietStart := none }).observe
      ⟨.detector d, .detectorQuiet⟩).work = s.work := (Quiet.observe _ _).work
  have entered := Demanded.enterDemands
    ((s.updDet d fun r => { r with state := .quiet, quietStart := none }).observe ⟨.detector d, .detectorQuiet⟩)
    s.work.dets[d].demands
  unfold State.enterQuiet
  dsimp only
  rw [work]
  refine ⟨observed.trans entered.sensed, ?_, ?_, fun st => (entered.iff st).trans ?_⟩
  · rw [entered.frame]
    exact occupied
  · rw [entered.frame]
    exact confirmed
  · rw [engine]
    rfl

/-! ### Raw changes (R73, R76) -/

theorem State.samplePoint_eq (s : State) (d : Det) (b : Bool) :
    s.samplePoint (driveOf d) (senseOf d) b = (s.updDet d fun r => { r with raw := b }).scan d := by
  unfold State.samplePoint
  rw [detAt_point]

/-- A comparison of the raw with the accepted input runs, stops or leaves the debounce timer, and changes nothing else. -/
theorem State.scan_spec (s : State) (d : Det) :
    s.scan d = { s with dets := (s.scan d).dets } ∧ (∀ x : Det, x ≠ d → (s.scan d).dets[x] = s.dets[x])
    ∧ (s.work.dets[d].kind = .disabled → (s.scan d).dets[d] = s.dets[d])
    ∧ (s.work.dets[d].kind ≠ .disabled → (s.dets[d]).raw = (s.dets[d]).accepted →
        (s.scan d).dets[d] = { s.dets[d] with debounce := none })
    ∧ (s.work.dets[d].kind ≠ .disabled → (s.dets[d]).raw ≠ (s.dets[d]).accepted → (s.dets[d]).debounce = none →
        (s.scan d).dets[d] = { s.dets[d] with debounce := some (s.now + s.work.dets[d].debounce) })
    ∧ (s.work.dets[d].kind ≠ .disabled → (s.dets[d]).raw ≠ (s.dets[d]).accepted → (s.dets[d]).debounce ≠ none →
        (s.scan d).dets[d] = s.dets[d]) := by
  unfold State.scan
  refine ⟨by split <;> rfl, fun x n => ?_, fun k => by rw [if_pos k], fun k e => ?_, fun k e n => ?_, fun k e n => ?_⟩
  · split
    · rfl
    · exact s.updDet_get_ne _ n
  · rw [if_neg k, State.updDet_get_same]
    generalize s.dets[d] = r at e ⊢
    cases r.debounce <;> simp [e]
  · rw [if_neg k, State.updDet_get_same, n]
    generalize s.dets[d] = r at e ⊢
    simp [e]
  · obtain ⟨x, hx⟩ := Option.ne_none_iff_exists'.mp n
    rw [if_neg k, State.updDet_get_same, hx]
    generalize s.dets[d] = r at e hx ⊢
    simp [e, ← hx]

/-! ### The events -/

theorem exec_detectorRawChange (h : s.power.phase = .running) (d : Det) (b : Bool) : exec (.detectorRawChange d b) s
    = .next ((s.updDet d fun r => { r with raw := b }).scan d).close := by
  show execDetectorRawChange d b s = _
  unfold execDetectorRawChange State.running
  rw [if_pos (decide_eq_true h), State.samplePoint_eq]

/-- Settles O48: the records of the detectors, and the demands, by what each event makes of its own detector. -/
theorem detectorEvents : Obligations.DetectorEvents := by
  refine ⟨fun d b s running => ?_, fun d s e due => ?_, fun d s e => ⟨fun due => ?_, fun due => ?_⟩⟩
  · obtain ⟨frame, others, disabled, same, starts, runs⟩ := (s.updDet d fun r => { r with raw := b }).scan_spec d
    rw [State.updDet_get_same] at disabled same starts runs
    exact ⟨_, exec_detectorRawChange running d b, frame, fun x n => (others x n).trans (s.updDet_get_ne _ n),
      disabled, same, starts, runs⟩
  · obtain ⟨n, c, time⟩ := s.elapseTo_frame e
    refine ⟨_, congrArg Host.Outcome.next (State.due_some due _), ?_⟩
    rw [time]
    obtain ⟨f, sensed⟩ := State.debounceExpiry_sensed { s with now := n, clock := c } d
    obtain ⟨-, others⟩ := sensed.dets
    obtain ⟨-, work, edit, relays, state, plan⟩ := sensed.frame
    refine ⟨others, work, edit, relays, state, plan, fun r a => ?_, fun r a => ?_⟩
    · obtain ⟨accepted, demands, gone⟩ := State.debounceExpiry_activation { s with now := n, clock := c } d r a
      exact ⟨accepted.dets.1, demands, gone⟩
    · obtain ⟨accepted, demands, gone⟩ := State.debounceExpiry_deactivation { s with now := n, clock := c } d r a
      exact ⟨accepted.dets.1, demands, gone⟩
  · obtain ⟨n, c, time⟩ := s.elapseTo_frame e
    refine ⟨_, congrArg Host.Outcome.next (State.due_some due _), ?_⟩
    rw [time]
    obtain ⟨entered, confirmed, demands⟩ := State.enterStuck_spec { s with now := n, clock := c } d
    obtain ⟨own, others⟩ := entered.dets
    exact ⟨own, others, confirmed, demands⟩
  · obtain ⟨n, c, time⟩ := s.elapseTo_frame e
    refine ⟨_, congrArg Host.Outcome.next (State.due_some due _), ?_⟩
    rw [time]
    obtain ⟨entered, occupied, confirmed, demands⟩ := State.enterQuiet_spec { s with now := n, clock := c } d
    obtain ⟨own, others⟩ := entered.dets
    exact ⟨own, others, occupied, confirmed, demands⟩

end Sys2Proof.Machine

/-! SUPPORT. The occupancy of stages (R79), the accepted deactivation (R78), and SET_DETECTOR (R74, R84). -/

namespace Sys2Proof.Machine

variable {s t : State}

/-! ### Occupancy (R79) -/

/-- What the scanner holds of a stage agrees with its detectors: it is occupied just where a PRESENCE detector that extends it is ACTIVE. -/
def State.Judged (s : State) (st : Fin 16) : Prop :=
  s.occupied[st] = true ↔ ∃ x : Det, s.work.dets[x].kind = .presence ∧ s.work.dets[x].extend = some st
    ∧ (s.dets[x]).state = .active

theorem State.judgeOccupied_iff {st : Fin 16} : s.judgeOccupied st = true
    ↔ ∃ x : Det, s.work.dets[x].kind = .presence ∧ s.work.dets[x].extend = some st ∧ (s.dets[x]).state = .active := by
  simp [State.judgeOccupied, allDets, and_assoc]

/-- A stage judged, by settings that stand as they were before. -/
theorem State.Judged.iff {st : Fin 16} (h : t.Judged st) (work : t.work = s.work) : t.occupied[st] = true
    ↔ ∃ x : Det, s.work.dets[x].kind = .presence ∧ s.work.dets[x].extend = some st ∧ (t.dets[x]).state = .active := by
  rw [← work]
  exact h

/-- Occupancy, settings and states of the detectors as they were: a stage judged stays judged. -/
theorem State.Judged.congr {st : Fin 16} (h : s.Judged st) (occupied : t.occupied = s.occupied) (work : t.work = s.work)
    (states : ∀ x : Det, s.work.dets[x].kind = .presence → s.work.dets[x].extend = some st →
      ((t.dets[x]).state = .active ↔ (s.dets[x]).state = .active)) : t.Judged st := by
  unfold State.Judged
  rw [occupied, work]
  exact h.trans (exists_congr fun x => and_congr_right fun k => and_congr_right fun e => (states x k e).symm)

theorem State.judgeStage_occupied (s : State) (st : Fin 16) :
    (s.judgeStage st).occupied = s.occupied.set st (s.judgeOccupied st) := by
  have gap : ∀ (v : State) (n : Nat), (v.startGap n).occupied = v.occupied := fun v n => by
    unfold State.startGap
    split <;> rfl
  unfold State.judgeStage
  dsimp only
  split
  · next same =>
    rw [same]
    simp
  · split
    · split
      · rfl
      · split
        · exact gap _ _
        · rfl
    · rfl

theorem State.judgeExtend_occupied (s : State) (e : Option (Fin 16)) (st : Fin 16) :
    (s.judgeExtend e).occupied[st] = if e = some st then s.judgeOccupied st else s.occupied[st] := by
  cases e with
  | none => rfl
  | some x =>
    show (s.judgeStage x).occupied[st] = _
    rw [State.judgeStage_occupied, set_get]
    by_cases same : x = st
    · subst same
      simp
    · simp [same]

/-- A stage is judged once it was the one judged again, and stays so where another one was. -/
theorem State.judgeExtend_judged (s : State) {e : Option (Fin 16)} {st : Fin 16} (h : e = some st ∨ s.Judged st) :
    (s.judgeExtend e).Judged st := by
  obtain ⟨dets, work, -⟩ := (Sensed.judgeExtend s e).1.frame
  unfold State.Judged
  rw [State.judgeExtend_occupied, dets, work]
  split
  · exact State.judgeOccupied_iff
  · next other => exact h.resolve_left other

/-- Demands entered leave the occupancy of the stages as it was judged. -/
theorem Demanded.judged {P : Fin 16 → Prop} {st : Fin 16} (h : Demanded P s t) (k : s.Judged st) : t.Judged st := by
  rw [h.frame]
  exact k

/-! ### The accepted deactivation (R78) -/

/-- Of the occupancy an accepted deactivation judges the extend stage of its detector again, and no other stage. -/
theorem State.deactivation_occupied (s : State) (d : Det) :
    (∀ st : Fin 16, s.work.dets[d].extend = some st → (s.deactivation d).Judged st)
    ∧ ∀ st : Fin 16, s.work.dets[d].extend ≠ some st → (s.deactivation d).occupied[st] = s.occupied[st] := by
  unfold State.deactivation
  dsimp only
  refine ⟨fun st e => State.judgeExtend_judged _ (.inl e), fun st e => ?_⟩
  rw [State.judgeExtend_occupied]
  refine (if_neg e).trans ?_
  have ended : ∀ (b : Bool) (v : State) (k : Cond), (if b then v.endCond k else v).occupied = v.occupied :=
    fun b v k => (Quiet.ite (.endCond v k) (.refl v)).occupied
  exact congrArg (fun o : Vector Bool 16 => o[st]) (ended _ _ _)

/-- Settles O49, by what the expiry of the debounce timer makes of an input that has become inactive. -/
theorem acceptedDeactivation : Obligations.AcceptedDeactivation := by
  intro d s e due _ raw active
  obtain ⟨n, c, time⟩ := s.elapseTo_frame e
  refine ⟨_, congrArg Host.Outcome.next (State.due_some due _), ?_⟩
  rw [time]
  obtain ⟨accepted, demands, gone⟩ := State.debounceExpiry_deactivation { s with now := n, clock := c } d raw active
  obtain ⟨-, -, branch⟩ := State.debounceExpiry_cases { s with now := n, clock := c } d
  obtain ⟨judged, kept⟩ := State.deactivation_occupied
    (State.updDet { s with now := n, clock := c } d fun r => { r with debounce := none }) d
  rw [← branch raw active] at judged kept
  obtain ⟨own, others⟩ := accepted.dets
  obtain ⟨-, work, -⟩ := accepted.frame
  refine ⟨own, others, gone, demands, fun st _ e => ?_, kept⟩
  exact (judged st e).iff work

end Sys2Proof.Machine

/-! SUPPORT. SET_DETECTOR (R74, R84): the fields checked and clamped, and what new settings make of the detector. -/

namespace Sys2Proof.Machine

variable {s t : State}

/-! ### The request (R74) -/

theorem checkExtend_succ (e : Option (Fin 16)) : checkExtend (e.map fun x => x.val + 1) = some e := by
  cases e with
  | none => rfl
  | some x => exact congrArg (Option.map some) (index?_succ x)

theorem checkDetector_some {f : DetectorFields} {k : DetKind} {l : StageSet} {e : Option (Fin 16)}
    (kind : f.kind = some k) (short : f.demands.length ≤ 4) (demands : stageSetOf f.demands = some l)
    (extend : checkExtend f.extend = some e) : checkDetector f
      = some ⟨k, l, e, clamp 20 250 f.debounce, min 255 f.stuckOn, min 72 f.quiet⟩ := by
  unfold checkDetector
  rw [kind, demands, extend]
  exact if_pos short

/-- Table 4-1: each field outside its values fails the check. -/
theorem checkDetector_none {f : DetectorFields} (h : f.kind = none ∨ 4 < f.demands.length
    ∨ (∃ n ∈ f.demands, n < 1 ∨ 16 < n) ∨ ∃ n, f.extend = some n ∧ (n < 1 ∨ 16 < n)) : checkDetector f = none := by
  unfold checkDetector
  split
  · next kind demands extend =>
    rcases h with h | h | ⟨n, m, out⟩ | ⟨n, e, out⟩
    · rw [h] at kind
      cases kind
    · exact if_neg (by omega)
    · rw [stageSetOf_none m out] at demands
      cases demands
    · have outside : checkExtend (some n) = none := congrArg (Option.map some) (index?_none out)
      rw [e, outside] at extend
      cases extend
  · rfl

theorem State.doSetDetector_some {d : Nat} {i : Det} {f : DetectorFields} {x : DetCfg} (number : d = i.val + 1)
    (h : checkDetector f = some x) : s.doSetDetector d f
      = (s.spread ((State.placeConfig
          { s with work := { s.work with dets := s.work.dets.set i x }
                   edit := { s.edit with dets := s.edit.dets.set i x } }).applyDetector i s.work.dets[i])).ok
        (.detector x) := by
  subst number
  unfold State.doSetDetector
  rw [index?_succ, h]
  rfl

theorem State.doSetDetector_refused {d : Nat} {f : DetectorFields} (h : (d < 1 ∨ 32 < d) ∨ checkDetector f = none) :
    s.doSetDetector d f = s.refuse .refusedValue := by
  have fails : both (index? 32 d) (checkDetector f) = none := by
    rcases h with h | h
    · rw [index?_none h, both_none_left]
    · rw [h, both_none_right]
  unfold State.doSetDetector
  rw [fails]

/-! ### A detector made DISABLED (R84) -/

/-- The record of a DISABLED detector (R84). -/
def DetRun.disabled (r : DetRun) : DetRun :=
  { r with accepted := false, state := .clear, debounce := none, stuckStart := none, quietStart := none }

/-- The fault that a detector's state stands for has ended (R83). -/
def State.endDetectorFault (s : State) (d : Det) : DetState → State
  | .stuck => s.endCond ⟨.detector d, .detectorStuck⟩
  | .quiet => s.endCond ⟨.detector d, .detectorQuiet⟩
  | .clear | .active => s

theorem State.endDetectorFault_spec (s : State) (d : Det) (st : DetState) : Sensed s (s.endDetectorFault d st)
    ∧ (s.endDetectorFault d st).engine = s.engine
    ∧ (st = .stuck → (⟨.detector d, .detectorStuck⟩ : Cond) ∉ (s.endDetectorFault d st).faults.confirmed)
    ∧ (st = .quiet → (⟨.detector d, .detectorQuiet⟩ : Cond) ∉ (s.endDetectorFault d st).faults.confirmed) := by
  cases st with
  | clear => exact ⟨rfl, rfl, fun e => (nomatch e), fun e => (nomatch e)⟩
  | active => exact ⟨rfl, rfl, fun e => (nomatch e), fun e => (nomatch e)⟩
  | stuck =>
    obtain ⟨ended, engine, gone⟩ := Sensed.endCond s true (k := ⟨.detector d, .detectorStuck⟩) rfl
    exact ⟨ended, engine, fun _ => gone rfl, fun e => (nomatch e)⟩
  | quiet =>
    obtain ⟨ended, engine, gone⟩ := Sensed.endCond s true (k := ⟨.detector d, .detectorQuiet⟩) rfl
    exact ⟨ended, engine, fun e => (nomatch e), fun _ => gone rfl⟩

theorem State.applyDetector_disabled {d : Det} (old : DetCfg) (k : s.work.dets[d].kind = .disabled) :
    s.applyDetector d old
      = ((s.updDet d DetRun.disabled).endDetectorFault d (s.dets[d]).state).judgeExtend old.extend := by
  unfold State.applyDetector
  dsimp only
  rw [if_pos k]
  cases (s.dets[d]).state <;> rfl

theorem State.applyDetector_disabled_spec {d : Det} (old : DetCfg) (k : s.work.dets[d].kind = .disabled) :
    Sensed (s.updDet d DetRun.disabled) (s.applyDetector d old)
    ∧ (s.applyDetector d old).engine.demands = s.engine.demands
    ∧ ((s.dets[d]).state = .stuck → (⟨.detector d, .detectorStuck⟩ : Cond) ∉ (s.applyDetector d old).faults.confirmed)
    ∧ ((s.dets[d]).state = .quiet → (⟨.detector d, .detectorQuiet⟩ : Cond) ∉ (s.applyDetector d old).faults.confirmed)
    ∧ ∀ st : Fin 16, old.extend = some st → (s.applyDetector d old).Judged st := by
  rw [State.applyDetector_disabled old k]
  obtain ⟨ended, engine, stuck, quiet⟩ := (s.updDet d DetRun.disabled).endDetectorFault_spec d (s.dets[d]).state
  obtain ⟨judged, demands, faults⟩ :=
    Sensed.judgeExtend ((s.updDet d DetRun.disabled).endDetectorFault d (s.dets[d]).state) old.extend
  rw [faults]
  refine ⟨ended.trans judged, demands.trans ?_, stuck, quiet, fun st e => State.judgeExtend_judged _ (.inl e)⟩
  rw [engine]
  rfl

/-! ### A detector just enabled (R84) -/

/-- The record of a detector just enabled, before its inputs are compared (R84). -/
def DetRun.enabled (start : Option Nat) (r : DetRun) : DetRun :=
  { r with accepted := false, state := .clear, quietStart := start }

theorem State.applyDetector_enabling {d : Det} {old : DetCfg} (k : s.work.dets[d].kind ≠ .disabled)
    (o : old.kind = .disabled) :
    s.applyDetector d old = (s.updDet d (DetRun.enabled (s.fromZero s.work.dets[d].quiet))).scan d := by
  unfold State.applyDetector
  dsimp only
  rw [if_neg k, if_pos o]
  rfl

theorem State.applyDetector_enabling_spec {d : Det} {old : DetCfg} (k : s.work.dets[d].kind ≠ .disabled)
    (o : old.kind = .disabled) :
    s.applyDetector d old = { s with dets := (s.applyDetector d old).dets }
    ∧ (∀ x : Det, x ≠ d → (s.applyDetector d old).dets[x] = s.dets[x])
    ∧ (s.applyDetector d old).dets[d] = { DetRun.enabled (s.fromZero s.work.dets[d].quiet) s.dets[d] with
        debounce := if (s.dets[d]).raw = true then some ((s.dets[d]).debounce.getD (s.now + s.work.dets[d].debounce))
          else none } := by
  rw [State.applyDetector_enabling k o]
  obtain ⟨frame, others, -, same, starts, runs⟩ :=
    (s.updDet d (DetRun.enabled (s.fromZero s.work.dets[d].quiet))).scan_spec d
  rw [State.updDet_get_same] at same starts runs
  refine ⟨frame, fun x n => (others x n).trans (s.updDet_get_ne _ n), ?_⟩
  cases raw : (s.dets[d]).raw with
  | false => exact same k raw
  | true =>
    have differs : (DetRun.enabled (s.fromZero s.work.dets[d].quiet) s.dets[d]).raw
        ≠ (DetRun.enabled (s.fromZero s.work.dets[d].quiet) s.dets[d]).accepted := fun e => (nomatch raw.symm.trans e)
    cases timer : (s.dets[d]).debounce with
    | none => exact starts k differs timer
    | some b =>
      have kept : DetRun.debounce (DetRun.enabled (s.fromZero s.work.dets[d].quiet) s.dets[d]) = some b := timer
      refine (runs k differs (by rw [kept]; exact Option.some_ne_none b)).trans ?_
      show _ = { DetRun.enabled (s.fromZero s.work.dets[d].quiet) s.dets[d] with debounce := some b }
      rw [← kept]

/-! ### What else an event of a detector leaves alone -/

theorem Sensed.now (h : Sensed s t) : t.now = s.now := by
  unfold Sensed at h
  rw [h]

theorem Sensed.inForce (h : Sensed s t) : t.engine.inForce = s.engine.inForce := by
  unfold Sensed at h
  rw [h]
  rfl

theorem Sensed.updDet (d : Det) (f : DetRun → DetRun) (h : Sensed s t) : Sensed (s.updDet d f) (t.updDet d f) := by
  unfold Sensed at h
  rw [h]
  rfl

/-! ### The limits of a detector still enabled (R84) -/

/-- The start of a limit timer under a new limit: stopped by a limit of 0, from now where there was none and the state has it run, and else as it was (R84). -/
def limitStart (now : Nat) (start : Option Nat) (old new : Nat) (runs : Prop) [Decidable runs] : Option Nat :=
  if new = 0 then none else if old = 0 ∧ runs then some now else start

theorem State.changeLimit_eq (s : State) (start : Option Nat) (old new : Nat) (runs : Prop) [Decidable runs] :
    s.changeLimit start old new (decide runs) = limitStart s.now start old new runs := by
  unfold State.changeLimit limitStart
  simp only [decide_eq_true_eq]

/-- A limit timer that runs has a limit. -/
theorem limitStart_some {now : Nat} {start : Option Nat} {old new b : Nat} {runs : Prop} [Decidable runs]
    (h : limitStart now start old new runs = some b) : new ≠ 0 := fun e => by
  unfold limitStart at h
  rw [if_pos e] at h
  cases h

/-- The record of a detector under new limits (R84). -/
def DetRun.limited (now : Nat) (old new : DetCfg) (r : DetRun) : DetRun :=
  { r with
    stuckStart := limitStart now r.stuckStart old.stuckOn new.stuckOn (r.state = .active)
    quietStart := limitStart now r.quietStart old.quiet new.quiet (r.state = .clear) }

/-- An ACTIVE detector whose stuck-on timer has reached its limit under new limits (R81, R84). -/
def State.StuckPassed (s : State) (d : Det) (old : DetCfg) : Prop :=
  (s.dets[d]).state = .active ∧ ∃ b, (DetRun.limited s.now old s.work.dets[d] s.dets[d]).stuckStart = some b
    ∧ b + 60000 * s.work.dets[d].stuckOn ≤ s.now

/-- A CLEAR detector whose quiet timer has reached its limit under new limits (R82, R84). -/
def State.QuietPassed (s : State) (d : Det) (old : DetCfg) : Prop :=
  (s.dets[d]).state = .clear ∧ ∃ b, (DetRun.limited s.now old s.work.dets[d] s.dets[d]).quietStart = some b
    ∧ b + 3600000 * s.work.dets[d].quiet ≤ s.now

/-- A limit timer that a change of its limit has left running is due just where it has run for the limit. -/
theorem limitStart_due {now : Nat} {start : Option Nat} {old new unit : Nat} {runs : Prop} [Decidable runs] :
    (if new = 0 then none else (limitStart now start old new runs).map (· + unit * new) : Timer).any (· ≤ now) = true
      ↔ ∃ b, limitStart now start old new runs = some b ∧ b + unit * new ≤ now := by
  cases h : limitStart now start old new runs with
  | none => simp
  | some b => simp [limitStart_some h]

/-! ### A detector still enabled, before it enters STUCK or QUIET (R84) -/

/-- The new limits, then the extend stages (R84, log 69). -/
def State.relimited (s : State) (d : Det) (old : DetCfg) : State :=
  ((s.updDet d (DetRun.limited s.now old s.work.dets[d])).judgeExtend old.extend).judgeExtend s.work.dets[d].extend

/-- A faulted detector with new demands, which forces them at once (R84). -/
def State.Recalled (s : State) (d : Det) (old : DetCfg) : Prop :=
  old.demands ≠ s.work.dets[d].demands ∧ ((s.dets[d]).state = .stuck ∨ (s.dets[d]).state = .quiet)

/-- The new limits and the extend stages, then the demands of a faulted detector (R84, log 69). -/
def State.resettled (s : State) (d : Det) (old : DetCfg) : State :=
  if old.demands ≠ s.work.dets[d].demands ∧ ((s.dets[d]).state = .stuck ∨ (s.dets[d]).state = .quiet) then
    (s.relimited d old).enterDemands s.work.dets[d].demands
  else s.relimited d old

theorem State.relimited_spec (s : State) (d : Det) (old : DetCfg) :
    Sensed (s.updDet d (DetRun.limited s.now old s.work.dets[d])) (s.relimited d old)
    ∧ (s.relimited d old).engine.demands = s.engine.demands
    ∧ (s.relimited d old).faults = s.faults
    ∧ ∀ st : Fin 16, (old.extend = some st ∨ s.work.dets[d].extend = some st) → (s.relimited d old).Judged st := by
  obtain ⟨first, demands₁, faults₁⟩ :=
    Sensed.judgeExtend (s.updDet d (DetRun.limited s.now old s.work.dets[d])) old.extend
  obtain ⟨second, demands₂, faults₂⟩ := Sensed.judgeExtend
    ((s.updDet d (DetRun.limited s.now old s.work.dets[d])).judgeExtend old.extend) s.work.dets[d].extend
  exact ⟨first.trans second, demands₂.trans demands₁, faults₂.trans faults₁, fun st e =>
    State.judgeExtend_judged _ (e.symm.imp_right fun o => State.judgeExtend_judged _ (.inl o))⟩

theorem State.resettled_spec (s : State) (d : Det) (old : DetCfg) :
    Sensed (s.updDet d (DetRun.limited s.now old s.work.dets[d])) (s.resettled d old)
    ∧ (s.resettled d old).faults = s.faults
    ∧ (∀ st : Fin 16, (s.resettled d old).engine.demands[st] = true ↔ (s.engine.demands[st] = true
        ∨ (s.work.dets[d].demands[st] = true ∧ s.engine.inForce ≠ st.val + 1 ∧ s.Recalled d old)))
    ∧ ∀ st : Fin 16, (old.extend = some st ∨ s.work.dets[d].extend = some st) → (s.resettled d old).Judged st := by
  obtain ⟨sensed, demands, faults, judged⟩ := s.relimited_spec d old
  by_cases called : s.Recalled d old
  · have entered := Demanded.enterDemands (s.relimited d old) s.work.dets[d].demands
    have inForce : (s.relimited d old).engine.inForce = s.engine.inForce := sensed.inForce
    have resettled : s.resettled d old = (s.relimited d old).enterDemands s.work.dets[d].demands := if_pos called
    rw [resettled]
    refine ⟨sensed.trans entered.sensed, ?_, fun st => ?_, fun st e => entered.judged (judged st e)⟩
    · rw [entered.frame]
      exact faults
    · rw [entered.iff, demands, inForce]
      simp only [called, and_true]
  · have resettled : s.resettled d old = s.relimited d old := if_neg called
    rw [resettled]
    refine ⟨sensed, faults, fun st => ?_, judged⟩
    rw [demands]
    simp only [called, and_false, or_false]

/-! ### A detector still enabled (R84) -/

theorem State.applyDetector_kept {d : Det} {old : DetCfg} (k : s.work.dets[d].kind ≠ .disabled)
    (o : old.kind ≠ .disabled) : s.applyDetector d old =
      let r := s.dets[d]
      let t := s.resettled d old
      let v := if r.state = .active && (t.stuckDue d).any (· ≤ t.now) then t.enterStuck d else t
      if r.state = .clear && (v.quietDue d).any (· ≤ v.now) then v.enterQuiet d else v := by
  unfold State.applyDetector
  dsimp only
  rw [if_neg k, if_neg o, State.changeLimit_eq, State.changeLimit_eq]
  rfl

/-- After the change of its limits a detector's timers are due by its own record and settings. -/
theorem State.resettled_due (s : State) (d : Det) (old : DetCfg) :
    (((s.resettled d old).stuckDue d).any (· ≤ (s.resettled d old).now) = true
      ↔ ∃ b, (DetRun.limited s.now old s.work.dets[d] s.dets[d]).stuckStart = some b
          ∧ b + 60000 * s.work.dets[d].stuckOn ≤ s.now)
    ∧ (((s.resettled d old).quietDue d).any (· ≤ (s.resettled d old).now) = true
      ↔ ∃ b, (DetRun.limited s.now old s.work.dets[d] s.dets[d]).quietStart = some b
          ∧ b + 3600000 * s.work.dets[d].quiet ≤ s.now) := by
  obtain ⟨sensed, -⟩ := s.resettled_spec d old
  obtain ⟨-, work, -⟩ := sensed.frame
  obtain ⟨own, -⟩ := sensed.dets
  unfold State.stuckDue State.quietDue
  rw [sensed.now, work, own]
  exact ⟨limitStart_due, limitStart_due⟩

section
variable {d : Det} {old : DetCfg}

theorem State.applyDetector_toStuck (k : s.work.dets[d].kind ≠ .disabled) (o : old.kind ≠ .disabled)
    (h : s.StuckPassed d old) :
    s.applyDetector d old = (s.resettled d old).enterStuck d := by
  obtain ⟨active, passed⟩ := h
  obtain ⟨due, -⟩ := s.resettled_due d old
  rw [State.applyDetector_kept k o]
  dsimp only
  rw [active, due.mpr passed]
  rfl

theorem State.applyDetector_toQuiet (k : s.work.dets[d].kind ≠ .disabled) (o : old.kind ≠ .disabled)
    (h : s.QuietPassed d old) :
    s.applyDetector d old = (s.resettled d old).enterQuiet d := by
  obtain ⟨clear, passed⟩ := h
  obtain ⟨-, due⟩ := s.resettled_due d old
  rw [State.applyDetector_kept k o]
  dsimp only
  rw [clear]
  exact if_pos (due.mpr passed)

theorem State.applyDetector_stays (k : s.work.dets[d].kind ≠ .disabled) (o : old.kind ≠ .disabled)
    (h : ¬ s.StuckPassed d old)
    (q : ¬ s.QuietPassed d old) :
    s.applyDetector d old = s.resettled d old := by
  obtain ⟨stuckDue, quietDue⟩ := s.resettled_due d old
  have notStuck : ¬ ((decide ((s.dets[d]).state = .active)
      && ((s.resettled d old).stuckDue d).any (· ≤ (s.resettled d old).now)) = true) := fun e => by
    obtain ⟨active, due⟩ := Bool.and_eq_true_iff.mp e
    exact h ⟨of_decide_eq_true active, stuckDue.mp due⟩
  have notQuiet : ¬ ((decide ((s.dets[d]).state = .clear)
      && ((s.resettled d old).quietDue d).any (· ≤ (s.resettled d old).now)) = true) := fun e => by
    obtain ⟨clear, due⟩ := Bool.and_eq_true_iff.mp e
    exact q ⟨of_decide_eq_true clear, quietDue.mp due⟩
  rw [State.applyDetector_kept k o]
  dsimp only
  rw [if_neg notStuck, if_neg notQuiet]

/-! ### What becomes of a detector still enabled (R81, R82, R84) -/

/-- An entry to STUCK or QUIET after the rest of the change: what it demands covers what new demands had forced. -/
theorem State.resettled_called {f : DetRun → DetRun} (entered : Sensed ((s.resettled d old).updDet d f) t)
    (demands : ∀ st : Fin 16, t.engine.demands[st] = true ↔ ((s.resettled d old).engine.demands[st] = true
      ∨ ((s.resettled d old).work.dets[d].demands[st] = true ∧ (s.resettled d old).engine.inForce ≠ st.val + 1))) :
    Sensed (s.updDet d fun r => f (DetRun.limited s.now old s.work.dets[d] r)) t
    ∧ ∀ st : Fin 16, t.engine.demands[st] = true
        ↔ (s.engine.demands[st] = true ∨ (s.work.dets[d].demands[st] = true ∧ s.engine.inForce ≠ st.val + 1)) := by
  obtain ⟨sensed, -, forced, -⟩ := s.resettled_spec d old
  obtain ⟨-, work, -⟩ := sensed.frame
  have inForce : (s.resettled d old).engine.inForce = s.engine.inForce := sensed.inForce
  have changed := (sensed.updDet d f).trans entered
  rw [State.updDet_updDet] at changed
  refine ⟨changed, fun st => ?_⟩
  rw [demands, work, inForce, forced]
  tauto

/-- A stage judged stays so as a detector enters STUCK: its own extend stage is judged again, no other counts it (R79, R81). -/
theorem State.enterStuck_judged {st : Fin 16} (h : s.Judged st) : (s.enterStuck d).Judged st := by
  obtain ⟨observed, -, occupied, -⟩ := Sensed.observe
    (s.updDet d fun r => { r with state := .stuck, stuckStart := none }) (k := ⟨.detector d, .detectorStuck⟩) rfl le_rfl
  obtain ⟨-, work, -⟩ := observed.frame
  obtain ⟨-, others⟩ := observed.dets
  unfold State.enterStuck
  dsimp only
  refine State.judgeExtend_judged _ (Classical.or_iff_not_imp_left.mpr fun elsewhere => ?_)
  refine (Demanded.enterDemands _ _).judged (h.congr occupied work fun x _ e => ?_)
  have other : x ≠ d := fun same => elsewhere (same ▸ e)
  rw [others x other]

/-- Neither before nor after its entry to QUIET does a detector extend a stage (R82). -/
theorem State.enterQuiet_judged {st : Fin 16} (h : s.Judged st) (clear : (s.dets[d]).state = .clear) :
    (s.enterQuiet d).Judged st := by
  obtain ⟨entered, occupied, -⟩ := s.enterQuiet_spec d
  obtain ⟨-, work, -⟩ := entered.frame
  obtain ⟨own, others⟩ := entered.dets
  refine h.congr occupied work fun x _ _ => ?_
  by_cases same : x = d
  · rw [same, own, clear]
    exact ⟨fun e => (nomatch e), fun e => (nomatch e)⟩
  · rw [others x same]

theorem State.applyDetector_toStuck_spec (k : s.work.dets[d].kind ≠ .disabled) (o : old.kind ≠ .disabled)
    (h : s.StuckPassed d old) :
    Sensed (s.updDet d fun r => { DetRun.limited s.now old s.work.dets[d] r with state := .stuck, stuckStart := none })
      (s.applyDetector d old)
    ∧ (⟨.detector d, .detectorStuck⟩ : Cond) ∈ (s.applyDetector d old).faults.confirmed
    ∧ (∀ st : Fin 16, (s.applyDetector d old).engine.demands[st] = true
        ↔ (s.engine.demands[st] = true ∨ (s.work.dets[d].demands[st] = true ∧ s.engine.inForce ≠ st.val + 1)))
    ∧ ∀ st : Fin 16, (old.extend = some st ∨ s.work.dets[d].extend = some st) → (s.applyDetector d old).Judged st := by
  obtain ⟨-, -, -, judged⟩ := s.resettled_spec d old
  obtain ⟨entered, confirmed, demands⟩ := (s.resettled d old).enterStuck_spec d
  obtain ⟨sensed, called⟩ := State.resettled_called entered demands
  rw [State.applyDetector_toStuck k o h]
  exact ⟨sensed, confirmed, called, fun st e => State.enterStuck_judged (judged st e)⟩

theorem State.applyDetector_toQuiet_spec (k : s.work.dets[d].kind ≠ .disabled) (o : old.kind ≠ .disabled)
    (h : s.QuietPassed d old) :
    Sensed (s.updDet d fun r => { DetRun.limited s.now old s.work.dets[d] r with state := .quiet, quietStart := none })
      (s.applyDetector d old)
    ∧ (⟨.detector d, .detectorQuiet⟩ : Cond) ∈ (s.applyDetector d old).faults.confirmed
    ∧ (∀ st : Fin 16, (s.applyDetector d old).engine.demands[st] = true
        ↔ (s.engine.demands[st] = true ∨ (s.work.dets[d].demands[st] = true ∧ s.engine.inForce ≠ st.val + 1)))
    ∧ ∀ st : Fin 16, (old.extend = some st ∨ s.work.dets[d].extend = some st) → (s.applyDetector d old).Judged st := by
  obtain ⟨settled, -, -, judged⟩ := s.resettled_spec d old
  obtain ⟨own, -⟩ := settled.dets
  obtain ⟨entered, -, confirmed, demands⟩ := (s.resettled d old).enterQuiet_spec d
  obtain ⟨sensed, called⟩ := State.resettled_called entered demands
  rw [State.applyDetector_toQuiet k o h]
  obtain ⟨clear, -⟩ := h
  have clear : ((s.resettled d old).dets[d]).state = .clear := (congrArg DetRun.state own).trans clear
  exact ⟨sensed, confirmed, called, fun st e => State.enterQuiet_judged (judged st e) clear⟩

/-- The demands of a detector still enabled are forced by its entry to STUCK or QUIET, or by a fault it is in (R84). -/
theorem State.applyDetector_demands (k : s.work.dets[d].kind ≠ .disabled) (o : old.kind ≠ .disabled) (st : Fin 16) :
    (s.applyDetector d old).engine.demands[st] = true ↔ (s.engine.demands[st] = true
      ∨ (s.work.dets[d].demands[st] = true ∧ s.engine.inForce ≠ st.val + 1
        ∧ (s.StuckPassed d old
          ∨ s.QuietPassed d old
          ∨ s.Recalled d old))) := by
  by_cases stuck : s.StuckPassed d old
  · obtain ⟨-, -, demands, -⟩ := State.applyDetector_toStuck_spec k o stuck
    simpa only [stuck, true_or, and_true] using demands st
  · by_cases quiet : s.QuietPassed d old
    · obtain ⟨-, -, demands, -⟩ := State.applyDetector_toQuiet_spec k o quiet
      simpa only [quiet, true_or, or_true, and_true] using demands st
    · obtain ⟨-, -, demands, -⟩ := s.resettled_spec d old
      rw [State.applyDetector_stays k o stuck quiet]
      simpa only [stuck, quiet, false_or] using demands st

/-- The extend stages, the old one and the new one, are judged by the states the detectors are left in (R79, R84). -/
theorem State.applyDetector_judged (k : s.work.dets[d].kind ≠ .disabled) (o : old.kind ≠ .disabled) {st : Fin 16}
    (e : old.extend = some st ∨ s.work.dets[d].extend = some st) : (s.applyDetector d old).Judged st := by
  by_cases stuck : s.StuckPassed d old
  · obtain ⟨-, -, -, judged⟩ := State.applyDetector_toStuck_spec k o stuck
    exact judged st e
  · by_cases quiet : s.QuietPassed d old
    · obtain ⟨-, -, -, judged⟩ := State.applyDetector_toQuiet_spec k o quiet
      exact judged st e
    · obtain ⟨-, -, -, judged⟩ := s.resettled_spec d old
      rw [State.applyDetector_stays k o stuck quiet]
      exact judged st e

/-- The settings and the records of the other detectors stand, whatever becomes of the detector. -/
theorem State.applyDetector_frame (s : State) (d : Det) (old : DetCfg) : (s.applyDetector d old).work = s.work
    ∧ (s.applyDetector d old).edit = s.edit ∧ ∀ x : Det, x ≠ d → (s.applyDetector d old).dets[x] = s.dets[x] := by
  have frame : ∀ {f : DetRun → DetRun} {u : State}, Sensed (s.updDet d f) u →
      u.work = s.work ∧ u.edit = s.edit ∧ ∀ x : Det, x ≠ d → u.dets[x] = s.dets[x] := fun sensed => by
    obtain ⟨-, work, edit, -⟩ := sensed.frame
    obtain ⟨-, others⟩ := sensed.dets
    exact ⟨work, edit, others⟩
  by_cases k : s.work.dets[d].kind = .disabled
  · obtain ⟨sensed, -⟩ := State.applyDetector_disabled_spec old k
    exact frame sensed
  by_cases o : old.kind = .disabled
  · obtain ⟨changed, others, -⟩ := State.applyDetector_enabling_spec k o
    exact ⟨(congrArg State.work changed).trans rfl, (congrArg State.edit changed).trans rfl, others⟩
  by_cases stuck : s.StuckPassed d old
  · obtain ⟨sensed, -⟩ := State.applyDetector_toStuck_spec k o stuck
    exact frame sensed
  by_cases quiet : s.QuietPassed d old
  · obtain ⟨sensed, -⟩ := State.applyDetector_toQuiet_spec k o quiet
    exact frame sensed
  · obtain ⟨sensed, -⟩ := s.resettled_spec d old
    rw [State.applyDetector_stays k o stuck quiet]
    exact frame sensed

end

/-- Settles O25: the request by its checks, and the detector by what it was and what it now is. -/
theorem setDetector : Obligations.SetDetector := by
  intro tag s d f takes
  refine ⟨fun i k e number kind short range extend => ?_, fun i old => ?_, fun out => ?_⟩
  · obtain ⟨l, demands, members⟩ := stageSetOf_some range
    have checked := checkDetector_some kind short demands (extend ▸ checkExtend_succ e)
    exact ⟨_, rfl, rfl, rfl, rfl, rfl, members,
      State.arrive_answer takes (.setDetector tag d f) (State.doSetDetector_some number checked)⟩
  · obtain ⟨work, edit, others⟩ := s.applyDetector_frame i old
    refine ⟨work, edit, others, fun k => ?_, fun k o => ?_, fun k o => ⟨fun stuck => ?_, fun quiet => ?_,
      fun notStuck notQuiet => ?_, State.applyDetector_demands k o, fun st e => ?_⟩⟩
    · obtain ⟨sensed, demands, stuck, quiet, judged⟩ := State.applyDetector_disabled_spec old k
      obtain ⟨own, -⟩ := sensed.dets
      exact ⟨own, demands, stuck, quiet, fun st e => (judged st e).iff work⟩
    · obtain ⟨changed, -, own⟩ := State.applyDetector_enabling_spec k o
      exact ⟨changed, own⟩
    · obtain ⟨sensed, confirmed, -⟩ := State.applyDetector_toStuck_spec k o stuck
      obtain ⟨own, -⟩ := sensed.dets
      exact ⟨own, confirmed⟩
    · obtain ⟨sensed, confirmed, -⟩ := State.applyDetector_toQuiet_spec k o quiet
      obtain ⟨own, -⟩ := sensed.dets
      exact ⟨own, confirmed⟩
    · obtain ⟨sensed, faults, -⟩ := s.resettled_spec i old
      obtain ⟨own, -⟩ := sensed.dets
      rw [State.applyDetector_stays k o notStuck notQuiet]
      exact ⟨own, faults⟩
    · exact (State.applyDetector_judged k o e).iff work
  · have refused : (d < 1 ∨ 32 < d) ∨ checkDetector f = none := by
      rcases out with low | high | fields
      · exact .inl (.inl low)
      · exact .inl (.inr high)
      · exact .inr (checkDetector_none fields)
    exact State.arrive_answer takes (.setDetector tag d f) (State.doSetDetector_refused refused)

end Sys2Proof.Machine

/-! SUPPORT. SET_CHANNEL (R87, R117), and O21. -/

namespace Sys2Proof.Machine

variable {s : State}

theorem checkLimits_some {op rel : Nat} (h : 10 ≤ op ∧ op ≤ 200 ∧ 10 ≤ rel ∧ rel ≤ 200) :
    checkLimits op rel = some ⟨op, rel⟩ := by
  obtain ⟨o1, o2, r1, r2⟩ := h
  unfold checkLimits
  rw [if_pos (by rw [within_iff.mpr ⟨o1, o2⟩, within_iff.mpr ⟨r1, r2⟩]; rfl)]

/-- The record item by item: reference and learned mark stand where neither lamp type nor nominal current differs (R117). -/
theorem ChannelCfg.written_eq (old : ChannelCfg) (lamp : LampType) (nominal : Nat) (l : Limits) :
    old.written lamp nominal l =
      { lamp := lamp, nominal := nominal
        iref := if lamp = old.lamp ∧ nominal = old.nominal then old.iref else nominal
        learned := if lamp = old.lamp ∧ nominal = old.nominal then old.learned else false
        leak := old.leak, limits := l } := by
  unfold ChannelCfg.written
  split
  · next keep =>
    obtain ⟨rfl, rfl⟩ := keep
    rfl
  · rfl

theorem checkChannel_some {f : ChannelFields} {lamp : LampType} {old : ChannelCfg} (h : f.lamp = some lamp)
    (nominal : 20 ≤ f.nominal ∧ f.nominal ≤ 3000)
    (limits : 10 ≤ f.operateLimit ∧ f.operateLimit ≤ 200 ∧ 10 ≤ f.releaseLimit ∧ f.releaseLimit ≤ 200) :
    checkChannel f old = some (old.written lamp f.nominal ⟨f.operateLimit, f.releaseLimit⟩) := by
  unfold checkChannel
  rw [h, checkLimits_some limits]
  dsimp only
  rw [if_pos (within_iff.mpr nominal)]

/-- Settles O21: a record in its ranges is written to the edit copy, and one out of them is refused by its checks (O22). -/
theorem setChannel : Obligations.SetChannel := by
  intro tag s takes
  refine ⟨fun c f lamp ed hl n1 n2 o1 o2 r1 r2 => ?_, fun c f out => (editRefused _ s rfl takes).1 ?_,
    fun r op rel ed o1 o2 r1 r2 => ?_, fun r op rel out => (editRefused _ s rfl takes).1 ?_⟩
  · have checked : ((index? 48 (c.val + 1)).bind fun i => (checkChannel f s.edit.channels[i]).map fun x => (i, x))
        = some (c, (s.edit.channels[c]).written lamp f.nominal ⟨f.operateLimit, f.releaseLimit⟩) := by
      rw [index?_succ, Option.bind_some, checkChannel_some hl ⟨n1, n2⟩ ⟨o1, o2, r1, r2⟩]
      rfl
    have written := State.arrive_edits (act := State.doSetChannel (c.val + 1) f) (.setChannel tag (c.val + 1) f) takes ed
      checked rfl
    rw [ChannelCfg.written_eq] at written
    exact congrArg Host.Outcome.next written
  · rintro ⟨c1, c2, l, n1, n2, o1, o2, r1, r2⟩
    rcases out with h | h | h | h
    · omega
    · omega
    · exact l h
    · omega
  · have written := State.arrive_edits (act := State.doSetChannelSupply r op rel) (.setChannelSupply tag r op rel) takes ed
      (checkLimits_some ⟨o1, o2, r1, r2⟩) rfl
    cases r with
    | smc => exact congrArg Host.Outcome.next written
    | ftr => exact congrArg Host.Outcome.next written
  · rintro ⟨o1, o2, r1, r2⟩
    omega

end Sys2Proof.Machine

/-! SUPPORT. What reports, the lamp prover and the surveyor leave of the relays and of one another (spec/05, spec/07, spec/08). -/

namespace Sys2Proof.Machine

variable {s t u : State} {c : Chan}

/-! ### The relays and the flash bus -/

/-- The load relays, the supply relays and the flash bus are as they were. -/
structure Gear (s t : State) : Prop where
  relays   : t.relays = s.relays := by rfl
  smc      : t.smc = s.smc := by rfl
  ftr      : t.ftr = s.ftr := by rfl
  flashBus : t.flashBus = s.flashBus := by rfl

theorem Gear.refl (s : State) : Gear s s := {}

theorem Gear.trans (h : Gear s t) (k : Gear t u) : Gear s u where
  relays := k.relays.trans h.relays
  smc := k.smc.trans h.smc
  ftr := k.ftr.trans h.ftr
  flashBus := k.flashBus.trans h.flashBus

/-- One more operation after what has been done so far. -/
theorem Gear.of (k : Gear t u) (h : Gear s t) : Gear s u := h.trans k

theorem Gear.ite {p : Prop} [Decidable p] (h : Gear s t) (k : Gear s u) : Gear s (if p then t else u) := by
  split <;> assumption

/-! ### Reports (Section 9.1) -/

/-- Besides, the lamp prover, the measurement queue and the surveyor are as they were: what a report leaves alone. -/
structure Told (s t : State) : Prop extends Gear s t where
  lamps  : t.lamps = s.lamps := by rfl
  meas   : t.meas = s.meas := by rfl
  survey : t.survey = s.survey := by rfl
  cores  : t.cores = s.cores := by rfl

theorem Told.refl (s : State) : Told s s := {}

theorem Told.trans (h : Told s t) (k : Told t u) : Told s u where
  toGear := h.toGear.trans k.toGear
  lamps := k.lamps.trans h.lamps
  meas := k.meas.trans h.meas
  survey := k.survey.trans h.survey
  cores := k.cores.trans h.cores

theorem Told.of (k : Told t u) (h : Told s t) : Told s u := h.trans k

theorem Told.ite {p : Prop} [Decidable p] (h : Told s t) (k : Told s u) : Told s (if p then t else u) := by
  split <;> assumption

theorem Told.each {α : Type} {f : α → State → State} {l : List α} (h : ∀ a ∈ l, ∀ t, Told t (f a t)) (s : State) :
    Told s (s.each l f) :=
  State.each_induct (P := Told s) l s (.refl s) fun a m t k => k.trans (h a m t)

theorem FaultsOnly.told (h : FaultsOnly s t) : Told s t := by
  unfold FaultsOnly at h
  rw [h]
  exact {}

theorem Told.inhibit (s : State) (g : Group) (f : GroupRun → GroupRun) : Told s (s.inhibit g f) := by
  obtain ⟨e, q⟩ := s.inhibit_eq g f
  rw [q]
  exact {}

theorem Told.reformAll (s : State) : Told s s.reformAll := by
  have reform : ∀ (g : Group) (t : State), Told t (t.reform g) := fun g t => by
    have held : ∀ f, Told t (State.setHold { t with faults := f } g
        (decide ((t.work.respOf (t.patternOf g)).response = .holdGroup))) := fun f => .of (.inhibit _ g _) {}
    unfold State.reform
    exact .ite (.refl t) (.ite (.trans (held _) {}) (held _))
  have active : ∀ t : State, Told t t.judgeResponseActive := fun t => by
    unfold State.judgeResponseActive
    generalize t.faults.responses.toList.any junctionLevel = b
    exact {}
  exact .of (active _) (.each (fun g _ t => reform g t) s)

/-- A condition whose source is no core. -/
def Cond.offCore (k : Cond) : Prop := ∀ c, k.source ≠ .core c

theorem Told.concerned (s : State) {k : Cond} (h : k.offCore) : Told s (s.concerned k) := by
  have level : Told s (match k.source with
      | .core c => if k.kind.insulation then
          s.updCore c fun r => { r with hist := { r.hist with level := s.levelOf c } } else s
      | _ => s) := by
    split
    · next c e => exact (h c e).elim
    · exact .refl s
  have pattern : ∀ t : State, Told t (if k.kind.flagged then t.reformAll else t) :=
    fun t => .ite (.reformAll t) (.refl t)
  have red : ∀ t : State, Told t (if k.kind = .redOut then t.judgeConflictRedOut else t) :=
    fun t => .ite (.each (fun g _ u => .inhibit u g _) t) (.refl t)
  exact .of (red _) <| .of (pattern _) level

theorem Told.confirm (s : State) {k : Cond} (h : k.offCore) (tag : ConfTag) : Told s (s.confirm k tag) := by
  have entered : ∀ t : State, Told t (t.enterAlarm k tag) := fun t => (FaultsOnly.enterAlarm t k tag).told
  unfold State.confirm
  exact .ite (.of (entered _) {}) (.of (.concerned _ h) <| .of (entered _) {})

theorem Told.endCond (s : State) {k : Cond} (h : k.offCore) : Told s (s.endCond k) := by
  have dropped : Told s (s.dropCond k) := by
    have cleared : ∀ t : State, Told t (t.clearAlarm k) := fun t => .of (FaultsOnly.notify _ _).told {}
    unfold State.dropCond
    exact .ite (.of (cleared _) {}) {}
  unfold State.endCond
  exact .ite (.of (.concerned _ h) dropped) dropped

theorem Told.pass (s : State) (k : Cond) : Told s (s.pass k) := {}

/-- An observation leaves the state, writes a suspicion, or confirms its condition (R155 to R158). -/
theorem State.observe_cases (s : State) (k : Cond) :
    (s.observe k = s ∧ (k ∈ s.faults.confirmed ∨ ∃ r ∈ s.faults.suspicions, r.key = k))
      ∨ (∃ l, s.observe k = { s with faults := { s.faults with suspicions := l } } ∧ ∃ r ∈ l, r.key = k)
      ∨ ∃ tag, s.observe k = s.confirm k tag := by
  have rewritten : ∀ {r : Suspicion} (x : Suspicion), s.faults.suspicions.find? (·.key = k) = some r → x.key = r.key →
      ∃ l, s.setSuspicion x = { s with faults := { s.faults with suspicions := l } } ∧ ∃ r ∈ l, r.key = k := by
    intro r x found same
    have key : r.key = k := by simpa using List.find?_some found
    refine ⟨_, rfl, x, List.mem_map.mpr ⟨r, List.mem_of_find?_eq_some found, if_pos same.symm⟩, same.trans key⟩
  unfold State.observe
  dsimp only
  split
  · exact .inr (.inr ⟨_, rfl⟩)
  · split
    · next c => exact .inl ⟨rfl, .inl (State.isConfirmed_iff.mp c)⟩
    · split
      · split
        · exact .inr (.inl ⟨_, rfl, _, List.mem_append_right _ (List.mem_singleton.mpr rfl), rfl⟩)
        · exact .inr (.inr ⟨_, rfl⟩)
      · next r found =>
        have key : r.key = k := by simpa using List.find?_some found
        generalize (if r.level = 1 then min 8 (r.count + 1) else 1) = n
        split
        · split
          · exact .inr (.inr ⟨_, rfl⟩)
          · exact .inr (.inl (rewritten _ found rfl))
        · split
          · split
            · exact .inl ⟨rfl, .inr ⟨r, List.mem_of_find?_eq_some found, key⟩⟩
            · exact .inr (.inr ⟨_, rfl⟩)
          · split
            · exact .inr (.inl (rewritten _ found rfl))
            · exact .inr (.inl (rewritten _ found rfl))

theorem Told.observe (s : State) {k : Cond} (h : k.offCore) : Told s (s.observe k) := by
  rcases s.observe_cases k with ⟨e, -⟩ | ⟨l, e, -⟩ | ⟨tag, e⟩ <;> rw [e]
  · exact .refl s
  · exact {}
  · exact .confirm s h tag

/-- What is confirmed before an observation is confirmed after it. -/
theorem State.observe_mono (s : State) (k : Cond) {x : Cond} (m : x ∈ s.faults.confirmed) :
    x ∈ (s.observe k).faults.confirmed := by
  rcases s.observe_cases k with ⟨e, -⟩ | ⟨l, e, -⟩ | ⟨tag, e⟩ <;> rw [e]
  · exact m
  · exact m
  · exact State.mem_confirm.mpr (.inl m)

/-- A condition observed is confirmed, or under suspicion. -/
theorem State.observe_known (s : State) (k : Cond) :
    k ∈ (s.observe k).faults.confirmed ∨ ∃ r ∈ (s.observe k).faults.suspicions, r.key = k := by
  rcases s.observe_cases k with ⟨e, known⟩ | ⟨l, e, known⟩ | ⟨tag, e⟩ <;> rw [e]
  · exact known
  · exact .inr known
  · exact .inl (State.mem_confirm.mpr (.inr rfl))

/-- An observation of a kind that a single one confirms (R155, R156). -/
theorem State.mem_observe {k x : Cond} (h : k.cls ≤ 1) :
    x ∈ (s.observe k).faults.confirmed ↔ x ∈ s.faults.confirmed ∨ x = k := by
  rw [State.observe_confirm h]
  exact State.mem_confirm

theorem State.observe_confirmed (s : State) {k : Cond} (h : k.cls ≤ 1) : k ∈ (s.observe k).faults.confirmed :=
  (State.mem_observe h).mpr (.inr rfl)

/-- A report of a plain kind that a single observation confirms touches the fault confirmation unit and the link alone. -/
theorem FaultsOnly.observeOnce (s : State) {k : Cond} (h : k.cls ≤ 1) (p : k.kind.plain = true) :
    FaultsOnly s (s.observe k) := by
  rw [State.observe_confirm h]
  exact .confirm s k _ p

end Sys2Proof.Machine

/-! SUPPORT. The lit and dark periods of a channel (R120 to R123, R128): what they make of its proving record, and what they leave alone. -/

namespace Sys2Proof.Machine

variable {s t u : State} {c : Chan}

/-! ### What the lamp prover leaves alone -/

/-- The relays and the surveyor are as they were, and what is confirmed stays so but for the lit kinds of a channel. -/
structure Proving (c : Chan) (s t : State) : Prop extends Gear s t where
  survey    : t.survey = s.survey := by rfl
  cores     : t.cores = s.cores := by rfl
  confirmed : ∀ k, k ∉ litKinds c → k ∈ s.faults.confirmed → k ∈ t.faults.confirmed := by exact fun _ _ => id

theorem Proving.refl (c : Chan) (s : State) : Proving c s s := {}

theorem Proving.trans (h : Proving c s t) (k : Proving c t u) : Proving c s u where
  toGear := h.toGear.trans k.toGear
  survey := k.survey.trans h.survey
  cores := k.cores.trans h.cores
  confirmed := fun x n => k.confirmed x n ∘ h.confirmed x n

theorem Proving.of (k : Proving c t u) (h : Proving c s t) : Proving c s u := h.trans k

theorem Proving.ite {p : Prop} [Decidable p] (h : Proving c s t) (k : Proving c s u) :
    Proving c s (if p then t else u) := by
  split <;> assumption

theorem Proving.each {α : Type} {f : α → State → State} {l : List α} (h : ∀ a ∈ l, ∀ t, Proving c t (f a t)) (s : State) :
    Proving c s (s.each l f) :=
  State.each_induct (P := Proving c s) l s (.refl c s) fun a m t k => k.trans (h a m t)

theorem Told.proving (h : Told s t) (k : ∀ k, k ∉ litKinds c → k ∈ s.faults.confirmed → k ∈ t.faults.confirmed) :
    Proving c s t where
  toGear := h.toGear
  survey := h.survey
  cores := h.cores
  confirmed := k

theorem Told.lamp (h : Told s t) (c : Chan) : t.lamps[c] = s.lamps[c] :=
  congrArg (fun v : Vector LampRun 48 => v[c]) h.lamps

theorem litKinds_offCore {k : Cond} (m : k ∈ litKinds c) : k.offCore := by
  unfold litKinds at m
  split at m <;>
  · simp only [List.mem_cons, List.not_mem_nil, or_false] at m
    rcases m with rfl | rfl | rfl <;> exact nofun

theorem bandKind_offCore {b : Band} {k : Cond} (h : bandKind c b = some k) : k.offCore := by
  cases b <;> cases h <;> exact nofun

theorem Proving.observe (s : State) {k : Cond} (h : k.offCore) : Proving c s (s.observe k) :=
  (Told.observe s h).proving fun _ _ => s.observe_mono k

theorem Proving.endCond (s : State) {k : Cond} (h : k ∈ litKinds c) : Proving c s (s.endCond k) :=
  (Told.endCond s (litKinds_offCore h)).proving fun _ n m => State.mem_endCond.mpr ⟨m, fun e => n (e ▸ h)⟩

theorem Proving.pass (s : State) (k : Cond) : Proving c s (s.pass k) := {}

theorem Told.endJob (s : State) (k : JobKind) (r : JobResult) (items : JobItems) : Told s (s.endJob k r items) :=
  (FaultsOnly.endJob s k r items).told

theorem Proving.updLamp (s : State) (f : LampRun → LampRun) : Proving c s (s.updLamp c f) := {}

theorem Proving.litStart (s : State) : Proving c s (s.litStart c) := {}

/-! ### Judgement (R126, R127) -/

theorem Proving.litJudge (s : State) (n : Nat) (oc : Bool) : Proving c s (s.litJudge c n oc) := by
  have passed : ∀ (l : List Cond) (t : State), Proving c t (t.each l fun k u => u.pass k) :=
    fun l => .each fun k _ u => .pass u k
  have reported : ∀ b, Proving c s (s.reportBand c b) := fun b => by
    unfold State.reportBand
    split
    · exact passed _ s
    · next k e => exact .ite (.observe s (bandKind_offCore e)) (.of (.observe _ (bandKind_offCore e)) (passed _ s))
  have cleared : ∀ b t, Proving c t (t.litClearing c b) := fun b t => by
    unfold State.litClearing
    exact .ite (.ite (.ite (.trans {} (.each (fun k m u => .endCond u m) _)) {}) {}) {}
  exact .of (cleared _ _) (reported _)

/-- The lit clearing count is what a judgement makes of a proving record; outside its band it is 0 (R127). -/
theorem State.litClearing_lamp (s : State) (c : Chan) (b : Band) : ∃ n r,
    (s.litClearing c b).lamps[c] = { s.lamps[c] with litCount := n, litReached := r } ∧ (b ≠ .inBand → n = 0) := by
  have ends : ∀ t : State, (t.each (litKinds c) fun k u => u.endCond k).lamps[c] = t.lamps[c] :=
    fun t => (Told.each (fun k m u => .endCond u (litKinds_offCore m)) t).lamp c
  unfold State.litClearing
  dsimp only
  split
  · next i =>
    split
    · split
      · exact ⟨_, _, (ends _).trans (upd_same _ _ _), fun n => (n i).elim⟩
      · exact ⟨_, _, upd_same _ _ _, fun n => (n i).elim⟩
    · exact ⟨_, _, upd_same _ _ _, fun n => (n i).elim⟩
  · exact ⟨_, _, upd_same _ _ _, fun _ => rfl⟩

theorem State.reportBand_lamps (s : State) (c : Chan) (b : Band) : (s.reportBand c b).lamps = s.lamps := by
  have passed : ∀ (l : List Cond) (t : State), Told t (t.each l fun k u => u.pass k) :=
    fun l => .each fun k _ u => .pass u k
  unfold State.reportBand
  split
  · exact (passed _ s).lamps
  · next k e => exact (Told.ite (.observe s (bandKind_offCore e)) (.of (.observe _ (bandKind_offCore e)) (passed _ s))).lamps

/-- A band outside the in-band one leaves its condition confirmed or under suspicion (R126). -/
theorem State.litJudge_known (s : State) {n : Nat} {oc : Bool} {b : Band} {k : Cond}
    (band : bandOf (decide ((colourOf c).val = 0)) oc n (s.work.lampCount c) s.work.groups[groupOf c].rmin = b)
    (out : b ≠ .inBand) (kind : bandKind c b = some k) :
    k ∈ (s.litJudge c n oc).faults.confirmed ∨ ∃ r ∈ (s.litJudge c n oc).faults.suspicions, r.key = k := by
  have cleared : ∀ t : State, (t.litClearing c b).faults = t.faults := fun t => by
    unfold State.litClearing
    rw [if_neg out]
    rfl
  unfold State.litJudge
  dsimp only
  rw [band, cleared]
  unfold State.reportBand
  rw [kind]
  dsimp only
  split
  · exact s.observe_known k
  · exact State.observe_known _ k

/-! ### Periods (R120 to R123, R128) -/

theorem Proving.endDark (s : State) : Proving c s (s.endDark c) := {}

theorem State.learnPeriodEnd_faults (s : State) (c : Chan) : (s.learnPeriodEnd c).faults = s.faults := by
  have checked : ∀ t : State, t.learnCheck.faults = t.faults := fun t => by
    unfold State.learnCheck
    split
    · rfl
    · exact State.endJob_faults _ _ _ _
  unfold State.learnPeriodEnd
  dsimp only
  split
  · split
    · exact checked _
    · rfl
  · rfl

theorem Told.learnCheck (s : State) : Told s s.learnCheck := .ite (.refl s) (.endJob s _ _ _)

theorem Proving.learnPeriodEnd (s : State) : Proving c s (s.learnPeriodEnd c) where
  toGear := by
    unfold State.learnPeriodEnd
    exact .ite (.ite (.trans {} (Told.learnCheck _).toGear) {}) {}
  survey := by
    unfold State.learnPeriodEnd
    dsimp only
    split
    · split
      · exact (Told.learnCheck _).survey
      · rfl
    · rfl
  cores := by
    unfold State.learnPeriodEnd
    dsimp only
    split
    · split
      · exact (Told.learnCheck _).cores
      · rfl
    · rfl
  confirmed := fun k _ m => by
    rw [s.learnPeriodEnd_faults]
    exact m

theorem Proving.endLit (s : State) : Proving c s (s.endLit c) := by
  unfold State.endLit
  exact .ite (.of (.learnPeriodEnd _) {}) (.refl c s)

theorem Proving.endFailed (s : State) : Proving c s (s.endFailed c) := by
  unfold State.endFailed
  exact .ite {} (.refl c s)

theorem Proving.failedJudge (s : State) : Proving c s (s.failedJudge c) := .of (.litJudge _ _ _) {}

theorem Proving.beginFailed (s : State) : Proving c s (s.beginFailed c) := by
  have judged : Proving c s (((s.updLamp c fun l => { l with lit := .failed, addedInPeriod := false }).litStart
      c).failedJudge c) := .of (.failedJudge _) <| .of (.litStart _) <| .updLamp s _
  have timed : ∀ t : State, Proving c t (if t.commanded c then
      t.updLamp c fun l => { l with repeatTimer := some (t.now + 1000) } else t.endFailed c) :=
    fun t => .ite (.updLamp t _) (.endFailed t)
  exact .of (timed _) judged

theorem Proving.lampFailedOpen (s : State) : Proving c s (s.lampFailedOpen c) := by
  unfold State.lampFailedOpen
  exact .ite (.of (.beginFailed _) <| .of (.endLit _) <| .endDark s) (.refl c s)

theorem Proving.lampProvenOn (s : State) : Proving c s (s.lampProvenOn c) := by
  unfold State.lampProvenOn
  exact .ite (.of (.litStart _) <| .of (.updLamp _ _) <| .endDark s) (.refl c s)

theorem Proving.lampProvenOff (s : State) : Proving c s (s.lampProvenOff c) := by
  unfold State.lampProvenOff
  exact .ite {} (.refl c s)

theorem Proving.lampLeftReleased (s : State) : Proving c s (s.lampLeftReleased c) := by
  unfold State.lampLeftReleased
  exact .ite (.of (.endFailed _) <| .endDark s) (.refl c s)

/-! ### A lit period begins and ends (R120, R122) -/

theorem State.endDark_lamp (s : State) (c : Chan) :
    (s.endDark c).lamps[c] = { s.lamps[c] with dark := none, flashDiscard := false } := upd_same _ _ _

/-- What a proven-on event makes of a used channel: its dark proving is over, and a lit period begins with its settle timer (R120). -/
theorem State.lampProvenOn_spec (h : s.work.used c = true) :
    (s.lampProvenOn c).lamps[c] = { s.lamps[c] with
      dark := none, flashDiscard := false, lit := .lit, addedInPeriod := false
      settle := some (s.now + lampSettle s.work.channels[c].lamp) }
    ∧ (s.lampProvenOn c).meas = (s.withdraw (.dark c)).meas
    ∧ (s.lampProvenOn c).faults = ((s.darkEnd c).litStart c).faults := by
  unfold State.lampProvenOn
  rw [if_pos h]
  refine ⟨?_, rfl, rfl⟩
  exact (upd_same _ _ _).trans (congrArg (fun l : LampRun => { l with
    lit := .lit, settle := some (s.now + lampSettle s.work.channels[c].lamp), addedInPeriod := false }) (s.endDark_lamp c))

/-- The proving record as a LIT period leaves it to LEARN (R122). -/
def LampRun.unlit (l : LampRun) : LampRun := { l with settle := none, repeatTimer := none, lit := .none }

/-- The proving record after the end of a period, for LEARN (R133): a period with a reading added is counted, and the eighth ends the learning. -/
def LampRun.periodOver (l : LampRun) : LampRun :=
  if l.learning = true ∧ l.addedInPeriod = true then
    if 7 ≤ l.learnPeriods then l.stopLearning else { l with learnPeriods := l.learnPeriods + 1, addedInPeriod := false }
  else { l with addedInPeriod := false }

theorem State.learnPeriodEnd_lamp (s : State) (c : Chan) : (s.learnPeriodEnd c).lamps[c] = (s.lamps[c]).periodOver := by
  unfold State.learnPeriodEnd LampRun.periodOver
  simp only [Bool.and_eq_true, Nat.reduceLeDiff]
  split
  · split
    · exact ((Told.learnCheck _).lamp c).trans (upd_same _ _ _)
    · exact upd_same _ _ _
  · exact upd_same _ _ _

theorem State.learnPeriodEnd_meas (s : State) (c : Chan) : (s.learnPeriodEnd c).meas = s.meas := by
  unfold State.learnPeriodEnd
  dsimp only
  split
  · split
    · exact (Told.learnCheck _).meas
    · rfl
  · rfl

/-- What the end of a LIT period does (R122). -/
theorem State.endLit_spec (h : (s.lamps[c]).lit = .lit) :
    (s.endLit c).lamps[c] = (s.lamps[c]).unlit.periodOver
    ∧ (s.endLit c).meas = (s.withdraw (.lit c)).meas
    ∧ (s.endLit c).faults = (s.litEnd c).faults := by
  unfold State.endLit
  rw [if_pos h]
  refine ⟨?_, ?_, ?_⟩
  · rw [State.learnPeriodEnd_lamp]
    exact congrArg LampRun.periodOver (upd_same _ _ _)
  · rw [State.learnPeriodEnd_meas]
    rfl
  · rw [State.learnPeriodEnd_faults]
    rfl

theorem LampRun.periodOver_frame (l : LampRun) : l.periodOver.dark = l.dark ∧ l.periodOver.settle = l.settle := by
  unfold LampRun.periodOver
  split
  · split <;> exact ⟨rfl, rfl⟩
  · exact ⟨rfl, rfl⟩

/-! ### A failed lit period (R123) -/

/-- With no lamp lit a red channel that must show one is a red out, and another channel is out (Table 7-2). -/
theorem bandOf_unlit_red {n rmin : Nat} (h : 0 < rmin) : bandOf true false 0 n rmin = .redOut := by
  simp [bandOf, h]

theorem bandOf_unlit_other {n rmin : Nat} : bandOf false false 0 n rmin = .out := by
  simp [bandOf]

/-- The judgement of a failed lit period writes the estimate, the last reading and the lit clearing count. -/
theorem State.failedJudge_lamp (s : State) (c : Chan) : ∃ n r, (s.failedJudge c).lamps[c]
      = { s.lamps[c] with lampsLit := 0, last := none, litCount := n, litReached := r }
    ∧ (((colourOf c).val = 0 → 0 < s.work.groups[groupOf c].rmin) → n = 0) := by
  unfold State.failedJudge State.litJudge
  obtain ⟨n, r, lamp, zero⟩ := State.litClearing_lamp
    ((s.updLamp c fun l => { l with lampsLit := 0, last := none }).reportBand c
      (bandOf (decide ((colourOf c).val = 0)) false 0 (s.work.lampCount c) s.work.groups[groupOf c].rmin)) c
    (bandOf (decide ((colourOf c).val = 0)) false 0 (s.work.lampCount c) s.work.groups[groupOf c].rmin)
  refine ⟨n, r, ?_, fun some => zero ?_⟩
  · refine lamp.trans ?_
    rw [State.reportBand_lamps]
    exact congrArg (fun l : LampRun => { l with litCount := n, litReached := r }) (upd_same _ _ _)
  · by_cases red : (colourOf c).val = 0
    · rw [decide_eq_true red, bandOf_unlit_red (some red)]
      exact nofun
    · rw [decide_eq_false red, bandOf_unlit_other]
      exact nofun

/-- Whether an aspect commands a relay is no matter of what leaves the aspects alone. -/
theorem Quiet.commanded (h : Quiet s t) (c : Chan) : t.commanded c = s.commanded c := by
  unfold State.commanded
  rw [h.calm.aspect]

/-- A failed lit period begins, is judged, and lasts while the aspect commands the relay (R123). -/
theorem State.beginFailed_lamp (s : State) (c : Chan) : ∃ n r, (s.beginFailed c).lamps[c] = { s.lamps[c] with
      lampsLit := 0, last := none, addedInPeriod := false, litCount := n, litReached := r
      lit := if s.commanded c = true then .failed else .none
      repeatTimer := if s.commanded c = true then some (s.now + 1000) else none }
    ∧ (((colourOf c).val = 0 → 0 < s.work.groups[groupOf c].rmin) → n = 0) := by
  have opened : ((s.updLamp c fun l => { l with lit := .failed, addedInPeriod := false }).litStart c).lamps[c]
      = { s.lamps[c] with lit := .failed, addedInPeriod := false } := upd_same _ _ _
  have begun : Quiet s ((s.updLamp c fun l => { l with lit := .failed, addedInPeriod := false }).litStart c) :=
    .of (.litStart _ c) <| .lamp s c _ fun _ => rfl
  unfold State.beginFailed
  dsimp only
  generalize (s.updLamp c fun l => { l with lit := .failed, addedInPeriod := false }).litStart c = t at opened begun ⊢
  obtain ⟨n, r, judged, zero⟩ := t.failedJudge_lamp c
  have quiet := begun.trans (.failedJudge t c)
  rw [begun.work] at zero
  rw [opened] at judged
  refine ⟨n, r, ?_, zero⟩
  generalize t.failedJudge c = v at judged quiet ⊢
  rw [quiet.commanded]
  by_cases commanded : s.commanded c = true
  · rw [if_pos commanded, if_pos commanded, if_pos commanded, ← quiet.now]
    exact (upd_same _ _ _).trans (congrArg (fun l : LampRun => { l with repeatTimer := some (v.now + 1000) }) judged)
  · rw [if_neg commanded, if_neg commanded, if_neg commanded]
    unfold State.endFailed
    rw [if_pos (congrArg LampRun.lit judged)]
    exact (upd_same _ _ _).trans (congrArg (fun l : LampRun => { l with repeatTimer := none, lit := .none }) judged)

/-- The end of a lit period keeps every suspicion's key. -/
theorem State.litEnd_known (s : State) (c : Chan) {k : Cond} (h : ∃ r ∈ s.faults.suspicions, r.key = k) :
    ∃ r ∈ (s.litEnd c).faults.suspicions, r.key = k := by
  obtain ⟨r, m, key⟩ := h
  refine ⟨_, List.mem_map_of_mem m, ?_⟩
  rw [← key]
  split
  · dsimp only
    split
    · rfl
    · split <;> rfl
  · rfl

/-- The condition a relay that fails open is reported on: RED_OUT of its group, or LAMP_OUT of the channel (R123, R126). -/
def failedKey (c : Chan) : Cond := if colourOf c = 0 then ⟨.group (groupOf c), .redOut⟩ else ⟨.channel c, .lampOut⟩

theorem State.beginFailed_known (s : State) (c : Chan) (h : (colourOf c).val = 0 → 0 < s.work.groups[groupOf c].rmin) :
    failedKey c ∈ (s.beginFailed c).faults.confirmed
      ∨ ∃ r ∈ (s.beginFailed c).faults.suspicions, r.key = failedKey c := by
  have judged : ∀ t : State, t.work = s.work → failedKey c ∈ (t.failedJudge c).faults.confirmed
      ∨ ∃ r ∈ (t.failedJudge c).faults.suspicions, r.key = failedKey c := by
    intro t work
    unfold State.failedJudge failedKey
    by_cases red : (colourOf c).val = 0
    · rw [if_pos (Fin.ext red)]
      refine State.litJudge_known _ (b := .redOut) ?_ nofun rfl
      rw [decide_eq_true red, State.updLamp_work, work]
      exact bandOf_unlit_red (h red)
    · rw [if_neg fun e => red (congrArg Fin.val e)]
      refine State.litJudge_known _ (b := .out) ?_ nofun rfl
      rw [decide_eq_false red]
      exact bandOf_unlit_other
  have begun : Quiet s ((s.updLamp c fun l => { l with lit := .failed, addedInPeriod := false }).litStart c) :=
    .of (.litStart _ c) <| .lamp s c _ fun _ => rfl
  have judged := judged _ begun.work
  unfold State.beginFailed
  dsimp only
  generalize ((s.updLamp c fun l => { l with lit := .failed, addedInPeriod := false }).litStart c).failedJudge c = v
    at judged ⊢
  split
  · exact judged
  · unfold State.endFailed
    split
    · exact judged.imp id (State.litEnd_known _ c)
    · exact judged

/-- What becomes of a used channel whose relay fails open (R120, R123): dark proving and a LIT period are over, and a failed lit period is judged with no lamp lit. -/
theorem State.lampFailedOpen_spec (h : s.work.used c = true) : ∃ (l : LampRun) (n : Nat) (r : Bool),
    (s.lampFailedOpen c).lamps[c] = { l with
      lampsLit := 0, last := none, addedInPeriod := false, litCount := n, litReached := r
      lit := if s.commanded c = true then .failed else .none
      repeatTimer := if s.commanded c = true then some (s.now + 1000) else none }
    ∧ l.dark = none ∧ ((s.lamps[c]).lit = .lit → l.settle = none)
    ∧ (((colourOf c).val = 0 → 0 < s.work.groups[groupOf c].rmin) → n = 0
      ∧ (failedKey c ∈ (s.lampFailedOpen c).faults.confirmed
        ∨ ∃ x ∈ (s.lampFailedOpen c).faults.suspicions, x.key = failedKey c)) := by
  have quiet : Quiet s ((s.endDark c).endLit c) := .of (.endLit _ c) <| .endDark s c
  have record : (((s.endDark c).endLit c).lamps[c]).dark = none
      ∧ ((s.lamps[c]).lit = .lit → (((s.endDark c).endLit c).lamps[c]).settle = none) := by
    by_cases lit : ((s.endDark c).lamps[c]).lit = .lit
    · rw [(State.endLit_spec lit).1]
      obtain ⟨dark, settle⟩ := ((s.endDark c).lamps[c]).unlit.periodOver_frame
      exact ⟨dark.trans (congrArg LampRun.dark (s.endDark_lamp c)), fun _ => settle⟩
    · unfold State.endLit
      rw [if_neg lit]
      exact ⟨congrArg LampRun.dark (s.endDark_lamp c), fun e =>
        (lit ((congrArg LampRun.lit (s.endDark_lamp c)).trans e)).elim⟩
  obtain ⟨n, r, lamp, zero⟩ := ((s.endDark c).endLit c).beginFailed_lamp c
  have known := ((s.endDark c).endLit c).beginFailed_known c
  rw [quiet.work] at zero known
  rw [quiet.commanded, quiet.now] at lamp
  unfold State.lampFailedOpen
  rw [if_pos h]
  exact ⟨_, n, r, lamp, record.1, record.2, fun least => ⟨zero least, known least⟩⟩

end Sys2Proof.Machine

/-! SUPPORT. One load relay (R88 to R93): what its commands make of its record, and what they leave alone. With the commands of the supply relays, O50. -/

namespace Sys2Proof.Machine

variable {s t u : State} {c : Chan} {k : CoreId}

/-! ### A test given up (R145) -/

/-- What the surveyor leaves alone as it gives up a test: the relays, the lamp prover, the fault confirmation unit and what is passed on in the event. -/
structure Surveying (s t : State) : Prop extends Gear s t where
  lamps  : t.lamps = s.lamps := by rfl
  faults : t.faults = s.faults := by rfl
  ev     : t.ev = s.ev := by rfl

theorem Surveying.refl (s : State) : Surveying s s := {}

theorem Surveying.trans (h : Surveying s t) (k : Surveying t u) : Surveying s u where
  toGear := h.toGear.trans k.toGear
  lamps := k.lamps.trans h.lamps
  faults := k.faults.trans h.faults
  ev := k.ev.trans h.ev

theorem Surveying.of (k : Surveying t u) (h : Surveying s t) : Surveying s u := h.trans k

theorem Surveying.ite {p : Prop} [Decidable p] (h : Surveying s t) (k : Surveying s u) :
    Surveying s (if p then t else u) := by
  split <;> assumption

theorem Surveying.abandon (s : State) (k : CoreId) (counted : Bool) : Surveying s (s.abandon k counted) := by
  have count : ∀ v : State, Surveying v (if counted then
      v.updCore k fun r => { r with
        abandons := min 5 ((v.cores[k]).abandons + 1)
        mark := if min 5 ((v.cores[k]).abandons + 1) = 5 && r.mark.isDue then .deferred else r.mark }
      else v) := fun v => .ite {} (.refl v)
  have released : ∀ v : State, Surveying v (v.enterReleasing k) := fun v => {}
  unfold State.abandon
  exact .ite (.of (released _) <| .of (count _) {}) (.refl s)

theorem Surveying.abandonIf (s : State) (p : CoreCfg → Bool) : Surveying s (s.abandonIf p) := by
  unfold State.abandonIf
  split
  · exact .ite (.abandon s _ _) (.refl s)
  · exact .refl s

/-- A test in progress that is given up is in RELEASING; where it was not so before, the crosspoint is commanded open with the release timer. -/
theorem State.abandon_spec (h : s.survey.underTest = some k) (p : (s.cores[k]).test.inProgress = true) (counted : Bool) :
    ((s.abandon k counted).cores[k]).test = .releasing
    ∧ ((s.cores[k]).test ≠ .releasing → (s.abandon k counted).survey.connected = none
      ∧ (s.abandon k counted).survey.release = some (s.now + 20)) := by
  have now : ∀ v : State, (if counted then
      v.updCore k fun r => { r with
        abandons := min 5 ((v.cores[k]).abandons + 1)
        mark := if min 5 ((v.cores[k]).abandons + 1) = 5 && r.mark.isDue then .deferred else r.mark }
      else v).now = v.now := fun v => by split <;> rfl
  unfold State.abandon
  by_cases releasing : (s.cores[k]).test = .releasing
  · rw [if_neg (by simp [releasing, -Fin.getElem_fin])]
    exact ⟨releasing, fun n => (n releasing).elim⟩
  · rw [if_pos (by simp [h, p, releasing, -Fin.getElem_fin])]
    refine ⟨congrArg CoreRun.test (upd_same _ _ _), fun _ => ⟨rfl, ?_⟩⟩
    exact congrArg (fun n : Nat => some (n + 20)) (now _)

/-! ### One relay's record -/

/-- A change of a relay's record; beside it only the aspects' inhibit reasons, the output monitor and the event are touched. -/
theorem State.setRelay_told (s : State) (c : Chan) (f : Relay → Relay) :
    Told { s with relays := upd s.relays c fun _ => (f s.relays[c]).kept } (s.setRelay c f)
    ∧ (s.setRelay c f).faults = s.faults := by
  rw [State.setRelay_eq]
  obtain ⟨ev, mon, grp, h, -⟩ := s.putRelay_spec c (f s.relays[c]).kept
  rw [h]
  exact ⟨{}, rfl⟩

theorem State.setRelay_relays (s : State) (c : Chan) (f : Relay → Relay) :
    (s.setRelay c f).relays = upd s.relays c fun _ => (f s.relays[c]).kept := (s.setRelay_told c f).1.relays

/-- The other load relays and the supply relays are as they were. -/
structure Sole (c : Chan) (s t : State) : Prop where
  others : ∀ x : Chan, x ≠ c → t.relays[x] = s.relays[x] := by exact fun _ _ => rfl
  smc    : t.smc = s.smc := by rfl
  ftr    : t.ftr = s.ftr := by rfl

theorem Sole.refl (c : Chan) (s : State) : Sole c s s := {}

theorem Sole.trans (h : Sole c s t) (k : Sole c t u) : Sole c s u where
  others := fun x n => (k.others x n).trans (h.others x n)
  smc := k.smc.trans h.smc
  ftr := k.ftr.trans h.ftr

theorem Sole.of (k : Sole c t u) (h : Sole c s t) : Sole c s u := h.trans k

theorem Sole.ite {p : Prop} [Decidable p] (h : Sole c s t) (k : Sole c s u) : Sole c s (if p then t else u) := by
  split <;> assumption

theorem Gear.sole (h : Gear s t) : Sole c s t where
  others := fun x _ => congrArg (fun v : Vector Relay 48 => v[x]) h.relays
  smc := h.smc
  ftr := h.ftr

theorem Sole.updRelay (s : State) (c : Chan) (f : Relay → Relay) : Sole c s (s.updRelay c f) where
  others := fun x n => upd_other _ _ _ _ n.symm

theorem Sole.setRelay (s : State) (c : Chan) (f : Relay → Relay) : Sole c s (s.setRelay c f) where
  others := fun x n => by
    rw [congrArg (fun v : Vector Relay 48 => v[x]) (s.setRelay_relays c f)]
    exact upd_other _ _ _ _ n.symm
  smc := (s.setRelay_told c f).1.smc
  ftr := (s.setRelay_told c f).1.ftr

theorem Sole.wantSelection (s : State) : Sole c s s.wantSelection := {}

theorem Sole.mark (s : State) : Sole c s s.mark := {}

theorem Sole.energize (s : State) (c : Chan) : Sole c s (s.energize c) := by
  unfold State.energize
  exact .setRelay s c _

theorem Sole.operateReleased (s : State) (c : Chan) : Sole c s (s.operateReleased c) := by
  unfold State.operateReleased
  split
  · exact .of (Surveying.abandon _ _ _).toGear.sole (.updRelay s c _)
  · exact .energize s c

theorem Sole.operate (s : State) (c : Chan) : Sole c s (s.operate c) := by
  unfold State.operate
  refine .ite (.refl c s) ?_
  split
  · exact .ite (.refl c s) (.of (.wantSelection _) (.operateReleased s c))
  · exact .of (.wantSelection _) (.updRelay s c _)
  · exact .wantSelection s
  · exact .wantSelection s
  · exact .refl c s
  · exact .refl c s

theorem Sole.release (s : State) (c : Chan) : Sole c s (s.release c) := by
  have started : Sole c s (s.startRelease c) := .of (Proving.endLit _).toGear.sole (.setRelay s c _)
  unfold State.release
  split
  · exact .of (.wantSelection _) (.updRelay s c _)
  · exact .of (.wantSelection _) started
  · exact .of (.wantSelection _) started
  · exact .of (.wantSelection _) (.updRelay s c _)
  · exact .refl c s
  · exact .refl c s

/-! ### An operate command (R88) -/

/-- A relay as its coil is energized, its operate timer running until a time. -/
def Relay.energized (r : Relay) (e : Nat) : Relay :=
  { r with
    state := .operating, coil := true, held := false, waitCore := none, waitTimer := none, darkSince := none
    opTimer := some e }

/-- A relay that waits for the crosspoint of a core to open, until a time (R88). -/
def Relay.waiting (r : Relay) (k : CoreId) (e : Nat) : Relay :=
  { r with held := true, waitCore := some k, waitTimer := some e }

theorem State.energize_relays (s : State) (c : Chan) : (s.energize c).relays
    = upd s.relays c fun r => r.energized (s.now + s.work.channels[c].limits.operate) := by
  unfold State.energize
  exact s.setRelay_relays c _

theorem State.testedCore_some (h : s.testedCore c = some k) :
    s.survey.underTest = some k ∧ (s.cores[k]).test.inProgress = true := by
  unfold State.testedCore at h
  obtain ⟨under, tested⟩ := Option.filter_eq_some_iff.mp h
  exact ⟨under, (Bool.and_eq_true_iff.mp tested).1⟩

/-- An operate command that reaches a relay in RELEASED: its coil is energized, or it is held until the test in progress on a core of its channel is given up. -/
theorem State.operateReleased_spec (s : State) (c : Chan) :
    (s.testedCore c = none → (s.operateReleased c).relays[c]
      = (s.relays[c]).energized (s.now + s.work.channels[c].limits.operate))
    ∧ ∀ k, s.testedCore c = some k → (s.operateReleased c).relays[c] = (s.relays[c]).waiting k (s.now + 20)
      ∧ ((s.operateReleased c).cores[k]).test = .releasing
      ∧ ((s.cores[k]).test ≠ .releasing → (s.operateReleased c).survey.connected = none
        ∧ (s.operateReleased c).survey.release = some (s.now + 20)) := by
  unfold State.operateReleased
  refine ⟨fun free => ?_, fun k tested => ?_⟩
  · rw [free]
    dsimp only
    rw [congrArg (fun v : Vector Relay 48 => v[c]) (s.energize_relays c)]
    exact upd_same _ _ _
  · rw [tested]
    obtain ⟨under, progress⟩ := State.testedCore_some tested
    refine ⟨?_, State.abandon_spec (s := s.updRelay c _) under progress true⟩
    rw [congrArg (fun v : Vector Relay 48 => v[c]) (Surveying.abandon _ k true).relays]
    exact upd_same _ _ _

theorem State.operate_off (h : s.mode.mode = .failsafe ∨ s.mode.mode = .mainsOut) : s.operate c = s := by
  unfold State.operate
  rw [if_pos h]

section

variable (on : ¬ (s.mode.mode = .failsafe ∨ s.mode.mode = .mainsOut))

include on

theorem State.operate_released (h : (s.relays[c]).state = .released) (n : (s.relays[c]).held = false) :
    s.operate c = (s.operateReleased c).wantSelection := by
  unfold State.operate
  rw [if_neg on, h]
  dsimp only
  rw [n]
  rfl

theorem State.operate_releasing (h : (s.relays[c]).state = .releasing) :
    (s.operate c).relays[c] = { s.relays[c] with held := true } := by
  unfold State.operate
  rw [if_neg on, h]
  exact upd_same _ _ _

theorem State.operate_elsewhere (h : (s.relays[c]).state ≠ .released) (n : (s.relays[c]).state ≠ .releasing) :
    (s.operate c).relays = s.relays := by
  unfold State.operate
  rw [if_neg on]
  split
  · next e => exact (h e).elim
  · next e => exact (n e).elim
  all_goals rfl

end

theorem State.release_failed (h : (s.relays[c]).state = .failedOpen ∨ (s.relays[c]).state = .failedClosed) :
    s.release c = s := by
  unfold State.release
  rcases h with h | h <;> rw [h]

/-- Settles O50: a load relay by its state, then the supply relays by theirs. -/
theorem relayCommands : Obligations.RelayCommands := by
  refine ⟨fun s c => ?_, fun s => ⟨?_, ?_, ?_, ?_, fun failed closed => ?_, fun failed opened => ?_⟩⟩
  · dsimp only
    have command := s.release_get c
    unfold Relay.releasedAt at command
    refine ⟨State.operate_off, fun n m => ?_, fun state => ?_, fun state => ?_, fun state => ?_, State.release_failed,
      fun x n => ⟨(Sole.operate s c).others x n, (Sole.release s c).others x n⟩⟩
    · have on : ¬ (s.mode.mode = .failsafe ∨ s.mode.mode = .mainsOut) := not_or.mpr ⟨n, m⟩
      obtain ⟨free, tested⟩ := s.operateReleased_spec c
      refine ⟨fun state held testing => ?_, fun k state held testing => ?_, State.operate_releasing on, fun state => ?_⟩
      · rw [State.operate_released on state held]
        refine (free testing).trans ?_
        unfold Relay.energized
        rw [held]
      · rw [State.operate_released on state held]
        exact tested k testing
      · refine State.operate_elsewhere on (fun e => ?_) fun e => ?_ <;> simp [e, -Fin.getElem_fin] at state
    · rcases state with state | state <;> rw [command, state]
    · rw [command, state]
    · rw [command, state]
  · unfold State.smcClose
    split
    · next state => rw [s.smcBeginClose_spec.2, state]; rfl
    · next state => rw [state]; rfl
    · next state => rw [state]
    · next state => rw [state]
    · next state => rw [state]
  · unfold State.smcOpen
    split
    · next state => rw [state]; rfl
    · next state => rw [state]; rfl
    · next state => rw [state]; rfl
    · next state => rw [state]
    · next state => rw [state]
  · unfold State.ftrToNormal
    split
    · next state => rw [state]; rfl
    · next state => rw [state]; rfl
    · next state => rw [state]
    · next state => rw [state]
    · next state => rw [state]
  · have unmoved := State.ftrToFlash_ftr (s := s)
    unfold State.ftrToFlash at unmoved ⊢
    split
    · next state => rw [state]; rfl
    · next state => rw [state]; rfl
    · next state => rw [state]; rfl
    · next state => rw [state] at unmoved ⊢; exact unmoved (.inr rfl)
    · next state => rw [state]
  · unfold State.ftrToFlash
    rw [failed]
    exact if_pos closed
  · unfold State.ftrToFlash
    rw [failed]
    exact if_neg (by rw [opened]; exact Bool.false_ne_true)

end Sys2Proof.Machine

/-! SUPPORT. The passes of the surveyor (R140, R142, R149, R150): how one begins, how it ends, and the halt. -/

namespace Sys2Proof.Machine

variable {s t u : State} {k : CoreId}

/-! ### The end of a pass (R149, R150) -/

/-- A core's record after the end of a pass: no mark, and no test but one that is releasing. -/
def CoreRun.passOver (r : CoreRun) : CoreRun :=
  { r with mark := .none, test := if r.test = .releasing then .releasing else .idle }

theorem CoreRun.passOver_idle {r : CoreRun} (h : r.test = .idle) : r.passOver.test = .idle := by
  unfold CoreRun.passOver
  rw [h]
  rfl

/-- What the end of a pass does: the survey part is stored, a SURVEY_NOW job ended. -/
structure PassClosed (s t : State) : Prop extends Gear s t where
  faults : t.faults = s.faults
  survey : t.survey = { s.survey with active := false, window := none, eligibility := none }
  core   : ∀ k : CoreId, t.cores[k] = (s.cores[k]).passOver
  job    : t.hasJob .surveyNow = false
  stored : ImageKind.survey ∈ t.store.queue

theorem State.placeStore_mem (s : State) (i : ImageKind) : i ∈ (s.placeStore i).store.queue := by
  unfold State.placeStore
  split
  · next h => exact h
  · exact List.mem_append_right _ (List.mem_singleton.mpr rfl)

theorem State.closePass_spec (s : State) (r : JobResult) : PassClosed s (s.closePass r) := by
  unfold State.closePass
  exact {
    relays := by rw [State.endJob_relays, State.placeStore_relays]
    smc := by rw [State.endJob_smc, State.placeStore_smc]
    ftr := by rw [State.endJob_ftr, State.placeStore_ftr]
    flashBus := by rw [State.endJob_flashBus, State.placeStore_flashBus]
    faults := by rw [State.endJob_faults, State.placeStore_faults]
    survey := by rw [State.endJob_survey, State.placeStore_survey]
    core := fun k => by
      simp only [State.endJob_cores, State.placeStore_cores]
      exact map_get _ _ k
    job := State.hasJob_endJob _ _ _ _
    stored := by
      rw [State.endJob_store]
      exact State.placeStore_mem _ _ }

/-! ### The halt (R140, R149, R150) -/

/-- The surveyor halted: it is in no pass, and no crosspoint is connected. -/
structure Halted (s t : State) : Prop extends Gear s t where
  faults    : t.faults = s.faults
  halted    : t.survey.halted = true
  connected : t.survey.connected = none
  charge    : t.survey.charge = none
  active    : t.survey.active = false
  underTest : t.survey.underTest = s.survey.underTest
  release   : t.survey.release = s.survey.release
  idle      : ∀ k : CoreId, (s.cores[k]).test = .idle → (t.cores[k]).test = .idle

/-- The mark of the halt, with the crosspoint commanded open and no charge timer, before the active pass is ended. -/
def State.haltMarked (s : State) : State :=
  { s.withdrawLeak with survey := { s.survey with halted := true, connected := none, charge := none } }

theorem State.haltSurvey_eq (s : State) :
    s.haltSurvey = if s.survey.active then s.haltMarked.closePass .halted else s.haltMarked := rfl

theorem State.haltSurvey_spec (s : State) : Halted s s.haltSurvey := by
  have closed := s.haltMarked.closePass_spec .halted
  rw [s.haltSurvey_eq]
  by_cases active : s.survey.active = true
  · rw [if_pos active]
    exact {
      relays := closed.relays, smc := closed.smc, ftr := closed.ftr, flashBus := closed.flashBus
      faults := closed.faults
      halted := congrArg Survey.halted closed.survey
      connected := congrArg Survey.connected closed.survey
      charge := congrArg Survey.charge closed.survey
      active := congrArg Survey.active closed.survey
      underTest := (congrArg Survey.underTest closed.survey).trans rfl
      release := (congrArg Survey.release closed.survey).trans rfl
      idle := fun k idle => by
        rw [closed.core k]
        exact CoreRun.passOver_idle idle }
  · rw [if_neg active]
    exact {
      faults := rfl, halted := rfl, connected := rfl, charge := rfl, active := Bool.eq_false_iff.mpr active
      underTest := rfl, release := rfl, idle := fun _ => id }

end Sys2Proof.Machine

/-! SUPPORT. The proofs and timers of a load relay (R89 to R92), and O51. -/

namespace Sys2Proof.Machine

variable {s t u : State} {c : Chan} {k : CoreId} {e : Nat}

/-! ### Where the relay fails -/

theorem Told.relay (h : Told s t) (c : Chan) : t.relays[c] = s.relays[c] :=
  congrArg (fun v : Vector Relay 48 => v[c]) h.relays

theorem Gear.relay (h : Gear s t) (c : Chan) : t.relays[c] = s.relays[c] :=
  congrArg (fun v : Vector Relay 48 => v[c]) h.relays

/-- A relay that has failed open, for a reason. -/
def Relay.failedOpen (r : Relay) (o : FailureOrigin) : Relay :=
  { r with
    state := .failedOpen, coil := false, held := false, waitCore := none, waitTimer := none, opTimer := none
    relTimer := none, darkSince := none, origin := o }

theorem State.failOpen_relay (s : State) (c : Chan) (o : FailureOrigin) :
    (s.failOpen c o).relays[c] = (s.relays[c]).failedOpen o := by
  unfold State.failOpen
  rw [(Proving.lampFailedOpen _).toGear.relay c, State.setRelay_get]
  rfl

theorem Sole.failOpen (s : State) (c : Chan) (o : FailureOrigin) : Sole c s (s.failOpen c o) :=
  .of (Proving.lampFailedOpen _).toGear.sole (.setRelay s c _)

/-- Beside the relay a failure leaves the surveyor as it was, and what is confirmed stays so but for the lit kinds of the channel. -/
theorem State.failOpen_survey (s : State) (c : Chan) (o : FailureOrigin) : (s.failOpen c o).survey = s.survey
    ∧ ∀ k, k ∉ litKinds c → k ∈ s.faults.confirmed → k ∈ (s.failOpen c o).faults.confirmed := by
  unfold State.failOpen
  obtain ⟨told, faults⟩ := s.setRelay_told c fun r =>
    { r with state := .failedOpen, coil := false, held := false, waitCore := none, waitTimer := none
             opTimer := none, relTimer := none, origin := o }
  have proving := Proving.lampFailedOpen (c := c) (s.setRelay c fun r =>
    { r with state := .failedOpen, coil := false, held := false, waitCore := none, waitTimer := none
             opTimer := none, relTimer := none, origin := o })
  refine ⟨proving.survey.trans told.survey, fun k n m => proving.confirmed k n ?_⟩
  rw [faults]
  exact m

/-! ### A relay in RELEASING enters RELEASED (R91) -/

/-- A relay that enters RELEASED, a held operate taken from it. -/
def Relay.freed (r : Relay) (now : Nat) : Relay :=
  { r with state := .released, held := false, relTimer := none, darkSince := some now }

/-- What the release of a relay leaves, before a held operate is taken. -/
theorem State.freed_spec (s : State) (c : Chan) :
    let v := (s.setRelay c fun r =>
      { r with state := .released, held := false, relTimer := none, darkSince := some s.now }).lampProvenOff c
    v.relays[c] = (s.relays[c]).freed s.now ∧ v.faults = s.faults ∧ v.survey = s.survey ∧ v.cores = s.cores
      ∧ v.work = s.work ∧ v.now = s.now ∧ Sole c s v := by
  have sole := Sole.setRelay s c fun r => { r with state := .released, held := false, relTimer := none, darkSince := some s.now }
  have record := s.setRelay_get c fun r => { r with state := .released, held := false, relTimer := none, darkSince := some s.now }
  obtain ⟨told, faults⟩ := s.setRelay_told c fun r =>
    { r with state := .released, held := false, relTimer := none, darkSince := some s.now }
  have quiet := Quiet.setRelay s c fun r => { r with state := .released, held := false, relTimer := none, darkSince := some s.now }
  dsimp only
  generalize (s.setRelay c fun r => { r with state := .released, held := false, relTimer := none, darkSince := some s.now }) = v
    at *
  have proving := Proving.lampProvenOff (c := c) v
  have after := quiet.trans (.lampProvenOff v c)
  have kept : (v.lampProvenOff c).faults = v.faults := by
    unfold State.lampProvenOff
    split <;> rfl
  refine ⟨?_, kept.trans faults, proving.survey.trans told.survey, proving.cores.trans told.cores, after.work, after.now,
    .of proving.toGear.sole sole⟩
  rw [proving.toGear.relay c, record]
  rfl

theorem State.testedCore_congr (h : t.survey = s.survey) (c : Chan) (k : t.cores = s.cores) (w : t.work = s.work) :
    t.testedCore c = s.testedCore c := by
  unfold State.testedCore
  rw [h, k, w]

/-- A relay in RELEASING whose proof is open enters RELEASED; a held operate is taken in the same event, at once or after the crosspoint has opened. -/
theorem State.enterReleased_spec (s : State) (c : Chan) :
    let v := s.enterReleased c
    Sole c s v
    ∧ ((s.relays[c]).held = false → v.relays[c] = (s.relays[c]).freed s.now ∧ v.faults = s.faults)
    ∧ ((s.relays[c]).held = true → s.testedCore c = none →
        v.relays[c] = ((s.relays[c]).freed s.now).energized (s.now + s.work.channels[c].limits.operate))
    ∧ ((s.relays[c]).held = true → ∀ k, s.testedCore c = some k →
        v.relays[c] = ((s.relays[c]).freed s.now).waiting k (s.now + 20)
        ∧ (v.cores[k]).test = .releasing ∧ ((s.cores[k]).test ≠ .releasing → v.survey.connected = none)) := by
  unfold State.enterReleased
  obtain ⟨record, faults, survey, cores, work, now, sole⟩ := s.freed_spec c
  dsimp only at record faults survey cores work now sole ⊢
  generalize (s.setRelay c fun r =>
    { r with state := .released, held := false, relTimer := none, darkSince := some s.now }).lampProvenOff c = v at *
  by_cases held : (s.relays[c]).held = true
  · rw [if_pos held]
    obtain ⟨free, tested⟩ := v.operateReleased_spec c
    rw [State.testedCore_congr survey c cores work, record, now, work] at free
    refine ⟨.of (.wantSelection _) <| .of (.operateReleased v c) sole, fun n => ?_, fun _ => free, fun _ k test => ?_⟩
    · rw [held] at n
      exact Bool.noConfusion n
    · obtain ⟨waits, released, opened⟩ := tested k ((State.testedCore_congr survey c cores work).trans test)
      rw [record, now] at waits
      rw [cores] at opened
      exact ⟨waits, released, fun n => (opened n).1⟩
  · rw [if_neg held]
    exact ⟨sole, fun _ => ⟨record, faults⟩, fun h => (held h).elim, fun h => (held h).elim⟩

/-! ### The proof of a load relay (R90 to R92) -/

/-- A relay's record with a new level of its proof. -/
theorem State.proofRead (s : State) (c : Chan) (b : Bool) :
    (s.updRelay c fun r => { r with proof := b }).relays[c] = { s.relays[c] with proof := b } := upd_same _ _ _

theorem State.relayClosed_operating (h : (s.relays[c]).state = .operating) :
    s.relayClosed c = ((s.updRelay c fun r => { r with proof := true }).setRelay c fun r =>
      { r with state := .operated, opTimer := none, gen := r.gen + 1 }).lampProvenOn c := by
  unfold State.relayClosed
  dsimp only
  rw [(congrArg Relay.state (s.proofRead c true)).trans h]

theorem State.relayClosed_uncommanded (h : (s.relays[c]).state = .released ∨ (s.relays[c]).state = .failedOpen) :
    s.relayClosed c = (s.updRelay c fun r => { r with proof := true }).uncommanded c := by
  unfold State.relayClosed
  dsimp only
  rcases h with h | h <;> rw [(congrArg Relay.state (s.proofRead c true)).trans h]

theorem State.relayClosed_steady (h : (s.relays[c]).state = .operated ∨ (s.relays[c]).state = .releasing
    ∨ (s.relays[c]).state = .failedClosed) :
    s.relayClosed c = (s.updRelay c fun r => { r with proof := true }).mark := by
  unfold State.relayClosed
  dsimp only
  rcases h with h | h | h <;> rw [(congrArg Relay.state (s.proofRead c true)).trans h]

theorem State.relayOpened_dropped (h : (s.relays[c]).state = .operated) :
    s.relayOpened c = ((((((s.updRelay c fun r => { r with proof := false }).updRelay c fun r =>
      { r with gen := r.gen + 1 }).endLit c).lampProvenOff c).failOpen c .dropped).observe (noOperateOf c)) := by
  unfold State.relayOpened noOperateOf
  dsimp only
  rw [(congrArg Relay.state (s.proofRead c false)).trans h]

theorem State.relayOpened_releasing (h : (s.relays[c]).state = .releasing) :
    s.relayOpened c = (s.updRelay c fun r => { r with proof := false }).enterReleased c := by
  unfold State.relayOpened
  dsimp only
  rw [(congrArg Relay.state (s.proofRead c false)).trans h]

theorem State.relayOpened_steady (h : (s.relays[c]).state = .released ∨ (s.relays[c]).state = .operating
    ∨ (s.relays[c]).state = .failedOpen ∨ (s.relays[c]).state = .failedClosed) :
    s.relayOpened c = (s.updRelay c fun r => { r with proof := false }).mark := by
  unfold State.relayOpened
  dsimp only
  rcases h with h | h | h | h <;> rw [(congrArg Relay.state (s.proofRead c false)).trans h]

theorem noOperateOf_offCore (c : Chan) : (noOperateOf c).offCore := fun _ e => nomatch e

theorem weldedOf_offCore (c : Chan) : (weldedOf c).offCore := fun _ e => nomatch e

theorem Sole.observe (s : State) {k : Cond} (h : k.offCore) : Sole c s (s.observe k) := (Told.observe s h).toGear.sole

theorem Sole.uncommanded (s : State) (c : Chan) : Sole c s (s.uncommanded c) := by
  rw [s.uncommanded_eq]
  exact .of (Surveying.abandonIf _ _).toGear.sole <| .of (Proving.lampLeftReleased _).toGear.sole <|
    .of (.observe _ (weldedOf_offCore c)) <| .setRelay s c _

theorem Sole.enterReleased (s : State) (c : Chan) : Sole c s (s.enterReleased c) := (s.enterReleased_spec c).1

theorem Sole.relayClosed (s : State) (c : Chan) : Sole c s (s.relayClosed c) := by
  have read := Sole.updRelay s c fun r => { r with proof := true }
  cases h : (s.relays[c]).state with
  | operating =>
    rw [State.relayClosed_operating h]
    exact .of (Proving.lampProvenOn _).toGear.sole <| .of (.setRelay _ c _) read
  | released => rw [State.relayClosed_uncommanded (.inl h)]; exact .of (.uncommanded _ c) read
  | failedOpen => rw [State.relayClosed_uncommanded (.inr h)]; exact .of (.uncommanded _ c) read
  | operated => rw [State.relayClosed_steady (.inl h)]; exact .of (.mark _) read
  | releasing => rw [State.relayClosed_steady (.inr (.inl h))]; exact .of (.mark _) read
  | failedClosed => rw [State.relayClosed_steady (.inr (.inr h))]; exact .of (.mark _) read

theorem Sole.relayOpened (s : State) (c : Chan) : Sole c s (s.relayOpened c) := by
  have read := Sole.updRelay s c fun r => { r with proof := false }
  cases h : (s.relays[c]).state with
  | operated =>
    rw [State.relayOpened_dropped h]
    exact .of (.observe _ (noOperateOf_offCore c)) <| .of (.failOpen _ c _) <|
      .of (Proving.lampProvenOff _).toGear.sole <| .of (Proving.endLit _).toGear.sole <| .of (.updRelay _ c _) read
  | releasing => rw [State.relayOpened_releasing h]; exact .of (.enterReleased _ c) read
  | released => rw [State.relayOpened_steady (.inl h)]; exact .of (.mark _) read
  | operating => rw [State.relayOpened_steady (.inr (.inl h))]; exact .of (.mark _) read
  | failedOpen => rw [State.relayOpened_steady (.inr (.inr (.inl h)))]; exact .of (.mark _) read
  | failedClosed => rw [State.relayOpened_steady (.inr (.inr (.inr h)))]; exact .of (.mark _) read

/-- A relay in OPERATING whose proof closes is OPERATED (R90), and its channel is proven on (R120). -/
theorem State.relayClosed_operated (h : (s.relays[c]).state = .operating) :
    let v := s.relayClosed c
    v.relays[c] = { s.relays[c] with
      proof := true, state := .operated, opTimer := none, gen := (s.relays[c]).gen + 1, darkSince := none }
    ∧ (s.work.used c = true → v.lamps[c] = { s.lamps[c] with
          dark := none, flashDiscard := false, lit := .lit, addedInPeriod := false
          settle := some (s.now + lampSettle s.work.channels[c].lamp) }
      ∧ v.meas = (s.withdraw (.dark c)).meas ∧ v.faults = ((s.darkEnd c).litStart c).faults) := by
  have record := State.setRelay_get (s.updRelay c fun r => { r with proof := true }) c fun r =>
    { r with state := .operated, opTimer := none, gen := r.gen + 1 }
  have quiet := Quiet.setRelay (s.updRelay c fun r => { r with proof := true }) c fun r =>
    { r with state := .operated, opTimer := none, gen := r.gen + 1 }
  obtain ⟨told, faults⟩ := State.setRelay_told (s.updRelay c fun r => { r with proof := true }) c fun r =>
    { r with state := .operated, opTimer := none, gen := r.gen + 1 }
  rw [s.proofRead] at record
  rw [State.relayClosed_operating h]
  dsimp only
  generalize (s.updRelay c fun r => { r with proof := true }).setRelay c (fun r =>
    { r with state := .operated, opTimer := none, gen := r.gen + 1 }) = v at *
  refine ⟨((Proving.lampProvenOn v).toGear.relay c).trans record, fun used => ?_⟩
  obtain ⟨lamp, meas, proven⟩ := State.lampProvenOn_spec (s := v) (c := c) (by rw [quiet.work]; exact used)
  refine ⟨?_, ?_, ?_⟩
  · rw [lamp, told.lamp c, quiet.now, quiet.work]
    rfl
  · rw [meas]
    unfold State.withdraw
    rw [told.meas]
    rfl
  · rw [proven]
    unfold State.litStart State.litRecords State.darkEnd
    rw [faults]
    rfl

/-- A relay that drops fails open (R92). -/
theorem State.relayOpened_failed (h : (s.relays[c]).state = .operated) :
    (s.relayOpened c).relays[c]
      = ({ s.relays[c] with proof := false, gen := (s.relays[c]).gen + 1 } : Relay).failedOpen .dropped
    ∧ noOperateOf c ∈ (s.relayOpened c).faults.confirmed := by
  rw [State.relayOpened_dropped h]
  refine ⟨?_, State.observe_confirmed _ (Nat.le_refl 1)⟩
  rw [(Told.observe _ (noOperateOf_offCore c)).relay c, State.failOpen_relay, (Proving.lampProvenOff _).toGear.relay c,
    (Proving.endLit _).toGear.relay c]
  refine congrArg (Relay.failedOpen · .dropped) ?_
  exact (upd_same _ _ _).trans (congrArg (fun r : Relay => { r with gen := r.gen + 1 }) (s.proofRead c false))

/-! ### The timers of a load relay (R89 to R91) -/

theorem State.relayOperateExpiry_spec (s : State) (c : Chan) :
    (s.relayOperateExpiry c).relays[c] = (s.relays[c]).failedOpen .noOperate
    ∧ Sole c s (s.relayOperateExpiry c) ∧ noOperateOf c ∈ (s.relayOperateExpiry c).faults.confirmed := by
  have e : s.relayOperateExpiry c = (s.failOpen c .noOperate).observe (noOperateOf c) := rfl
  rw [e]
  refine ⟨?_, .of (.observe _ (noOperateOf_offCore c)) (.failOpen s c _), State.observe_confirmed _ (Nat.le_refl 1)⟩
  rw [(Told.observe _ (noOperateOf_offCore c)).relay c, State.failOpen_relay]

/-- At the release timer a relay whose proof is still closed is welded (R91). -/
theorem State.relayReleaseExpiry_closed (h : (s.relays[c]).proof = true) :
    (s.relayReleaseExpiry c).relays[c] = { s.relays[c] with
      state := .failedClosed, held := false, relTimer := none, origin := .welded, darkSince := none }
    ∧ Sole c s (s.relayReleaseExpiry c) ∧ weldedOf c ∈ (s.relayReleaseExpiry c).faults.confirmed := by
  have e : s.relayReleaseExpiry c = (s.setRelay c fun r =>
      { r with state := .failedClosed, held := false, relTimer := none, origin := .welded }).observe (weldedOf c) :=
    if_pos h
  rw [e]
  refine ⟨?_, .of (.observe _ (weldedOf_offCore c)) (.setRelay s c _), State.observe_confirmed _ (Nat.le_refl 1)⟩
  rw [(Told.observe _ (weldedOf_offCore c)).relay c, State.setRelay_get]
  rfl

theorem State.relayReleaseExpiry_open (h : (s.relays[c]).proof = false) :
    s.relayReleaseExpiry c = s.enterReleased c := by
  unfold State.relayReleaseExpiry
  rw [h]
  rfl

/-- At the crosspoint wait timer (R89) MATRIX_FAULT is confirmed on the core of the request, the surveyor halted, and the relay fails open. -/
theorem State.waitExpiry_spec (h : (s.relays[c]).waitCore = some k) :
    let v := s.waitExpiry c
    v.relays[c] = (s.relays[c]).failedOpen .crosspoint ∧ Sole c s v
    ∧ (⟨.core k, .matrixFault⟩ : Cond) ∈ v.faults.confirmed
    ∧ v.survey.halted = true ∧ v.survey.connected = none ∧ v.survey.active = false := by
  have e : s.waitExpiry c = ((s.observe ⟨.core k, .matrixFault⟩).haltSurvey).failOpen c .crosspoint := by
    unfold State.waitExpiry
    rw [h]
  have told := (FaultsOnly.observeOnce s (k := ⟨.core k, .matrixFault⟩) (Nat.le_refl 1) rfl).told
  have member := s.observe_confirmed (k := ⟨.core k, .matrixFault⟩) (Nat.le_refl 1)
  rw [e]
  dsimp only
  generalize s.observe ⟨.core k, .matrixFault⟩ = v at *
  have halt := v.haltSurvey_spec
  obtain ⟨survey, stays⟩ := v.haltSurvey.failOpen_survey c .crosspoint
  refine ⟨?_, .of (.failOpen _ c _) (.of halt.toGear.sole told.toGear.sole), stays _ (fun m => litKinds_offCore m k rfl) ?_,
    ?_, ?_, ?_⟩
  · rw [State.failOpen_relay, halt.toGear.relay c, told.relay c]
  · rw [halt.faults]
    exact member
  · rw [survey, halt.halted]
  · rw [survey, halt.connected]
  · rw [survey, halt.active]

/-! ### What the events do -/

theorem State.running_of (p : s.power.phase = .running) : s.running = true := decide_eq_true p

theorem exec_loadProofClosed (h : (s.relays[c]).proof = false) (p : s.power.phase = .running) :
    exec (.loadProofClosed c) s = .next (s.cascade (s.relayClosed c)) := by
  show execLoadProofClosed c s = _
  unfold execLoadProofClosed
  rw [if_neg (by rw [h]; exact Bool.false_ne_true), if_pos (State.running_of p)]

theorem exec_loadProofOpened (h : (s.relays[c]).proof = true) (p : s.power.phase = .running) :
    exec (.loadProofOpened c) s = .next (s.cascade (s.relayOpened c)) := by
  show execLoadProofOpened c s = _
  unfold execLoadProofOpened
  rw [if_pos h, if_pos (State.running_of p)]

/-- What the three timers run, once time has passed to their ends. -/
theorem exec_relayTimers (s : State) (c : Chan) (e : Nat) :
    ((s.relays[c]).opTimer = some e →
      exec (.operateTimerExpiry c) s = .next ((s.elapseTo e).cascade ((s.elapseTo e).relayOperateExpiry c)))
    ∧ ((s.relays[c]).relTimer = some e →
      exec (.releaseTimerExpiry c) s = .next ((s.elapseTo e).cascade ((s.elapseTo e).relayReleaseExpiry c)))
    ∧ ((s.relays[c]).waitTimer = some e →
      exec (.crosspointWaitTimerExpiry c) s = .next ((s.elapseTo e).cascade ((s.elapseTo e).waitExpiry c))) :=
  ⟨fun h => congrArg Host.Outcome.next (State.due_some h _), fun h => congrArg Host.Outcome.next (State.due_some h _),
    fun h => congrArg Host.Outcome.next (State.due_some h _)⟩

/-! ### The proving record (R120, R122, R123, R127) -/

theorem lampSettle_eq (x : LampType) : lampSettle x = if x = .incandescent then 200 else 100 := by
  cases x <;> rfl

theorem State.release_started (h : (s.relays[c]).state = .operated ∨ (s.relays[c]).state = .operating) :
    s.release c = (s.startRelease c).wantSelection := by
  unfold State.release
  rcases h with h | h <;> rw [h]

/-- A release ends a LIT period (R122). -/
theorem State.startRelease_lit (lit : (s.lamps[c]).lit = .lit) :
    (s.startRelease c).lamps[c] = (s.lamps[c]).unlit.periodOver
    ∧ (s.startRelease c).meas = (s.withdraw (.lit c)).meas ∧ (s.startRelease c).faults = (s.litEnd c).faults := by
  unfold State.startRelease
  dsimp only
  obtain ⟨told, faults⟩ := s.setRelay_told c fun r =>
    { r with state := .releasing, coil := false, opTimer := none
             relTimer := some (s.now + (s.limits c).release), gen := r.gen + 1 }
  have quiet := Quiet.setRelay s c fun r =>
    { r with state := .releasing, coil := false, opTimer := none
             relTimer := some (s.now + (s.limits c).release), gen := r.gen + 1 }
  generalize (s.setRelay c fun r => { r with
    state := .releasing, coil := false, opTimer := none
    relTimer := some (s.now + (s.limits c).release), gen := r.gen + 1 }) = v at *
  obtain ⟨lamp, meas, ended⟩ := State.endLit_spec ((congrArg LampRun.lit (told.lamp c)).trans lit)
  refine ⟨?_, ?_, ?_⟩
  · rw [lamp, told.lamp c]
  · rw [meas]
    unfold State.withdraw
    rw [told.meas]
  · rw [ended]
    unfold State.litEnd State.litRecords
    rw [faults, quiet.now, quiet.work]

/-- The proving record of a used channel whose relay fails open (R120, R123, R127). -/
theorem State.failOpen_lamp (h : s.work.used c = true) (o : FailureOrigin) : ∃ (l : LampRun) (n : Nat) (r : Bool),
    (s.failOpen c o).lamps[c] = { l with
      lampsLit := 0, last := none, addedInPeriod := false, litCount := n, litReached := r
      lit := if s.commanded c = true then .failed else .none
      repeatTimer := if s.commanded c = true then some (s.now + 1000) else none }
    ∧ l.dark = none ∧ ((s.lamps[c]).lit = .lit → l.settle = none)
    ∧ (((colourOf c).val = 0 → 0 < s.work.groups[groupOf c].rmin) → n = 0
      ∧ (failedKey c ∈ (s.failOpen c o).faults.confirmed
        ∨ ∃ x ∈ (s.failOpen c o).faults.suspicions, x.key = failedKey c)) := by
  unfold State.failOpen
  obtain ⟨told, -⟩ := s.setRelay_told c fun r =>
    { r with state := .failedOpen, coil := false, held := false, waitCore := none, waitTimer := none
             opTimer := none, relTimer := none, origin := o }
  have quiet := Quiet.setRelay s c fun r =>
    { r with state := .failedOpen, coil := false, held := false, waitCore := none, waitTimer := none
             opTimer := none, relTimer := none, origin := o }
  generalize (s.setRelay c fun r => { r with
    state := .failedOpen, coil := false, held := false, waitCore := none, waitTimer := none
    opTimer := none, relTimer := none, origin := o }) = v at *
  have spec := State.lampFailedOpen_spec (s := v) (c := c) (by rw [quiet.work]; exact h)
  rw [quiet.commanded, quiet.now, quiet.work, told.lamp c] at spec
  exact spec

end Sys2Proof.Machine

/-! SUPPORT. The obligation of the proofs and timers of a load relay (R89 to R92, R120, R122, R123, R127): O51, assembled from the cases. -/

namespace Sys2Proof.Machine

variable {s t u : State} {c : Chan} {k : CoreId} {e : Nat}

/-! ### The proving record -/

theorem LampRun.unlit_periodOver (l : LampRun) :
    (l.learning = false ∨ l.addedInPeriod = false → l.unlit.periodOver = { l with
      settle := none, repeatTimer := none, lit := .none, addedInPeriod := false })
    ∧ (l.learning = true → l.addedInPeriod = true → l.learnPeriods < 7 → l.unlit.periodOver = { l with
      settle := none, repeatTimer := none, lit := .none, addedInPeriod := false, learnPeriods := l.learnPeriods + 1 })
    ∧ (l.learning = true → l.addedInPeriod = true → 7 ≤ l.learnPeriods → l.unlit.periodOver = { l with
      settle := none, repeatTimer := none, lit := .none, addedInPeriod := false, learnPeriods := 0
      learning := false, learnSet := [] }) := by
  refine ⟨fun idle => ?_, fun learning added few => ?_, fun learning added many => ?_⟩ <;> unfold LampRun.periodOver
  · have no : ¬ (l.unlit.learning = true ∧ l.unlit.addedInPeriod = true) := fun ⟨learning, added⟩ =>
      idle.elim (Bool.eq_false_iff.mp · learning) (Bool.eq_false_iff.mp · added)
    rw [if_neg no]
    rfl
  · have counted : l.unlit.learning = true ∧ l.unlit.addedInPeriod = true := ⟨learning, added⟩
    have short : ¬ 7 ≤ l.unlit.learnPeriods := Nat.not_le.mpr few
    rw [if_pos counted, if_neg short]
    rfl
  · have counted : l.unlit.learning = true ∧ l.unlit.addedInPeriod = true := ⟨learning, added⟩
    have full : 7 ≤ l.unlit.learnPeriods := many
    rw [if_pos counted, if_pos full]
    rfl

theorem State.release_lit (lit : (s.lamps[c]).lit = .lit)
    (commanded : (s.relays[c]).state = .operated ∨ (s.relays[c]).state = .operating) :
    (s.release c).lamps[c] = (s.lamps[c]).unlit.periodOver
    ∧ (s.release c).meas = (s.withdraw (.lit c)).meas ∧ (s.release c).faults = (s.litEnd c).faults := by
  rw [State.release_started commanded]
  exact State.startRelease_lit lit

/-! ### The proof that closes, by the state of its relay -/

theorem State.relayClosed_welded (h : (s.relays[c]).state = .released ∨ (s.relays[c]).state = .failedOpen) :
    (s.relayClosed c).relays[c] = ({ s.relays[c] with proof := true } : Relay).welded
    ∧ weldedOf c ∈ (s.relayClosed c).faults.confirmed := by
  rw [State.relayClosed_uncommanded h]
  obtain ⟨record, member, -⟩ := (s.updRelay c fun r => { r with proof := true }).uncommanded_spec c
  rw [s.proofRead] at record
  exact ⟨record, member⟩

theorem State.relayClosed_read (h : (s.relays[c]).state = .operated ∨ (s.relays[c]).state = .releasing
    ∨ (s.relays[c]).state = .failedClosed) :
    (s.relayClosed c).relays[c] = { s.relays[c] with proof := true } ∧ (s.relayClosed c).faults = s.faults := by
  rw [State.relayClosed_steady h]
  exact ⟨s.proofRead c true, rfl⟩

/-! ### The proof that opens, by the state of its relay -/

theorem State.relayOpened_read (h : (s.relays[c]).state = .released ∨ (s.relays[c]).state = .operating
    ∨ (s.relays[c]).state = .failedOpen ∨ (s.relays[c]).state = .failedClosed) :
    (s.relayOpened c).relays[c] = { s.relays[c] with proof := false } ∧ (s.relayOpened c).faults = s.faults := by
  rw [State.relayOpened_steady h]
  exact ⟨s.proofRead c false, rfl⟩

theorem State.relayOpened_freed (h : (s.relays[c]).state = .releasing) :
    let r : Relay := { s.relays[c] with proof := false }
    let v := s.relayOpened c
    ((s.relays[c]).held = false → v.relays[c] = r.freed s.now ∧ v.faults = s.faults)
    ∧ ((s.relays[c]).held = true → s.testedCore c = none →
        v.relays[c] = (r.freed s.now).energized (s.now + s.work.channels[c].limits.operate))
    ∧ ((s.relays[c]).held = true → ∀ k, s.testedCore c = some k →
        v.relays[c] = (r.freed s.now).waiting k (s.now + 20)
        ∧ (v.cores[k]).test = .releasing ∧ ((s.cores[k]).test ≠ .releasing → v.survey.connected = none)) := by
  have spec := (s.updRelay c fun r => { r with proof := false }).enterReleased_spec c
  dsimp only at spec
  rw [← State.relayOpened_releasing h, s.proofRead] at spec
  exact spec.2

/-! ### The timers -/

/-- Time that passes touches no part of the unit but the clock. -/
theorem Told.elapseTo (s : State) (e : Nat) : Told s (s.elapseTo e) := by
  obtain ⟨n, clock, h⟩ := s.elapseTo_frame e
  rw [h]
  exact {}

theorem State.elapseTo_kept (s : State) (e : Nat) :
    (s.elapseTo e).faults = s.faults ∧ (s.elapseTo e).work = s.work := by
  obtain ⟨n, clock, h⟩ := s.elapseTo_frame e
  rw [h]
  exact ⟨rfl, rfl⟩

theorem Told.testedCore (h : Told s t) (w : t.work = s.work) (c : Chan) : t.testedCore c = s.testedCore c :=
  State.testedCore_congr h.survey c h.cores w

theorem Sole.elapsed (h : Sole c (s.elapseTo e) u) (x : Chan) (n : x ≠ c) : u.relays[x] = s.relays[x] :=
  (h.others x n).trans ((Told.elapseTo s e).relay x)

/-- What the release timer makes of a relay whose proof is open (R91). -/
theorem State.elapsed_freed (s : State) (c : Chan) (e : Nat) :
    let t := s.elapseTo e
    let v := t.enterReleased c
    let r := s.relays[c]
    (r.held = false → v.relays[c] = r.freed t.now ∧ v.faults = s.faults)
    ∧ (r.held = true → s.testedCore c = none →
        v.relays[c] = (r.freed t.now).energized (t.now + s.work.channels[c].limits.operate))
    ∧ (r.held = true → ∀ k, s.testedCore c = some k →
        v.relays[c] = (r.freed t.now).waiting k (t.now + 20)
        ∧ (v.cores[k]).test = .releasing ∧ ((s.cores[k]).test ≠ .releasing → v.survey.connected = none)) := by
  have told := Told.elapseTo s e
  obtain ⟨faults, work⟩ := s.elapseTo_kept e
  have spec := ((s.elapseTo e).enterReleased_spec c).2
  dsimp only at spec ⊢
  rw [told.relay c, told.testedCore work c, told.cores, faults, work] at spec
  exact spec

/-- Settles O51: the proving record, the proof that closes, the proof that opens, and the three timers. -/
theorem loadRelayEvents : Obligations.LoadRelayEvents := by
  refine ⟨fun c s => ⟨fun used operating opened p => ?_, fun lit commanded => ?_, fun used o => ?_⟩,
    fun c s => ?_, fun c s => ?_, fun c s e => ?_⟩
  · obtain ⟨lamp, meas, faults⟩ := (State.relayClosed_operated operating).2 used
    rw [lampSettle_eq] at lamp
    exact ⟨_, exec_loadProofClosed opened p, lamp, meas, faults⟩
  · obtain ⟨lamp, meas, faults⟩ := State.release_lit lit commanded
    obtain ⟨idle, few, many⟩ := (s.lamps[c]).unlit_periodOver
    exact ⟨meas, faults, fun h => lamp.trans (idle h), fun h a n => lamp.trans (few h a n),
      fun h a n => lamp.trans (many h a n)⟩
  · obtain ⟨l, n, r, lamp, dark, settle, judged⟩ := State.failOpen_lamp used o
    refine ⟨congrArg LampRun.lampsLit lamp, congrArg LampRun.last lamp, (congrArg LampRun.dark lamp).trans dark,
      congrArg LampRun.lit lamp, fun h => (congrArg LampRun.repeatTimer lamp).trans (if_pos h),
      fun h => (congrArg LampRun.repeatTimer lamp).trans (if_neg (Bool.eq_false_iff.mp h)),
      fun h => (congrArg LampRun.settle lamp).trans (settle h), fun least => ?_⟩
    obtain ⟨zero, known⟩ := judged fun red => least (Fin.ext red)
    exact ⟨(congrArg LampRun.litCount lamp).trans zero, known⟩
  · have sole := Sole.relayClosed s c
    exact ⟨fun again => congrArg Host.Outcome.next (if_pos again), fun opened p =>
      ⟨_, exec_loadProofClosed opened p, sole.others, (Quiet.relayClosed s c).engine, sole.smc, sole.ftr,
        fun state => (State.relayClosed_operated state).1, State.relayClosed_welded, State.relayClosed_read⟩⟩
  · have sole := Sole.relayOpened s c
    refine ⟨fun again => congrArg Host.Outcome.next (if_neg (Bool.eq_false_iff.mp again)), fun closed p =>
      ⟨_, exec_loadProofOpened closed p, sole.others, (Quiet.relayOpened s c).engine, sole.smc, sole.ftr,
        State.relayOpened_failed, fun state held => ?_, fun state held free => ?_, fun k state held tested => ?_,
        State.relayOpened_read⟩⟩
    · obtain ⟨record, faults⟩ := (State.relayOpened_freed state).1 held
      refine ⟨record.trans ?_, faults⟩
      unfold Relay.freed
      rw [held]
    · exact (State.relayOpened_freed state).2.1 held free
    · obtain ⟨record, released, unconnected⟩ := (State.relayOpened_freed state).2.2 held k tested
      exact ⟨record, released, unconnected⟩
  · obtain ⟨operates, releases, waits⟩ := exec_relayTimers s c e
    have told := Told.elapseTo s e
    have record := told.relay c
    obtain ⟨free, idle, tested⟩ := s.elapsed_freed c e
    have opened := State.relayReleaseExpiry_open (s := s.elapseTo e) (c := c)
    have closed := State.relayReleaseExpiry_closed (s := s.elapseTo e) (c := c)
    rw [record] at opened closed
    refine ⟨fun due => ?_, fun due proof => ?_, fun due proof held => ?_, fun due proof held => ?_, fun k due core => ?_⟩
    · obtain ⟨failed, sole, member⟩ := (s.elapseTo e).relayOperateExpiry_spec c
      rw [record] at failed
      exact ⟨_, operates due, failed, sole.elapsed, member⟩
    · obtain ⟨welded, sole, member⟩ := closed proof
      exact ⟨_, releases due, welded, sole.elapsed, member⟩
    · obtain ⟨freed, faults⟩ := free held
      refine ⟨_, releases due, ?_⟩
      rw [opened proof]
      refine ⟨freed.trans ?_, (Sole.enterReleased _ c).elapsed, faults⟩
      unfold Relay.freed
      rw [held]
    · refine ⟨_, releases due, ?_⟩
      rw [opened proof]
      exact ⟨(Sole.enterReleased _ c).elapsed, idle held, tested held⟩
    · obtain ⟨failed, sole, member, halted, unconnected, inactive⟩ :=
        State.waitExpiry_spec (s := s.elapseTo e) ((congrArg Relay.waitCore record).trans core)
      rw [record] at failed
      exact ⟨_, waits due, failed, sole.elapsed, member, halted, unconnected, inactive⟩

end Sys2Proof.Machine

/-! SUPPORT. The supply relays (R96, R97) and the flash bus (R98): what the proofs and timers make of the machines of the SMC and the FTR. O52. -/

namespace Sys2Proof.Machine

variable {s t u : State} {a b : SupplyRelay} {e : Nat}

/-! ### One supply relay's record, the same for the SMC and the FTR -/

/-- A supply relay that has left RELEASING: at rest, or commanded again at once where a command was held, its operate timer running until a time. -/
def SupplyRelay.freed (r : SupplyRelay) (e : Nat) : SupplyRelay :=
  if r.held then ({ r with state := .rest, held := false, relTimer := none } : SupplyRelay).closing e
  else { r with state := .rest, held := false, relTimer := none }

/-- A supply relay as the closing of its proof leaves it. -/
def SupplyRelay.closedProof (r : SupplyRelay) : SupplyRelay :=
  match r.state with
  | .rest => ({ r with proof := true } : SupplyRelay).fail
  | .operating => { r with proof := true, state := .operated, opTimer := none }
  | .operated | .releasing | .failed => { r with proof := true }

/-- A supply relay as the opening of its proof leaves it. -/
def SupplyRelay.openedProof (r : SupplyRelay) (e : Nat) : SupplyRelay :=
  match r.state with
  | .operated => ({ r with proof := false } : SupplyRelay).fail
  | .releasing => ({ r with proof := false } : SupplyRelay).freed e
  | .rest | .operating | .failed => { r with proof := false }

theorem SupplyRelay.freed_idle {r : SupplyRelay} (h : r.held = false) :
    r.freed e = { r with state := .rest, relTimer := none } := by
  unfold freed
  rw [h]
  rfl

theorem SupplyRelay.freed_held {r : SupplyRelay} (h : r.held = true) :
    r.freed e = { r with state := .operating, coil := true, held := false, relTimer := none, opTimer := some e } := by
  unfold freed
  rw [if_pos h]
  rfl

theorem SupplyRelay.closedProof_proof (r : SupplyRelay) : r.closedProof.proof = true := by
  unfold closedProof
  split <;> rfl

theorem SupplyRelay.freed_proof (r : SupplyRelay) (e : Nat) : (r.freed e).proof = r.proof := by
  unfold freed
  split <;> rfl

theorem SupplyRelay.openedProof_proof (r : SupplyRelay) (e : Nat) : (r.openedProof e).proof = false := by
  unfold openedProof
  split
  · rfl
  · exact freed_proof _ e
  all_goals rfl

theorem SupplyRelay.closedProof_rest {r : SupplyRelay} (h : r.state = .rest) :
    r.closedProof = ({ r with proof := true } : SupplyRelay).fail := by
  unfold closedProof
  rw [h]

theorem SupplyRelay.closedProof_operating {r : SupplyRelay} (h : r.state = .operating) :
    r.closedProof = { r with proof := true, state := .operated, opTimer := none } := by
  unfold closedProof
  rw [h]

theorem SupplyRelay.openedProof_operated {r : SupplyRelay} (h : r.state = .operated) :
    r.openedProof e = ({ r with proof := false } : SupplyRelay).fail := by
  unfold openedProof
  rw [h]

theorem SupplyRelay.openedProof_releasing {r : SupplyRelay} (h : r.state = .releasing) :
    r.openedProof e = ({ r with proof := false } : SupplyRelay).freed e := by
  unfold openedProof
  rw [h]

theorem SupplyRelay.closedProof_steady {r : SupplyRelay} (h : r.state = .operated ∨ r.state = .releasing ∨ r.state = .failed) :
    r.closedProof = { r with proof := true } := by
  unfold closedProof
  rcases h with h | h | h <;> rw [h]

theorem SupplyRelay.openedProof_steady {r : SupplyRelay} (h : r.state = .rest ∨ r.state = .operating ∨ r.state = .failed) :
    r.openedProof e = { r with proof := false } := by
  unfold openedProof
  rcases h with h | h | h <;> rw [h]

/-! ### The machines in the state -/

/-- The load relays are as they were, the SMC and the FTR are as given. -/
structure Supplied (a b : SupplyRelay) (s t : State) : Prop where
  relays : t.relays = s.relays := by rfl
  smc    : t.smc = a := by rfl
  ftr    : t.ftr = b := by rfl

theorem Supplied.gear (h : Supplied a b s t) (k : Gear t u) : Supplied a b s u where
  relays := k.relays.trans h.relays
  smc := k.smc.trans h.smc
  ftr := k.ftr.trans h.ftr

theorem Gear.of_observe (s : State) {k : Cond} (h : k.cls ≤ 1) (p : k.kind.plain = true) : Gear s (s.observe k) :=
  (FaultsOnly.observeOnce s h p).told.toGear

/-- The relays, the flash bus and the fault confirmation unit are as they were. -/
structure Fed (s t : State) : Prop extends Gear s t where
  faults : t.faults = s.faults := by rfl

theorem Fed.trans (h : Fed s t) (k : Fed t u) : Fed s u where
  toGear := h.toGear.trans k.toGear
  faults := k.faults.trans h.faults

theorem Fed.of (k : Fed t u) (h : Fed s t) : Fed s u := h.trans k

theorem Fed.ite {p : Prop} [Decidable p] (h : Fed s t) (k : Fed s u) : Fed s (if p then t else u) := by
  split <;> assumption

theorem Surveying.fed (h : Surveying s t) : Fed s t := { toGear := h.toGear, faults := h.faults }

theorem Surveying.surveySupply (s : State) : Surveying s s.surveySupply := .abandonIf s _

theorem Surveying.surveyFlash (s : State) : Surveying s s.surveyFlash := .abandonIf s _

/-! ### The flash bus (R98) -/

theorem Fed.lampFlashLive (s : State) : Fed s s.lampFlashLive :=
  State.each_induct (P := Fed s) _ s {} fun c _ t k => k.trans (.ite {} {})

/-- The flash bus judged: it is live while the FTR is proven open and the SMC proven closed. -/
theorem State.judgeFlashBus_spec (h : Supplied a b s t) :
    Supplied a b s t.judgeFlashBus ∧ t.judgeFlashBus.flashBus = (!b.proof && a.proof)
    ∧ t.judgeFlashBus.faults = t.faults := by
  have live : t.busLive = (!b.proof && a.proof) := by
    unfold State.busLive
    rw [h.smc, h.ftr]
  have set : Supplied a b s (State.wantSelection { t with flashBus := t.busLive }) := ⟨h.relays, h.smc, h.ftr⟩
  have told := (Surveying.surveyFlash _).fed.of (.lampFlashLive (State.wantSelection { t with flashBus := t.busLive }))
  rw [← live]
  unfold State.judgeFlashBus
  split
  · next same => exact ⟨h, same.symm, rfl⟩
  · dsimp only
    split
    · exact ⟨set.gear told.toGear, told.flashBus, told.faults⟩
    · exact ⟨set, rfl, rfl⟩

/-! ### The SMC (R96) -/

theorem Fed.smcBeginClose (s : State) : s.smcBeginClose.relays = s.relays ∧ s.smcBeginClose.ftr = s.ftr
    ∧ s.smcBeginClose.faults = s.faults := by
  have set := Surveying.surveySupply (s.setSmc fun r =>
    { r with state := .operating, coil := true, held := false, opTimer := some (s.now + s.work.smc.operate) })
  have told : Fed _ s.smcBeginClose := .ite set.fed (.of (Surveying.surveyFlash _).fed set.fed)
  exact ⟨told.relays, told.ftr, told.faults⟩

/-- The SMC enters OPEN; a held close is taken. -/
theorem State.smcEnterOpen_spec (s : State) :
    Supplied (s.smc.freed (s.now + s.work.smc.operate)) s.ftr s s.smcEnterOpen ∧ s.smcEnterOpen.faults = s.faults := by
  obtain ⟨relays, ftr, faults⟩ := Fed.smcBeginClose
    ((s.setSmc fun r => { r with state := .rest, held := false, relTimer := none }).wantSelection)
  have smc := (State.smcBeginClose_spec
    ((s.setSmc fun r => { r with state := .rest, held := false, relTimer := none }).wantSelection)).2
  unfold State.smcEnterOpen SupplyRelay.freed
  dsimp only
  split
  · exact ⟨⟨relays, smc, ftr⟩, faults⟩
  · exact ⟨⟨rfl, rfl, rfl⟩, rfl⟩

/-- SUPPLY_CUT_FAILED is confirmed, and asked of the mode controller. -/
theorem State.supplyCutFailed_spec (s : State) : Gear s s.supplyCutFailed
    ∧ (⟨.supply .smc, .supplyCutFailed⟩ : Cond) ∈ s.supplyCutFailed.faults.confirmed
    ∧ s.supplyCutFailed.ev.modeReqs = s.ev.modeReqs ++ [.supplyCut] := by
  have report := FaultsOnly.observeOnce s (k := ⟨.supply .smc, .supplyCutFailed⟩) (Nat.zero_le 1) rfl
  obtain ⟨-, -, -, -, -, -, -, -, ev⟩ := report.frame
  refine ⟨.of {} report.told.toGear, s.observe_confirmed (Nat.zero_le 1), ?_⟩
  exact congrArg (fun v : Ev => v.modeReqs ++ [.supplyCut]) ev

/-- The SMC fails to open: its machine, the report and the request (R96). -/
theorem State.smcCutFailed_spec (h : Supplied a b s t) : Supplied a.fail b s (t.setSmc SupplyRelay.fail).supplyCutFailed
    ∧ (⟨.supply .smc, .supplyCutFailed⟩ : Cond) ∈ (t.setSmc SupplyRelay.fail).supplyCutFailed.faults.confirmed
    ∧ (t.setSmc SupplyRelay.fail).supplyCutFailed.ev.modeReqs = t.ev.modeReqs ++ [.supplyCut] := by
  obtain ⟨gear, member, asked⟩ := (t.setSmc SupplyRelay.fail).supplyCutFailed_spec
  have set : Supplied a.fail b s (t.setSmc SupplyRelay.fail) := ⟨h.relays, congrArg SupplyRelay.fail h.smc, h.ftr⟩
  exact ⟨set.gear gear, member, asked⟩

theorem State.smcNoOperate_spec (h : Supplied a b s t) : Supplied a.fail b s t.smcOperateExpiry
    ∧ (⟨.supply .smc, .relayNoOperate⟩ : Cond) ∈ t.smcOperateExpiry.faults.confirmed := by
  have set : Supplied a.fail b s (t.setSmc SupplyRelay.fail) := ⟨h.relays, congrArg SupplyRelay.fail h.smc, h.ftr⟩
  exact ⟨set.gear (.of_observe _ (Nat.le_refl 1) rfl), State.observe_confirmed _ (Nat.le_refl 1)⟩

/-- What an accepted proof-closed of the SMC does by its state, before the surveyor is told and the flash bus judged. -/
def State.smcClosing (s : State) : State :=
  match s.smc.state with
  | .rest => (s.setSmc SupplyRelay.fail).supplyCutFailed
  | .operating => s.setSmc fun r => { r with state := .operated, opTimer := none }
  | .operated | .releasing | .failed => s

theorem State.smcClosed_eq (s : State) :
    s.smcClosed = ((s.setSmc fun r => { r with proof := true }).wantSelection.smcClosing).surveySupply.judgeFlashBus := rfl

theorem State.smcClosing_spec {r : SupplyRelay} (h : Supplied { r with proof := true } b s t) :
    Supplied r.closedProof b s t.smcClosing
    ∧ (r.state = .rest → (⟨.supply .smc, .supplyCutFailed⟩ : Cond) ∈ t.smcClosing.faults.confirmed) := by
  have state : t.smc.state = r.state := by rw [h.smc]
  unfold State.smcClosing
  rw [state]
  cases e : r.state
  case rest =>
    obtain ⟨failed, member, -⟩ := State.smcCutFailed_spec h
    rw [SupplyRelay.closedProof_rest e]
    exact ⟨failed, fun _ => member⟩
  case operating =>
    rw [SupplyRelay.closedProof_operating e]
    exact ⟨⟨h.relays, congrArg (fun r : SupplyRelay => { r with state := .operated, opTimer := none }) h.smc, h.ftr⟩, nofun⟩
  all_goals
    rw [SupplyRelay.closedProof_steady (by simp [e])]
    exact ⟨h, nofun⟩

/-- The closing proof of the SMC: what its machine becomes, the flash bus, and the report where it was open. -/
theorem State.smcClosed_spec (s : State) : Supplied s.smc.closedProof s.ftr s s.smcClosed
    ∧ s.smcClosed.flashBus = !s.ftr.proof
    ∧ (s.smc.state = .rest → (⟨.supply .smc, .supplyCutFailed⟩ : Cond) ∈ s.smcClosed.faults.confirmed) := by
  have read : Supplied { s.smc with proof := true } s.ftr s
    (s.setSmc fun r => { r with proof := true }).wantSelection := {}
  obtain ⟨supplied, member⟩ := State.smcClosing_spec read
  have told := Surveying.surveySupply (s.setSmc fun r => { r with proof := true }).wantSelection.smcClosing
  obtain ⟨judged, flash, faults⟩ := State.judgeFlashBus_spec (supplied.gear told.toGear)
  rw [s.smc.closedProof_proof, Bool.and_true] at flash
  rw [s.smcClosed_eq, faults, told.faults]
  exact ⟨judged, flash, member⟩

/-- What an accepted proof-opened of the SMC does by its state, before the flash bus is judged. -/
def State.smcOpening (s : State) : State :=
  match s.smc.state with
  | .operated => s.smcOperateExpiry
  | .releasing => s.smcEnterOpen
  | .rest | .operating | .failed => s

theorem State.smcOpened_eq (s : State) :
    s.smcOpened = ((s.setSmc fun r => { r with proof := false }).wantSelection.smcOpening).judgeFlashBus := rfl

theorem State.smcFreed_spec (h : Supplied a b s t) (n : t.now = s.now) (w : t.work = s.work) :
    Supplied (a.freed (s.now + s.work.smc.operate)) b s t.smcEnterOpen ∧ t.smcEnterOpen.faults = t.faults := by
  obtain ⟨supplied, faults⟩ := t.smcEnterOpen_spec
  have smc := supplied.smc
  rw [h.smc, n, w] at smc
  exact ⟨⟨supplied.relays.trans h.relays, smc, supplied.ftr.trans h.ftr⟩, faults⟩

/-- The opening proof of the SMC: what its machine becomes, the flash bus, and the report where it was operated. -/
theorem State.smcOpened_spec (s : State) : Supplied (s.smc.openedProof (s.now + s.work.smc.operate)) s.ftr s s.smcOpened
    ∧ s.smcOpened.flashBus = false
    ∧ (s.smc.state = .operated → (⟨.supply .smc, .relayNoOperate⟩ : Cond) ∈ s.smcOpened.faults.confirmed) := by
  have read : Supplied { s.smc with proof := false } s.ftr s
    (s.setSmc fun r => { r with proof := false }).wantSelection := {}
  have opening : Supplied (s.smc.openedProof (s.now + s.work.smc.operate)) s.ftr s
        (s.setSmc fun r => { r with proof := false }).wantSelection.smcOpening
      ∧ (s.smc.state = .operated → (⟨.supply .smc, .relayNoOperate⟩ : Cond)
        ∈ (s.setSmc fun r => { r with proof := false }).wantSelection.smcOpening.faults.confirmed) := by
    unfold State.smcOpening
    rw [congrArg SupplyRelay.state read.smc]
    cases e : s.smc.state
    case operated =>
      obtain ⟨failed, member⟩ := State.smcNoOperate_spec read
      rw [SupplyRelay.openedProof_operated e]
      exact ⟨failed, fun _ => member⟩
    case releasing =>
      rw [SupplyRelay.openedProof_releasing e]
      exact ⟨(State.smcFreed_spec read rfl rfl).1, nofun⟩
    all_goals
      rw [SupplyRelay.openedProof_steady (by simp [e])]
      exact ⟨read, nofun⟩
  obtain ⟨judged, flash, faults⟩ := State.judgeFlashBus_spec opening.1
  rw [SupplyRelay.openedProof_proof, Bool.and_false] at flash
  rw [s.smcOpened_eq, faults]
  exact ⟨judged, flash, opening.2⟩

/-! ### The FTR (R97) -/

/-- An open command to the SMC changes its machine alone. -/
theorem State.smcOpen_frame (s : State) : s.smcOpen = { s with smc := s.smcOpen.smc } := by
  unfold State.smcOpen
  split <;> rfl

/-- The FTR fails in the NORMAL position: the report, and the fallback that opens the SMC. -/
theorem State.ftrWelded_spec (h : Supplied s.smc b s t) (n : t.now = s.now) (w : t.work = s.work) :
    Supplied s.smcOpen.smc b.fail s t.ftrWelded
    ∧ (⟨.supply .ftr, .relayWelded⟩ : Cond) ∈ t.ftrWelded.faults.confirmed := by
  have report := FaultsOnly.observeOnce (t.setFtr SupplyRelay.fail) (k := ⟨.supply .ftr, .relayWelded⟩) (Nat.le_refl 1) rfl
  have member := (t.setFtr SupplyRelay.fail).observe_confirmed (k := ⟨.supply .ftr, .relayWelded⟩) (Nat.le_refl 1)
  have set : Supplied s.smc b.fail s (t.setFtr SupplyRelay.fail) := ⟨h.relays, h.smc, congrArg SupplyRelay.fail h.ftr⟩
  obtain ⟨-, work, -, -, -, now, -, -, -⟩ := report.frame
  have failed := set.gear report.told.toGear
  unfold State.ftrWelded
  generalize (t.setFtr SupplyRelay.fail).observe ⟨.supply .ftr, .relayWelded⟩ = v at *
  have smc := State.smcOpen_congr failed.smc (now.trans n) (work.trans w)
  rw [v.smcOpen_frame]
  exact ⟨⟨failed.relays, smc, failed.ftr⟩, member⟩

theorem State.ftrNoOperate_spec (h : Supplied a b s t) : Supplied a b.fail s t.ftrOperateExpiry
    ∧ (⟨.supply .ftr, .relayNoOperate⟩ : Cond) ∈ t.ftrOperateExpiry.faults.confirmed := by
  have set : Supplied a b.fail s (t.setFtr SupplyRelay.fail) := ⟨h.relays, h.smc, congrArg SupplyRelay.fail h.ftr⟩
  exact ⟨set.gear (.of_observe _ (Nat.le_refl 1) rfl), State.observe_confirmed _ (Nat.le_refl 1)⟩

/-- The FTR enters FLASH; a held to-normal is taken. -/
theorem State.ftrFreed_spec (h : Supplied a b s t) (n : t.now = s.now) (w : t.work = s.work) :
    Supplied a (b.freed (s.now + s.work.ftr.operate)) s t.ftrEnterFlash ∧ t.ftrEnterFlash.faults = t.faults := by
  rw [← n, ← w, ← h.ftr]
  unfold State.ftrEnterFlash SupplyRelay.freed
  dsimp only
  split
  · exact ⟨⟨h.relays, h.smc, rfl⟩, rfl⟩
  · exact ⟨⟨h.relays, h.smc, rfl⟩, rfl⟩

/-- What an accepted proof-closed of the FTR does by its state, before the flash bus is judged. -/
def State.ftrClosing (s : State) : State :=
  match s.ftr.state with
  | .rest => s.ftrWelded
  | .operating => s.setFtr fun r => { r with state := .operated, opTimer := none }
  | .operated | .releasing | .failed => s

theorem State.ftrClosed_eq (s : State) :
    s.ftrClosed = (s.setFtr fun r => { r with proof := true }).ftrClosing.judgeFlashBus := rfl

/-- The closing proof of the FTR: what the machines become, the flash bus, and the report and the fallback where it was at rest. -/
theorem State.ftrClosed_spec (s : State) :
    Supplied (if s.ftr.state = .rest then s.smcOpen.smc else s.smc) s.ftr.closedProof s s.ftrClosed
    ∧ s.ftrClosed.flashBus = false
    ∧ (s.ftr.state = .rest → (⟨.supply .ftr, .relayWelded⟩ : Cond) ∈ s.ftrClosed.faults.confirmed) := by
  have read : Supplied s.smc { s.ftr with proof := true } s (s.setFtr fun r => { r with proof := true }) := {}
  have closing : Supplied (if s.ftr.state = .rest then s.smcOpen.smc else s.smc) s.ftr.closedProof s
        (s.setFtr fun r => { r with proof := true }).ftrClosing
      ∧ (s.ftr.state = .rest → (⟨.supply .ftr, .relayWelded⟩ : Cond)
        ∈ (s.setFtr fun r => { r with proof := true }).ftrClosing.faults.confirmed) := by
    unfold State.ftrClosing
    rw [congrArg SupplyRelay.state read.ftr]
    cases e : s.ftr.state
    case rest =>
      obtain ⟨failed, member⟩ := State.ftrWelded_spec read rfl rfl
      rw [SupplyRelay.closedProof_rest e]
      exact ⟨failed, fun _ => member⟩
    case operating =>
      rw [SupplyRelay.closedProof_operating e]
      exact ⟨⟨rfl, rfl, rfl⟩, nofun⟩
    all_goals
      rw [SupplyRelay.closedProof_steady (by simp [e])]
      exact ⟨read, nofun⟩
  obtain ⟨judged, flash, faults⟩ := State.judgeFlashBus_spec closing.1
  rw [SupplyRelay.closedProof_proof, Bool.not_true, Bool.false_and] at flash
  rw [s.ftrClosed_eq, faults]
  exact ⟨judged, flash, closing.2⟩

/-- What an accepted proof-opened of the FTR does by its state, before the flash bus is judged. -/
def State.ftrOpening (s : State) : State :=
  match s.ftr.state with
  | .operated => s.ftrOperateExpiry
  | .releasing => s.ftrEnterFlash
  | .rest | .operating | .failed => s

theorem State.ftrOpened_eq (s : State) :
    s.ftrOpened = (s.setFtr fun r => { r with proof := false }).ftrOpening.judgeFlashBus := rfl

/-- The opening proof of the FTR: what its machine becomes, the flash bus, and the report where it was operated. -/
theorem State.ftrOpened_spec (s : State) : Supplied s.smc (s.ftr.openedProof (s.now + s.work.ftr.operate)) s s.ftrOpened
    ∧ s.ftrOpened.flashBus = s.smc.proof
    ∧ (s.ftr.state = .operated → (⟨.supply .ftr, .relayNoOperate⟩ : Cond) ∈ s.ftrOpened.faults.confirmed) := by
  have read : Supplied s.smc { s.ftr with proof := false } s (s.setFtr fun r => { r with proof := false }) := {}
  have opening : Supplied s.smc (s.ftr.openedProof (s.now + s.work.ftr.operate)) s
        (s.setFtr fun r => { r with proof := false }).ftrOpening
      ∧ (s.ftr.state = .operated → (⟨.supply .ftr, .relayNoOperate⟩ : Cond)
        ∈ (s.setFtr fun r => { r with proof := false }).ftrOpening.faults.confirmed) := by
    unfold State.ftrOpening
    rw [congrArg SupplyRelay.state read.ftr]
    cases e : s.ftr.state
    case operated =>
      obtain ⟨failed, member⟩ := State.ftrNoOperate_spec read
      rw [SupplyRelay.openedProof_operated e]
      exact ⟨failed, fun _ => member⟩
    case releasing =>
      rw [SupplyRelay.openedProof_releasing e]
      exact ⟨(State.ftrFreed_spec read rfl rfl).1, nofun⟩
    all_goals
      rw [SupplyRelay.openedProof_steady (by simp [e])]
      exact ⟨read, nofun⟩
  obtain ⟨judged, flash, faults⟩ := State.judgeFlashBus_spec opening.1
  rw [SupplyRelay.openedProof_proof, Bool.not_false, Bool.true_and] at flash
  rw [s.ftrOpened_eq, faults]
  exact ⟨judged, flash, opening.2⟩

/-! ### What the events do -/

theorem exec_smcProofs (p : s.power.phase = .running) :
    (s.smc.proof = false → exec .smcProofClosed s = .next (s.cascade s.smcClosed))
    ∧ (s.smc.proof = true → exec .smcProofOpened s = .next (s.cascade s.smcOpened)) := by
  have running := State.running_of p
  refine ⟨fun h => ?_, fun h => ?_⟩
  · show execSmcProofClosed s = _
    unfold execSmcProofClosed
    rw [if_neg (Bool.eq_false_iff.mp h), if_pos running]
  · show execSmcProofOpened s = _
    unfold execSmcProofOpened
    rw [if_pos h, if_pos running]

theorem exec_ftrProofs (p : s.power.phase = .running) :
    (s.ftr.proof = false → exec .ftrProofClosed s = .next (s.cascade s.ftrClosed))
    ∧ (s.ftr.proof = true → exec .ftrProofOpened s = .next (s.cascade s.ftrOpened)) := by
  have running := State.running_of p
  refine ⟨fun h => ?_, fun h => ?_⟩
  · show execFtrProofClosed s = _
    unfold execFtrProofClosed
    rw [if_neg (Bool.eq_false_iff.mp h), if_pos running]
  · show execFtrProofOpened s = _
    unfold execFtrProofOpened
    rw [if_pos h, if_pos running]

/-- What the four timers run, once time has passed to their ends. -/
theorem exec_supplyTimers (s : State) (e : Nat) :
    (s.smc.opTimer = some e → exec .smcOperateTimerExpiry s = .next ((s.elapseTo e).cascade (s.elapseTo e).smcOperateExpiry))
    ∧ (s.smc.relTimer = some e →
      exec .smcReleaseTimerExpiry s = .next ((s.elapseTo e).cascade (s.elapseTo e).smcReleaseExpiry))
    ∧ (s.ftr.opTimer = some e → exec .ftrOperateTimerExpiry s = .next ((s.elapseTo e).cascade (s.elapseTo e).ftrOperateExpiry))
    ∧ (s.ftr.relTimer = some e →
      exec .ftrReleaseTimerExpiry s = .next ((s.elapseTo e).cascade (s.elapseTo e).ftrReleaseExpiry)) :=
  ⟨fun h => congrArg Host.Outcome.next (State.due_some h _), fun h => congrArg Host.Outcome.next (State.due_some h _),
    fun h => congrArg Host.Outcome.next (State.due_some h _), fun h => congrArg Host.Outcome.next (State.due_some h _)⟩

theorem State.elapseTo_modeReqs (s : State) (e : Nat) : (s.elapseTo e).ev.modeReqs = s.ev.modeReqs := by
  obtain ⟨n, clock, h⟩ := s.elapseTo_frame e
  rw [h]

theorem State.supplyReleases_closed (s : State) :
    (s.smc.proof = true → s.smcReleaseExpiry = (s.setSmc SupplyRelay.fail).supplyCutFailed)
    ∧ (s.ftr.proof = true → s.ftrReleaseExpiry = s.ftrWelded) :=
  ⟨fun h => if_pos h, fun h => if_pos h⟩

theorem State.supplyReleases_open (s : State) :
    (s.smc.proof = false → s.smcReleaseExpiry = s.smcEnterOpen)
    ∧ (s.ftr.proof = false → s.ftrReleaseExpiry = s.ftrEnterFlash) :=
  ⟨fun h => if_neg (Bool.eq_false_iff.mp h), fun h => if_neg (Bool.eq_false_iff.mp h)⟩

theorem State.elapseTo_supplied (s : State) (e : Nat) : Supplied s.smc s.ftr s (s.elapseTo e) :=
  have told := Told.elapseTo s e
  ⟨told.relays, told.smc, told.ftr⟩

/-- At its release timer, its proof open, the SMC enters OPEN. -/
theorem State.smcElapsed_freed (s : State) (e : Nat) :
    let t := s.elapseTo e
    Supplied (s.smc.freed (t.now + s.work.smc.operate)) s.ftr s t.smcEnterOpen ∧ t.smcEnterOpen.faults = s.faults := by
  obtain ⟨faults, work⟩ := s.elapseTo_kept e
  have kept := s.elapseTo_supplied e
  obtain ⟨supplied, same⟩ := State.smcFreed_spec (t := s.elapseTo e) ⟨rfl, kept.smc, kept.ftr⟩ rfl rfl
  rw [work] at supplied
  exact ⟨⟨supplied.relays.trans kept.relays, supplied.smc, supplied.ftr⟩, same.trans faults⟩

/-- At its release timer, its proof open, the FTR enters FLASH. -/
theorem State.ftrElapsed_freed (s : State) (e : Nat) :
    let t := s.elapseTo e
    Supplied s.smc (s.ftr.freed (t.now + s.work.ftr.operate)) s t.ftrEnterFlash ∧ t.ftrEnterFlash.faults = s.faults := by
  obtain ⟨faults, work⟩ := s.elapseTo_kept e
  have kept := s.elapseTo_supplied e
  obtain ⟨supplied, same⟩ := State.ftrFreed_spec (t := s.elapseTo e) ⟨rfl, kept.smc, kept.ftr⟩ rfl rfl
  rw [work] at supplied
  exact ⟨⟨supplied.relays.trans kept.relays, supplied.smc, supplied.ftr⟩, same.trans faults⟩

/-- At its release timer, its proof closed, the FTR has failed in the NORMAL position. -/
theorem State.ftrElapsed_welded (s : State) (e : Nat) :
    let t := s.elapseTo e
    Supplied t.smcOpen.smc s.ftr.fail s t.ftrWelded ∧ (⟨.supply .ftr, .relayWelded⟩ : Cond) ∈ t.ftrWelded.faults.confirmed := by
  have kept := s.elapseTo_supplied e
  obtain ⟨supplied, member⟩ := State.ftrWelded_spec (t := s.elapseTo e) ⟨rfl, rfl, kept.ftr⟩ rfl rfl
  exact ⟨⟨supplied.relays.trans kept.relays, supplied.smc, supplied.ftr⟩, member⟩

/-- Settles O52: the proofs and the timers of the SMC, then those of the FTR. -/
theorem supplyRelayEvents : Obligations.SupplyRelayEvents := by
  refine ⟨fun s e => ?_, fun s e => ?_⟩
  · obtain ⟨operates, releases, -, -⟩ := exec_supplyTimers s e
    have kept := s.elapseTo_supplied e
    have asked := s.elapseTo_modeReqs e
    have closes := (s.elapseTo e).supplyReleases_closed.1
    have opens := (s.elapseTo e).supplyReleases_open.1
    rw [kept.smc] at closes opens
    have freed := State.smcElapsed_freed s e
    refine ⟨fun again => congrArg Host.Outcome.next (if_pos again),
      fun again => congrArg Host.Outcome.next (if_neg (Bool.eq_false_iff.mp again)), fun opened p => ?_, fun closed p => ?_,
      fun due => ?_, fun due proof => ?_, fun due proof held => ?_, fun due proof held => ?_⟩
    · obtain ⟨supplied, flash, member⟩ := s.smcClosed_spec
      exact ⟨_, (exec_smcProofs p).1 opened, supplied.relays, supplied.ftr, (Quiet.smcClosed s).engine, flash,
        fun h => supplied.smc.trans (SupplyRelay.closedProof_operating h),
        fun h => ⟨supplied.smc.trans (SupplyRelay.closedProof_rest h), member h⟩,
        fun h => supplied.smc.trans (SupplyRelay.closedProof_steady h)⟩
    · obtain ⟨supplied, flash, member⟩ := s.smcOpened_spec
      refine ⟨_, (exec_smcProofs p).2 closed, supplied.relays, supplied.ftr, (Quiet.smcOpened s).engine, flash,
        fun h => ⟨supplied.smc.trans (SupplyRelay.openedProof_operated h), member h⟩,
        fun h held => supplied.smc.trans ((SupplyRelay.openedProof_releasing h).trans (SupplyRelay.freed_idle held)),
        fun h held => supplied.smc.trans ((SupplyRelay.openedProof_releasing h).trans (SupplyRelay.freed_held held)),
        fun h => supplied.smc.trans (SupplyRelay.openedProof_steady h)⟩
    · obtain ⟨supplied, member⟩ := State.smcNoOperate_spec kept
      exact ⟨_, operates due, supplied.smc, supplied.relays, member⟩
    · obtain ⟨supplied, member, request⟩ := State.smcCutFailed_spec kept
      refine ⟨_, releases due, ?_⟩
      rw [closes proof]
      exact ⟨supplied.smc, supplied.relays, member, request.trans (by rw [asked])⟩
    · obtain ⟨supplied, same⟩ := freed
      refine ⟨_, releases due, ?_⟩
      rw [opens proof]
      exact ⟨supplied.smc.trans (SupplyRelay.freed_idle held), supplied.relays, same⟩
    · obtain ⟨supplied, -⟩ := freed
      refine ⟨_, releases due, ?_⟩
      rw [opens proof]
      exact ⟨supplied.relays, supplied.smc.trans (SupplyRelay.freed_held held)⟩
  · obtain ⟨-, -, operates, releases⟩ := exec_supplyTimers s e
    have kept := s.elapseTo_supplied e
    have closes := (s.elapseTo e).supplyReleases_closed.2
    have opens := (s.elapseTo e).supplyReleases_open.2
    rw [kept.ftr] at closes opens
    have freed := State.ftrElapsed_freed s e
    have welded := State.ftrElapsed_welded s e
    refine ⟨fun again => congrArg Host.Outcome.next (if_pos again),
      fun again => congrArg Host.Outcome.next (if_neg (Bool.eq_false_iff.mp again)), fun opened p => ?_, fun closed p => ?_,
      fun due => ?_, fun due proof => ?_, fun due proof held => ?_, fun due proof held => ?_⟩
    · obtain ⟨supplied, flash, member⟩ := s.ftrClosed_spec
      have smc := supplied.smc
      refine ⟨_, (exec_ftrProofs p).1 opened, supplied.relays, (Quiet.ftrClosed s).engine, flash, fun h => ?_, fun h => ?_,
        fun h => ?_⟩
      · rw [if_neg (by simp [h])] at smc
        exact ⟨supplied.ftr.trans (SupplyRelay.closedProof_operating h), smc⟩
      · rw [if_pos h] at smc
        exact ⟨supplied.ftr.trans (SupplyRelay.closedProof_rest h), member h, smc⟩
      · rw [if_neg (by rcases h with h | h | h <;> simp [h])] at smc
        exact ⟨supplied.ftr.trans (SupplyRelay.closedProof_steady h), smc⟩
    · obtain ⟨supplied, flash, member⟩ := s.ftrOpened_spec
      exact ⟨_, (exec_ftrProofs p).2 closed, supplied.relays, (Quiet.ftrOpened s).engine, supplied.smc, flash,
        fun h => ⟨supplied.ftr.trans (SupplyRelay.openedProof_operated h), member h⟩,
        fun h held => supplied.ftr.trans ((SupplyRelay.openedProof_releasing h).trans (SupplyRelay.freed_idle held)),
        fun h held => supplied.ftr.trans ((SupplyRelay.openedProof_releasing h).trans (SupplyRelay.freed_held held)),
        fun h => supplied.ftr.trans (SupplyRelay.openedProof_steady h)⟩
    · obtain ⟨supplied, member⟩ := State.ftrNoOperate_spec kept
      exact ⟨_, operates due, supplied.ftr, supplied.relays, supplied.smc, member⟩
    · obtain ⟨supplied, member⟩ := welded
      refine ⟨_, releases due, ?_⟩
      rw [closes proof]
      exact ⟨supplied.ftr, supplied.smc, supplied.relays, member⟩
    · obtain ⟨supplied, same⟩ := freed
      refine ⟨_, releases due, ?_⟩
      rw [opens proof]
      exact ⟨supplied.ftr.trans (SupplyRelay.freed_idle held), supplied.smc, supplied.relays, same⟩
    · obtain ⟨supplied, -⟩ := freed
      refine ⟨_, releases due, ?_⟩
      rw [opens proof]
      exact ⟨supplied.relays, supplied.ftr.trans (SupplyRelay.freed_held held)⟩

end Sys2Proof.Machine

/-! SUPPORT. The end of a pass and the beginning of the next (R142, R149, R150), and the end of a test (R146). -/

namespace Sys2Proof.Machine

variable {s t u : State} {k : CoreId} {e : Nat}

/-! ### A step for each entry of a list -/

/-- Steps of which each changes its own entry of a vector alone: an entry is changed once, by its own step, where the list has it. -/
theorem State.each_get {α : Type} {n : Nat} {f : Fin n → State → State} {P : State → Prop} (part : State → Vector α n)
    (g : Fin n → α → α) (step : ∀ i t, P t → P (f i t) ∧ part (f i t) = upd (part t) i (g i)) :
    ∀ (l : List (Fin n)) (s : State), l.Nodup → P s →
      P (s.each l f) ∧ ∀ j : Fin n, (part (s.each l f))[j] = if j ∈ l then g j (part s)[j] else (part s)[j]
  | [], _, _, p => ⟨p, fun _ => (if_neg List.not_mem_nil).symm⟩
  | i :: l, s, nd, p => by
    obtain ⟨fresh, nd⟩ := List.nodup_cons.mp nd
    obtain ⟨p, changed⟩ := step i s p
    obtain ⟨kept, rest⟩ := State.each_get part g step l (f i s) nd p
    refine ⟨kept, fun j => (rest j).trans ?_⟩
    rw [changed, upd_get]
    by_cases e : i = j
    · subst e
      simp [fresh, -Fin.getElem_fin]
    · simp [e, Ne.symm e, -Fin.getElem_fin]

/-! ### The untested-pass counts (R149) -/

/-- One more pass in which a core was not tested, up to 3. -/
def CoreRun.missed (r : CoreRun) : CoreRun :=
  if r.hist.untested < 3 then { r with hist := { r.hist with untested := r.hist.untested + 1 } } else r

/-- What the end of a pass makes of the counts of one core still due: the count, and the third one's report. -/
def State.countMissed (k : CoreId) (t : State) : State :=
  if (t.cores[k]).hist.untested < 3 then
    if (t.cores[k]).hist.untested + 1 = 3 then
      (t.updCore k fun r => { r with hist := { r.hist with untested := (t.cores[k]).hist.untested + 1 } }).observe
        ⟨.core k, .coreUntestable⟩
    else t.updCore k fun r => { r with hist := { r.hist with untested := (t.cores[k]).hist.untested + 1 } }
  else t

theorem State.countUntested_eq (s : State) :
    s.countUntested = s.each (allCores.filter fun k => (s.cores[k]).mark.isDue) State.countMissed := rfl

theorem upd_congr {α : Type} {n : Nat} (v : Vector α n) (i : Fin n) {f g : α → α} (h : f v[i] = g v[i]) :
    upd v i f = upd v i g := by
  unfold upd
  rw [h]

theorem upd_kept {α : Type} {n : Nat} (v : Vector α n) (i : Fin n) {f : α → α} (h : f v[i] = v[i]) : upd v i f = v := by
  unfold upd
  rw [h]
  exact Vector.set_getElem_self i.isLt

/-- The count touches one core's record, and beside it the fault confirmation unit and the link alone. -/
theorem State.countMissed_spec (k : CoreId) (t : State) :
    FaultsOnly { t with cores := upd t.cores k CoreRun.missed } (t.countMissed k) := by
  have counted : (t.cores[k]).hist.untested < 3 →
      t.updCore k (fun r => { r with hist := { r.hist with untested := (t.cores[k]).hist.untested + 1 } })
        = { t with cores := upd t.cores k CoreRun.missed } := fun few => by
    refine congrArg (fun v => { t with cores := v }) (upd_congr _ _ ?_)
    unfold CoreRun.missed
    rw [if_pos few]
  unfold State.countMissed
  split
  · next few =>
    rw [counted few]
    split
    · exact FaultsOnly.observeOnce _ (Nat.zero_le 1) rfl
    · exact FaultsOnly.refl _
  · next full =>
    rw [upd_kept _ _ (f := CoreRun.missed) (if_neg full)]
    exact FaultsOnly.refl _

/-- The counts at the end of a pass: every core still due has one more, and nothing else is changed but by its report. -/
theorem State.countUntested_spec (s : State) :
    s.countUntested.relays = s.relays ∧ s.countUntested.survey = s.survey
    ∧ ∀ k : CoreId, s.countUntested.cores[k] = if (s.cores[k]).mark.isDue = true then (s.cores[k]).missed else s.cores[k] := by
  obtain ⟨⟨relays, survey⟩, cores⟩ := State.each_get (P := fun t => t.relays = s.relays ∧ t.survey = s.survey) State.cores
    (fun _ => CoreRun.missed) (f := State.countMissed) (fun k t kept => by
      have told := (State.countMissed_spec k t).told
      exact ⟨⟨told.relays.trans kept.1, told.survey.trans kept.2⟩, told.cores⟩)
    (allCores.filter fun k => (s.cores[k]).mark.isDue) s ((List.nodup_finRange 64).filter _) ⟨rfl, rfl⟩
  rw [s.countUntested_eq]
  refine ⟨relays, survey, fun k => (cores k).trans ?_⟩
  simp only [allCores, List.mem_filter, List.mem_finRange, true_and]

/-! ### The end of a pass (R149, R150) -/

/-- The pass ended, before a held start. -/
def State.passEnded (s : State) : State := s.countUntested.closePass .ok

/-- A pass has ended: what is left of the surveyor and of each core. -/
structure PassEnded (s t : State) : Prop where
  relays : t.relays = s.relays
  work   : t.work = s.work
  now    : t.now = s.now
  survey : t.survey = { s.survey with active := false, window := none, eligibility := none }
  core   : ∀ k : CoreId, t.cores[k]
    = (if (s.cores[k]).mark.isDue = true then (s.cores[k]).missed else s.cores[k]).passOver
  job    : t.hasJob .surveyNow = false
  stored : ImageKind.survey ∈ t.store.queue

theorem State.passEnded_spec (s : State) : PassEnded s s.passEnded := by
  obtain ⟨relays, survey, cores⟩ := s.countUntested_spec
  have quiet : Quiet s s.passEnded := .of (.closePass _ _) (.countUntested s)
  have closed := s.countUntested.closePass_spec .ok
  exact {
    relays := closed.relays.trans relays
    work := quiet.work
    now := quiet.now
    survey := closed.survey.trans (by rw [survey])
    core := fun k => (closed.core k).trans (by rw [cores k])
    job := closed.job
    stored := closed.stored }

theorem State.endPass_eq (s : State) : s.endPass = if s.survey.startHeld = true ∧ s.survey.halted = false then
    (s.passEnded.beginPass false).wantSelection else s.passEnded := by
  have survey := s.passEnded_spec.survey
  have e : s.endPass = if s.passEnded.survey.startHeld && !s.passEnded.survey.halted then
    (s.passEnded.beginPass false).wantSelection else s.passEnded := rfl
  rw [e, survey]
  simp only [Bool.and_eq_true, Bool.not_eq_true']

/-! ### The beginning of a pass (R142, R149) -/

/-- A core's record at the beginning of a pass. -/
def CoreRun.passBegun (r : CoreRun) (x : Role) : CoreRun :=
  if x = .unused then { r with mark := .none } else { r with mark := .due, abandons := 0 }

theorem CoreRun.passBegun_mark (r : CoreRun) (x : Role) :
    (r.passBegun x).mark = if x = .unused then .none else .due := by
  unfold passBegun
  split <;> rfl

theorem CoreRun.passBegun_hist (r : CoreRun) (x : Role) : (r.passBegun x).hist = r.hist := by
  unfold passBegun
  split <;> rfl

theorem State.beginPass_core (s : State) (full : Bool) (k : CoreId) :
    (s.beginPass full).cores[k] = (s.cores[k]).passBegun s.work.cores[k].role := by
  have cores : (s.beginPass full).cores = mapIx s.cores fun k r => r.passBegun s.work.cores[k].role := by
    unfold State.beginPass
    rfl
  rw [cores]
  exact mapIx_get _ _ k

/-- The survey record of the next pass, which begins at a time with an interval of hours. -/
def Survey.nextBegun (y : Survey) (now h : Nat) : Survey :=
  { y with
    active := true, full := false, passNo := if y.passNo = 65535 then 1 else y.passNo + 1
    interval := some (now + 3600000 * h), window := some (now + 14400000), startHeld := false }

theorem State.beginPass_survey (s : State) :
    (s.beginPass false).survey = s.survey.nextBegun s.now s.work.thr.hours := by
  unfold State.beginPass
  rfl

/-- The next pass begun, with the occasion for its selection. -/
structure PassBegun (s t : State) : Prop where
  relays : t.relays = s.relays
  survey : t.survey = s.survey.nextBegun s.now s.work.thr.hours
  core   : ∀ k : CoreId, t.cores[k] = (s.cores[k]).passBegun s.work.cores[k].role
  select : t.ev.select = true
  link   : t.link = s.link
  store  : t.store = s.store

theorem State.passBegun_spec (s : State) : PassBegun s (s.beginPass false).wantSelection := by
  have relays := s.beginPass_relays false
  have link := s.beginPass_link false
  have store := s.beginPass_store false
  have survey := s.beginPass_survey
  have core := s.beginPass_core false
  generalize s.beginPass false = v at *
  exact ⟨relays, survey, core, rfl, link, store⟩

/-- What no end of a pass touches, whether the next begins at once or not. -/
theorem State.endPass_frame (s : State) : s.endPass.relays = s.relays
    ∧ s.endPass.survey.release = s.survey.release ∧ s.endPass.survey.underTest = s.survey.underTest
    ∧ s.endPass.survey.lineClosed = s.survey.lineClosed
    ∧ ∀ k : CoreId, (s.cores[k]).test = .idle → (s.endPass.cores[k]).test = .idle := by
  have ended := s.passEnded_spec
  have idle : ∀ k : CoreId, (s.cores[k]).test = .idle → (s.passEnded.cores[k]).test = .idle := fun k idle => by
    rw [ended.core k]
    refine CoreRun.passOver_idle ?_
    unfold CoreRun.missed
    split
    · split <;> exact idle
    · exact idle
  have survey := ended.survey
  have relays := ended.relays
  rw [s.endPass_eq]
  generalize s.passEnded = w at *
  have begun := w.passBegun_spec
  split
  · rw [begun.survey, survey]
    refine ⟨begun.relays.trans relays, rfl, rfl, rfl, fun k h => ?_⟩
    rw [begun.core k]
    unfold CoreRun.passBegun
    split <;> exact idle k h
  · rw [survey]
    exact ⟨relays, rfl, rfl, rfl, idle⟩

/-! ### The end of a test (R146) -/

/-- The test of a core over, before the pass is ended or a selection asked for. -/
def State.tested (s : State) (k : CoreId) : State :=
  State.updCore { s with survey := { s.survey with release := none, underTest := none } } k fun r => { r with test := .idle }

theorem State.testEnd_eq (under : s.survey.underTest = some k) (releasing : (s.cores[k]).test = .releasing) :
    s.testEnd = if s.survey.halted then s.tested k
      else if s.survey.active && s.survey.window.isNone then (s.tested k).endPass else (s.tested k).wantSelection := by
  unfold State.testEnd
  rw [under]
  exact if_pos releasing

theorem State.tested_idle (s : State) (k : CoreId) : ((s.tested k).cores[k]).test = .idle :=
  congrArg CoreRun.test (upd_same _ _ _)

/-- The end of a test in RELEASING. -/
theorem State.testEnd_spec (under : s.survey.underTest = some k) (releasing : (s.cores[k]).test = .releasing) :
    s.testEnd.survey.release = none ∧ s.testEnd.survey.underTest = none ∧ (s.testEnd.cores[k]).test = .idle := by
  obtain ⟨-, release, ended, -, idle⟩ := (s.tested k).endPass_frame
  rw [State.testEnd_eq under releasing]
  split
  · exact ⟨rfl, rfl, s.tested_idle k⟩
  · split
    · exact ⟨release, ended, idle k (s.tested_idle k)⟩
    · exact ⟨rfl, rfl, s.tested_idle k⟩

theorem State.testEnd_frame (s : State) : s.testEnd.relays = s.relays
    ∧ s.testEnd.survey.lineClosed = s.survey.lineClosed := by
  cases under : s.survey.underTest with
  | none =>
    unfold State.testEnd
    rw [under]
    exact ⟨rfl, rfl⟩
  | some k =>
    by_cases releasing : (s.cores[k]).test = .releasing
    · obtain ⟨relays, -, -, line, -⟩ := (s.tested k).endPass_frame
      rw [State.testEnd_eq under releasing]
      split
      · exact ⟨rfl, rfl⟩
      · split
        · exact ⟨relays, line⟩
        · exact ⟨rfl, rfl⟩
    · unfold State.testEnd
      rw [under]
      dsimp only
      rw [if_neg releasing]
      exact ⟨rfl, rfl⟩

end Sys2Proof.Machine

/-! SUPPORT. The eligibility of a core (R141) and the order of a selection (R142). -/

namespace Sys2Proof.Machine

variable {s t u : State} {k : CoreId} {c : Chan} {e : Nat}

/-! ### Eligibility (R141) -/

theorem State.coreEligible_role (s : State) (k : CoreId) (t : Nat) :
    (s.work.cores[k].role = .unused → s.coreEligible k t = false)
    ∧ (s.work.cores[k].role = .spare → s.coreEligible k t = true)
    ∧ (s.work.cores[k].role = .common → (s.coreEligible k t = true ↔ s.smc.proof = false)) := by
  unfold State.coreEligible
  refine ⟨fun role => ?_, fun role => ?_, fun role => ?_⟩ <;> rw [role]
  exact iff_of_eq (Bool.not_eq_true' _)

/-- A LOAD core is eligible while its relay has been dark for 1.0 s and its channel will not be lit: a red with 2.5 s of green left, another with no pending green, an amber not fed by the flasher. -/
theorem State.coreEligible_load (role : s.work.cores[k].role = .load c) (t : Nat) : s.coreEligible k t = true ↔
      (s.relays[c]).state = .released ∧ (∃ d, (s.relays[c]).darkSince = some d ∧ d + 1000 ≤ t)
      ∧ (colourOf c = 0 → (s.groups[groupOf c]).aspect = .green ∧ s.engine.state = .green
          ∧ (s.stageGroups s.engine.inForce)[groupOf c] = true ∧ ∃ e, s.engine.greenTimer = some e ∧ t + 2500 ≤ e)
      ∧ (colourOf c ≠ 0 → (s.groups[groupOf c]).pendingGreen = false)
      ∧ (colourOf c = 1 → s.work.groups[groupOf c].type = .vehicle → s.flashBus = false) := by
  unfold State.coreEligible
  rw [role]
  dsimp only
  rw [Bool.and_eq_true, Bool.and_eq_true, decide_eq_true_iff, and_assoc]
  refine and_congr_right fun _ => and_congr ?_ ?_
  · cases (s.relays[c]).darkSince <;> simp
  · generalize colourOf c = x
    have colours : x = 0 ∨ x = 1 ∨ x = 2 := by omega
    rcases colours with rfl | rfl | rfl
    · cases s.engine.greenTimer <;> simp [and_assoc, -Fin.getElem_fin]
    · simp [imp_iff_not_or, -Fin.getElem_fin]
    · simp [-Fin.getElem_fin]

/-! ### The earliest time (R142) -/

theorem earliest_eq_min? (l : List Nat) : earliest l = l.min? := by
  cases l with
  | nil => rfl
  | cons t ts => exact List.min?_cons'.symm

/-- The time at which a core not yet dark for long enough will be eligible. -/
theorem State.eligibleLater_eq_some : s.eligibleLater k = some e ↔ s.now < e ∧ s.coreEligible k e = true
    ∧ ∃ (c : Chan) (d : Nat), s.work.cores[k].role = .load c ∧ (s.relays[c]).darkSince = some d ∧ e = d + 1000 := by
  unfold State.eligibleLater
  split
  · next c role =>
    split
    · next d dark =>
      simp only [Bool.and_eq_true, decide_eq_true_eq, Option.ite_none_right_eq_some, Option.some.injEq]
      constructor
      · rintro ⟨⟨later, eligible⟩, rfl⟩
        exact ⟨later, eligible, c, d, role, dark, rfl⟩
      · rintro ⟨later, eligible, c', d', role', dark', rfl⟩
        obtain rfl : c = c' := Role.load.inj (role.symm.trans role')
        obtain rfl : d = d' := Option.some.inj (dark.symm.trans dark')
        exact ⟨⟨later, eligible⟩, rfl⟩
    · next dark =>
      refine ⟨nofun, fun ⟨_, _, c', d, role', dark', _⟩ => ?_⟩
      obtain rfl : c = c' := Role.load.inj (role.symm.trans role')
      exact nomatch dark.symm.trans dark'
  · next other =>
    exact ⟨nofun, fun ⟨_, _, c, d, role, _⟩ => (other c role).elim⟩

/-! ### A selection (R142) -/

/-- A core's record with a wait for eligibility ended. -/
def CoreRun.unwaited (r : CoreRun) : CoreRun := if r.test = .waitEligible then { r with test := .idle } else r

theorem CoreRun.unwaited_test (r : CoreRun) (x : TestState) : { r.unwaited with test := x } = { r with test := x } := by
  unfold unwaited
  split <;> rfl

/-- The cores after a selection that has put one of them into a test state: the others wait no longer. -/
theorem State.unwaited_core (s : State) (k x : CoreId) (y : TestState) :
    (upd s.clearWaits.cores k fun r => { r with test := y })[x]
      = if x = k then { s.cores[x] with test := y } else (s.cores[x]).unwaited := by
  have cleared : s.clearWaits.cores[x] = (s.cores[x]).unwaited := map_get _ _ x
  rw [upd_get, cleared, CoreRun.unwaited_test]
  simp only [eq_comm]

theorem State.selection_none (h : s.survey.active = false ∨ s.survey.halted = true ∨ s.survey.underTest ≠ none) :
    s.selection = s := by
  refine if_neg fun on => ?_
  simp only [Bool.and_eq_true, Bool.not_eq_true', Option.isNone_iff_eq_none] at on
  obtain ⟨⟨active, halted⟩, free⟩ := on
  rcases h with h | h | h
  · exact Bool.noConfusion (h.symm.trans active)
  · exact Bool.noConfusion (h.symm.trans halted)
  · exact h free

section

variable (active : s.survey.active = true) (running : s.survey.halted = false) (free : s.survey.underTest = none)

include active running free

theorem State.selection_over (h : s.dueOrder = []) : s.selection = s.endPass := by
  unfold State.selection
  rw [if_pos (by simp [active, running, free])]
  dsimp only
  rw [h]

/-- The first eligible of the due cores is tested. -/
theorem State.selection_starts {first : CoreId} {rest : List CoreId} (due : s.dueOrder = first :: rest)
    (found : s.dueOrder.find? (fun k => !s.survey.lineClosed && s.coreEligible k s.now) = some k) :
    s.selection = s.clearWaits.testStart k := by
  unfold State.selection
  rw [if_pos (by simp [active, running, free])]
  dsimp only
  rw [due] at found ⊢
  dsimp only
  rw [found]

/-- With no due core eligible the first waits, and the eligibility timer is started toward the earliest time, where one exists. -/
theorem State.selection_waits {first : CoreId} {rest : List CoreId} (due : s.dueOrder = first :: rest)
    (found : s.dueOrder.find? (fun k => !s.survey.lineClosed && s.coreEligible k s.now) = none) :
    s.selection = { s with
      cores := upd s.clearWaits.cores first fun r => { r with test := .waitEligible }
      survey := { s.survey with
        eligibility := (earliest (s.dueOrder.filterMap s.eligibleLater)).or s.survey.eligibility } } := by
  unfold State.selection
  rw [if_pos (by simp [active, running, free])]
  dsimp only
  rw [due] at found ⊢
  dsimp only
  rw [found]
  dsimp only
  cases earliest ((first :: rest).filterMap s.eligibleLater) <;> rfl

end

/-- A due core whose relay is not yet dark for 1.0 s, with the time at which it will be eligible. -/
def State.DueLater (s : State) (x : CoreId) (e : Nat) : Prop :=
  x ∈ s.dueOrder ∧ s.now < e ∧ s.coreEligible x e = true
    ∧ ∃ (c : Chan) (d : Nat), s.work.cores[x].role = .load c ∧ (s.relays[c]).darkSince = some d ∧ e = d + 1000

theorem State.mem_eligibleLater : e ∈ s.dueOrder.filterMap s.eligibleLater ↔ ∃ x, s.DueLater x e := by
  rw [List.mem_filterMap]
  exact exists_congr fun x => and_congr_right fun _ => State.eligibleLater_eq_some

theorem State.earliest_later {x : CoreId} (later : s.DueLater x e) (least : ∀ y e', s.DueLater y e' → e ≤ e') :
    earliest (s.dueOrder.filterMap s.eligibleLater) = some e := by
  rw [earliest_eq_min?, List.min?_eq_some_iff]
  refine ⟨State.mem_eligibleLater.mpr ⟨x, later⟩, fun e' m => ?_⟩
  obtain ⟨y, later'⟩ := State.mem_eligibleLater.mp m
  exact least y e' later'

theorem State.earliest_never (never : ∀ x e, ¬ s.DueLater x e) :
    earliest (s.dueOrder.filterMap s.eligibleLater) = none := by
  rw [earliest_eq_min?, List.min?_eq_none_iff]
  refine List.eq_nil_iff_forall_not_mem.mpr fun e m => ?_
  obtain ⟨x, later⟩ := State.mem_eligibleLater.mp m
  exact never x e later

/-- The first eligible of the due cores. -/
theorem State.find_eligible {a b : List CoreId} (due : s.dueOrder = a ++ k :: b) (line : s.survey.lineClosed = false)
    (eligible : s.coreEligible k s.now = true) (before : ∀ x ∈ a, s.coreEligible x s.now = false) :
    s.dueOrder.find? (fun k => !s.survey.lineClosed && s.coreEligible k s.now) = some k :=
  List.find?_eq_some_iff_append.mpr ⟨by rw [line, eligible]; rfl, a, b, due, fun x m => by rw [before x m, Bool.and_false]; rfl⟩

theorem State.find_none (h : s.survey.lineClosed = true ∨ ∀ x ∈ s.dueOrder, s.coreEligible x s.now = false) :
    s.dueOrder.find? (fun k => !s.survey.lineClosed && s.coreEligible k s.now) = none :=
  List.find?_eq_none.mpr fun x m => by
    rcases h with line | never
    · rw [line]
      exact Bool.false_ne_true
    · rw [never x m, Bool.and_false]
      exact Bool.false_ne_true

end Sys2Proof.Machine

/-! SUPPORT. The events of the surveyor: its timers (R142, R143, R146, R149) and its proof line (R89, R140, R146), and O57. -/

namespace Sys2Proof.Machine

variable {s t u : State} {k : CoreId} {c : Chan} {e : Nat}

/-! ### The interval and the window (R149) -/

/-- What the interval timer does once its time has come. -/
def State.intervalExpiry (s : State) : State :=
  if s.survey.halted then { s with survey := { s.survey with interval := none } }
  else if s.survey.active then { s with survey := { s.survey with interval := none, startHeld := true } }
  else (State.beginPass { s with survey := { s.survey with interval := none } } false).wantSelection

/-- What the window timer does once its time has come. -/
def State.windowExpiry (s : State) : State :=
  if s.survey.active && s.survey.underTest.isNone then
    State.endPass { s with survey := { s.survey with window := none } }
  else { s with survey := { s.survey with window := none } }

/-- What the timers of the surveyor run, once time has passed to their ends. -/
theorem exec_surveyTimers (s : State) (e : Nat) :
    (s.survey.interval = some e → exec .intervalTimerExpiry s = .next ((s.elapseTo e).cascade (s.elapseTo e).intervalExpiry))
    ∧ (s.survey.window = some e → exec .windowTimerExpiry s = .next ((s.elapseTo e).cascade (s.elapseTo e).windowExpiry))
    ∧ (s.survey.charge = some e → exec .chargeTimerExpiry s = .next ((s.elapseTo e).cascade (s.elapseTo e).chargeExpiry))
    ∧ (s.survey.release = some e →
      exec .surveyorReleaseTimerExpiry s = .next ((s.elapseTo e).cascade (s.elapseTo e).releaseExpiry)) :=
  ⟨fun h => congrArg Host.Outcome.next (State.due_some h _), fun h => congrArg Host.Outcome.next (State.due_some h _),
    fun h => congrArg Host.Outcome.next (State.due_some h _), fun h => congrArg Host.Outcome.next (State.due_some h _)⟩

theorem State.beginPass_eq (s : State) (full : Bool) : s.beginPass full
    = { s with cores := (s.beginPass full).cores, survey := (s.beginPass full).survey } := by
  unfold State.beginPass
  rfl

theorem State.intervalExpiry_halted (halted : s.survey.halted = true) :
    s.intervalExpiry = { s with survey := { s.survey with interval := none } } := if_pos halted

/-- A rolling pass due while one is active: its start is held (R149). -/
theorem State.intervalExpiry_holds (halted : s.survey.halted = false) (active : s.survey.active = true) :
    s.intervalExpiry = { s with survey := { s.survey with interval := none, startHeld := true } } := by
  unfold State.intervalExpiry
  rw [if_neg (Bool.eq_false_iff.mp halted), if_pos active]

/-- A rolling pass begun at the interval timer. -/
theorem State.intervalExpiry_begins (halted : s.survey.halted = false) (active : s.survey.active = false) :
    s.intervalExpiry = { s with
      cores := s.intervalExpiry.cores, survey := s.intervalExpiry.survey, ev := { s.ev with select := true } }
    ∧ s.intervalExpiry.survey = s.survey.nextBegun s.now s.work.thr.hours
    ∧ ∀ k : CoreId, s.intervalExpiry.cores[k] = (s.cores[k]).passBegun s.work.cores[k].role := by
  have e : s.intervalExpiry = (State.beginPass { s with survey := { s.survey with interval := none } } false).wantSelection := by
    unfold State.intervalExpiry
    rw [if_neg (Bool.eq_false_iff.mp halted), if_neg (Bool.eq_false_iff.mp active)]
  have begun := State.passBegun_spec { s with survey := { s.survey with interval := none } }
  have frame := State.beginPass_eq { s with survey := { s.survey with interval := none } } false
  rw [e]
  refine ⟨?_, begun.survey, begun.core⟩
  generalize State.beginPass { s with survey := { s.survey with interval := none } } false = v at *
  rw [frame]
  rfl

theorem CoreRun.passOver_untested (r : CoreRun) :
    (if r.mark.isDue = true then r.missed else r).passOver.hist.untested
      = if r.mark.isDue = true ∧ r.hist.untested < 3 then r.hist.untested + 1 else r.hist.untested := by
  show (if r.mark.isDue = true then r.missed else r).hist.untested = _
  unfold CoreRun.missed
  by_cases due : r.mark.isDue = true
  · by_cases few : r.hist.untested < 3
    · rw [if_pos due, if_pos few, if_pos ⟨due, few⟩]
    · rw [if_pos due, if_neg few, if_neg fun h => few h.2]
  · rw [if_neg due, if_neg fun h => due h.1]

theorem State.windowExpiry_none (h : s.survey.active = false ∨ s.survey.underTest ≠ none) :
    s.windowExpiry = { s with survey := { s.survey with window := none } } := by
  refine if_neg fun on => ?_
  simp only [Bool.and_eq_true, Option.isNone_iff_eq_none] at on
  rcases h with h | h
  · exact Bool.noConfusion (h.symm.trans on.1)
  · exact h on.2

section

variable (active : s.survey.active = true) (free : s.survey.underTest = none)

include active free

theorem State.windowExpiry_ends : s.windowExpiry = State.endPass { s with survey := { s.survey with window := none } } := by
  unfold State.windowExpiry
  rw [active, free]
  rfl

/-- The pass ended at the window timer, with no start held or the surveyor halted. -/
theorem State.windowExpiry_ended (done : s.survey.startHeld = false ∨ s.survey.halted = true) :
    s.windowExpiry.survey = { s.survey with active := false, window := none, eligibility := none }
    ∧ s.windowExpiry.hasJob .surveyNow = false ∧ ImageKind.survey ∈ s.windowExpiry.store.queue
    ∧ ∀ k : CoreId, (s.windowExpiry.cores[k]).mark = .none ∧ (s.windowExpiry.cores[k]).hist.untested
      = if (s.cores[k]).mark.isDue = true ∧ (s.cores[k]).hist.untested < 3 then (s.cores[k]).hist.untested + 1
        else (s.cores[k]).hist.untested := by
  have no : ¬ (s.survey.startHeld = true ∧ s.survey.halted = false) := fun ⟨held, running⟩ => by
    rcases done with h | h
    · exact Bool.noConfusion (h.symm.trans held)
    · exact Bool.noConfusion (running.symm.trans h)
  have closed := State.endPass_eq { s with survey := { s.survey with window := none } }
  rw [if_neg no] at closed
  rw [State.windowExpiry_ends active free, closed]
  have ended := State.passEnded_spec { s with survey := { s.survey with window := none } }
  generalize State.passEnded { s with survey := { s.survey with window := none } } = v at *
  refine ⟨ended.survey, ended.job, ended.stored, fun k => ?_⟩
  rw [ended.core k]
  exact ⟨rfl, CoreRun.passOver_untested _⟩

/-- The pass ended at the window timer and the next begun, its start held. -/
theorem State.windowExpiry_next (held : s.survey.startHeld = true) (running : s.survey.halted = false) :
    s.windowExpiry.ev.select = true ∧ s.windowExpiry.hasJob .surveyNow = false
    ∧ ImageKind.survey ∈ s.windowExpiry.store.queue
    ∧ s.windowExpiry.survey = ({ s.survey with eligibility := none } : Survey).nextBegun s.now s.work.thr.hours
    ∧ ∀ k : CoreId, (s.windowExpiry.cores[k]).mark = (if s.work.cores[k].role = .unused then .none else .due)
      ∧ (s.windowExpiry.cores[k]).hist.untested
        = if (s.cores[k]).mark.isDue = true ∧ (s.cores[k]).hist.untested < 3 then (s.cores[k]).hist.untested + 1
          else (s.cores[k]).hist.untested := by
  have next := State.endPass_eq { s with survey := { s.survey with window := none } }
  rw [if_pos ⟨held, running⟩] at next
  rw [State.windowExpiry_ends active free, next]
  have ended := State.passEnded_spec { s with survey := { s.survey with window := none } }
  generalize State.passEnded { s with survey := { s.survey with window := none } } = v at *
  have begun := v.passBegun_spec
  generalize (v.beginPass false).wantSelection = u at *
  refine ⟨begun.select, ?_, ?_, ?_, fun k => ?_⟩
  · unfold State.hasJob State.job?
    rw [begun.link]
    exact ended.job
  · rw [begun.store]
    exact ended.stored
  · rw [begun.survey, ended.survey, ended.now, ended.work]
    rfl
  · rw [begun.core k, CoreRun.passBegun_mark, CoreRun.passBegun_hist, ended.core k, ended.work]
    exact ⟨rfl, CoreRun.passOver_untested _⟩

end

/-! ### The charge and the release timer (R143, R146) -/

/-- The closed line at the charge timer begins the measurement. -/
theorem State.chargeExpiry_closed (under : s.survey.underTest = some k) (line : s.survey.lineClosed = true) :
    s.chargeExpiry.relays = s.relays ∧ (s.chargeExpiry.cores[k]).test = .measureX16
    ∧ s.chargeExpiry.meas = (s.place (.leak k) .leakX16).meas ∧ s.chargeExpiry.survey = { s.survey with charge := none } := by
  have e : s.chargeExpiry = (State.updCore { s with survey := { s.survey with charge := none } } k fun r =>
      { r with test := .measureX16 }).place (.leak k) .leakX16 := by
    unfold State.chargeExpiry
    dsimp only
    rw [under]
    exact if_pos line
  rw [e]
  exact ⟨rfl, congrArg CoreRun.test (upd_same _ _ _), rfl, rfl⟩

/-- MATRIX_FAULT confirmed on a core, and the surveyor halted (R140). -/
theorem State.matrixHalt_spec (s : State) (k : CoreId) :
    let v := (s.observe ⟨.core k, .matrixFault⟩).haltSurvey
    v.relays = s.relays ∧ (⟨.core k, .matrixFault⟩ : Cond) ∈ v.faults.confirmed
    ∧ v.survey.halted = true ∧ v.survey.connected = none ∧ v.survey.charge = none
    ∧ v.survey.underTest = s.survey.underTest ∧ v.survey.release = s.survey.release
    ∧ ∀ x : CoreId, (s.cores[x]).test = .idle → (v.cores[x]).test = .idle := by
  have told := (FaultsOnly.observeOnce s (k := ⟨.core k, .matrixFault⟩) (Nat.le_refl 1) rfl).told
  have member := s.observe_confirmed (k := ⟨.core k, .matrixFault⟩) (Nat.le_refl 1)
  dsimp only
  generalize s.observe ⟨.core k, .matrixFault⟩ = v at *
  have halt := v.haltSurvey_spec
  have idle := halt.idle
  rw [told.cores] at idle
  refine ⟨halt.relays.trans told.relays, ?_, halt.halted, halt.connected, halt.charge, ?_, ?_, idle⟩
  · rw [halt.faults]
    exact member
  · rw [halt.underTest, told.survey]
  · rw [halt.release, told.survey]

/-- The open line at the charge timer: the crosspoint has not closed (R143). -/
theorem State.chargeExpiry_open (under : s.survey.underTest = some k) (line : s.survey.lineClosed = false) :
    s.chargeExpiry.relays = s.relays ∧ s.chargeExpiry.survey.charge = none ∧ (s.chargeExpiry.cores[k]).test = .idle
    ∧ s.chargeExpiry.survey.underTest = none ∧ s.chargeExpiry.survey.connected = none
    ∧ s.chargeExpiry.survey.halted = true ∧ (⟨.core k, .matrixFault⟩ : Cond) ∈ s.chargeExpiry.faults.confirmed := by
  have e : s.chargeExpiry = ((State.updCore { s with survey := { s.survey with
      charge := none, connected := none, underTest := none } } k fun r => { r with test := .idle }).observe
        ⟨.core k, .matrixFault⟩).haltSurvey := by
    unfold State.chargeExpiry
    dsimp only
    rw [under]
    exact if_neg (Bool.eq_false_iff.mp line)
  obtain ⟨relays, member, halted, unconnected, charge, ended, -, idle⟩ := State.matrixHalt_spec
    (State.updCore { s with survey := { s.survey with
      charge := none, connected := none, underTest := none } } k fun r => { r with test := .idle }) k
  rw [e]
  exact ⟨relays, charge, idle k (congrArg CoreRun.test (upd_same _ _ _)), ended, unconnected, halted, member⟩

/-- The line still closed at the release timer (R146). -/
theorem State.releaseExpiry_closed (under : s.survey.underTest = some k) (line : s.survey.lineClosed = true) :
    s.releaseExpiry.relays = s.relays ∧ s.releaseExpiry.survey.release = none ∧ s.releaseExpiry.survey.halted = true
    ∧ (⟨.core k, .matrixFault⟩ : Cond) ∈ s.releaseExpiry.faults.confirmed := by
  have e : s.releaseExpiry = (State.observe { s with survey := { s.survey with release := none } }
      ⟨.core k, .matrixFault⟩).haltSurvey := by
    unfold State.releaseExpiry
    rw [under]
    exact if_pos line
  obtain ⟨relays, member, halted, -, -, -, release, -⟩ :=
    State.matrixHalt_spec { s with survey := { s.survey with release := none } } k
  rw [e]
  exact ⟨relays, release, halted, member⟩

theorem State.releaseExpiry_open (under : s.survey.underTest = some k) (line : s.survey.lineClosed = false) :
    s.releaseExpiry = s.testEnd := by
  unfold State.releaseExpiry
  rw [under]
  exact if_neg (Bool.eq_false_iff.mp line)

/-! ### The proof line (R89, R146) -/

theorem exec_crosspointLineOpened (line : s.survey.lineClosed = true) (p : s.power.phase = .running) :
    exec .crosspointLineOpened s = .next (s.cascade s.lineOpened) := by
  show execCrosspointLineOpened s = _
  unfold execCrosspointLineOpened
  rw [if_pos line, if_pos (State.running_of p)]

theorem exec_crosspointLineClosed (line : s.survey.lineClosed = false) (p : s.power.phase = .running) :
    exec .crosspointLineClosed s = .next (s.setLine true).close := by
  show execCrosspointLineClosed s = _
  unfold execCrosspointLineClosed
  rw [if_neg (Bool.eq_false_iff.mp line), if_pos (State.running_of p)]

/-- The held operates taken as the line opens, before the test ends. -/
def State.operatesTaken (s : State) : State :=
  State.each { s with survey := { s.survey with lineClosed := false } }
    (allChans.filter fun c => (s.relays[c]).held && decide ((s.relays[c]).state = .released))
    fun c t => (t.energize c).wantSelection

theorem State.lineOpened_eq (s : State) : s.lineOpened = s.operatesTaken.testEnd := rfl

/-- What an energizing leaves of the surveyor. -/
theorem State.energize_told (s : State) (c : Chan) :
    (s.energize c).survey = s.survey ∧ (s.energize c).cores = s.cores := by
  unfold State.energize
  have told := (s.setRelay_told c fun r => { r with
    state := .operating, coil := true, held := false, waitCore := none, waitTimer := none
    opTimer := some (s.now + (s.limits c).operate) }).1
  exact ⟨told.survey, told.cores⟩

/-- Every relay in RELEASED with an operate held is energized; nothing else is changed of the relays and the surveyor but the level of the line. -/
theorem State.operatesTaken_spec (s : State) :
    s.operatesTaken.survey = { s.survey with lineClosed := false } ∧ s.operatesTaken.cores = s.cores
    ∧ ∀ c : Chan, s.operatesTaken.relays[c] = if (s.relays[c]).held = true ∧ (s.relays[c]).state = .released then
        (s.relays[c]).energized (s.now + s.work.channels[c].limits.operate) else s.relays[c] := by
  obtain ⟨⟨survey, cores, -, -⟩, relays⟩ := State.each_get
    (P := fun t => t.survey = { s.survey with lineClosed := false } ∧ t.cores = s.cores ∧ t.now = s.now ∧ t.work = s.work)
    (f := fun c t => (t.energize c).wantSelection) State.relays
    (fun c r => r.energized (s.now + s.work.channels[c].limits.operate))
    (fun c t ⟨survey, cores, now, work⟩ => by
      obtain ⟨survey', cores'⟩ := t.energize_told c
      have quiet := Quiet.energize t c
      refine ⟨⟨survey'.trans survey, cores'.trans cores, quiet.now.trans now, quiet.work.trans work⟩, ?_⟩
      rw [← now, ← work]
      exact t.energize_relays c)
    (allChans.filter fun c => (s.relays[c]).held && decide ((s.relays[c]).state = .released))
    { s with survey := { s.survey with lineClosed := false } } ((List.nodup_finRange 48).filter _) ⟨rfl, rfl, rfl, rfl⟩
  refine ⟨survey, cores, fun c => (relays c).trans ?_⟩
  simp only [allChans, List.mem_filter, List.mem_finRange, true_and, Bool.and_eq_true, decide_eq_true_eq]

theorem State.lineOpened_spec (s : State) : s.lineOpened.survey.lineClosed = false
    ∧ (∀ c : Chan, s.lineOpened.relays[c] = if (s.relays[c]).held = true ∧ (s.relays[c]).state = .released then
        (s.relays[c]).energized (s.now + s.work.channels[c].limits.operate) else s.relays[c])
    ∧ ∀ k, s.survey.underTest = some k → (s.cores[k]).test = .releasing →
        s.lineOpened.survey.underTest = none ∧ (s.lineOpened.cores[k]).test = .idle := by
  obtain ⟨survey, cores, relays⟩ := s.operatesTaken_spec
  obtain ⟨kept, line⟩ := s.operatesTaken.testEnd_frame
  rw [s.lineOpened_eq]
  refine ⟨line.trans (congrArg Survey.lineClosed survey), fun c => ?_, fun k under releasing => ?_⟩
  · exact (congrArg (fun v : Vector Relay 48 => v[c]) kept).trans (relays c)
  · obtain ⟨-, ended, idle⟩ := State.testEnd_spec (s := s.operatesTaken)
      ((congrArg Survey.underTest survey).trans under) (by rw [cores]; exact releasing)
    exact ⟨ended, idle⟩

/-- Settles O57: eligibility, the order of the due cores, a selection, and the events of the surveyor. -/
theorem surveyEvents : Obligations.SurveyEvents := by
  refine ⟨fun s k t => ?_, fun s => rfl, fun s => ⟨State.selection_none, fun active running free =>
    ⟨State.selection_over active running free, fun a b k due line eligible before => ?_, fun k b due none => ?_⟩⟩, ?_⟩
  · obtain ⟨unused, spare, common⟩ := s.coreEligible_role k t
    exact ⟨unused, spare, common, fun c role => State.coreEligible_load role t⟩
  · obtain ⟨first, rest, cons⟩ := List.exists_cons_of_ne_nil (l := s.dueOrder) (by simp [due])
    rw [State.selection_starts active running free cons (State.find_eligible due line eligible before)]
    exact ⟨rfl, fun x => s.unwaited_core k x .charging⟩
  · rw [State.selection_waits active running free due (State.find_none none)]
    refine ⟨rfl, fun x => s.unwaited_core k x .waitEligible, fun x e later least => ?_, fun never => ?_⟩
    · exact congrArg (Option.or · s.survey.eligibility) (State.earliest_later later least)
    · exact congrArg (Option.or · s.survey.eligibility) (State.earliest_never never)
  · intro s e
    obtain ⟨interval, window, charge, release⟩ := exec_surveyTimers s e
    have told := Told.elapseTo s e
    obtain ⟨-, work⟩ := s.elapseTo_kept e
    have survey := told.survey
    have cores := told.cores
    refine ⟨fun due => ⟨fun halted => ?_, fun halted active => ?_, fun halted active => ?_⟩,
      fun due => ⟨fun busy => ?_, fun active free done => ?_, fun active free held running => ?_⟩,
      fun due => congrArg Host.Outcome.next (State.due_some due _), fun k due under => ?_, fun k due under => ?_,
      fun line => congrArg Host.Outcome.next (if_neg (Bool.eq_false_iff.mp line)), fun line p => ?_,
      fun line => congrArg Host.Outcome.next (if_pos line), exec_crosspointLineClosed⟩
    · rw [interval due, State.intervalExpiry_halted ((congrArg Survey.halted survey).trans halted)]
    · rw [interval due, State.intervalExpiry_holds ((congrArg Survey.halted survey).trans halted)
        ((congrArg Survey.active survey).trans active)]
    · obtain ⟨frame, begun, core⟩ := State.intervalExpiry_begins (s := s.elapseTo e)
        ((congrArg Survey.halted survey).trans halted) ((congrArg Survey.active survey).trans active)
      rw [survey, work] at begun
      rw [cores, work] at core
      exact ⟨_, interval due, frame, begun, core⟩
    · rw [window due, State.windowExpiry_none (by rw [survey]; exact busy)]
    · obtain ⟨ended, job, stored, core⟩ := State.windowExpiry_ended (s := s.elapseTo e)
        ((congrArg Survey.active survey).trans active) ((congrArg Survey.underTest survey).trans free)
        (by rw [survey]; exact done)
      rw [cores] at core
      exact ⟨_, window due, congrArg Survey.active ended, congrArg Survey.window ended,
        congrArg Survey.eligibility ended, job, stored, core⟩
    · obtain ⟨select, job, stored, next, core⟩ := State.windowExpiry_next (s := s.elapseTo e)
        ((congrArg Survey.active survey).trans active) ((congrArg Survey.underTest survey).trans free)
        ((congrArg Survey.startHeld survey).trans held) ((congrArg Survey.halted survey).trans running)
      rw [survey, work] at next
      rw [cores, work] at core
      exact ⟨_, window due, select, job, stored, next, core⟩
    · cases line : s.survey.lineClosed with
      | true =>
        obtain ⟨relays, measured, meas, rest⟩ := State.chargeExpiry_closed (s := s.elapseTo e) (k := k)
          ((congrArg Survey.underTest survey).trans under) ((congrArg Survey.lineClosed survey).trans line)
        rw [survey] at rest
        exact ⟨_, charge due, relays.trans told.relays, congrArg Survey.charge rest, fun _ => ⟨measured, meas, rest⟩, nofun⟩
      | false =>
        obtain ⟨relays, uncharged, idle, ended, unconnected, halted, member⟩ := State.chargeExpiry_open (s := s.elapseTo e)
          ((congrArg Survey.underTest survey).trans under) ((congrArg Survey.lineClosed survey).trans line)
        exact ⟨_, charge due, relays.trans told.relays, uncharged, nofun, fun _ =>
          ⟨idle, ended, unconnected, halted, member⟩⟩
    · cases line : s.survey.lineClosed with
      | true =>
        obtain ⟨relays, released, halted, member⟩ := State.releaseExpiry_closed (s := s.elapseTo e)
          ((congrArg Survey.underTest survey).trans under) ((congrArg Survey.lineClosed survey).trans line)
        exact ⟨_, release due, relays.trans told.relays, fun _ => ⟨released, halted, member⟩, nofun⟩
      | false =>
        have ended := State.releaseExpiry_open (s := s.elapseTo e)
          ((congrArg Survey.underTest survey).trans under) ((congrArg Survey.lineClosed survey).trans line)
        refine ⟨_, release due, ?_⟩
        rw [ended]
        refine ⟨(State.testEnd_frame _).1.trans told.relays, nofun, fun _ releasing => ?_⟩
        exact State.testEnd_spec ((congrArg Survey.underTest survey).trans under) (by rw [cores]; exact releasing)
    · obtain ⟨opened, relays, ended⟩ := s.lineOpened_spec
      exact ⟨_, exec_crosspointLineOpened line p, opened, relays, ended⟩

end Sys2Proof.Machine
